-- ==== Sys2Proof/Word.lean ====
section
/-!
DEFINITION. The word types of the VX-5120 (R3, R13, R22, R76): bytes, 32-bit and 64-bit words, 1,024-bit
vector words, 96-bit instructions and 512-bit fetch lines. Nothing else: every helper a test could show wrong
stands under Machine/.
-/
namespace Sys2Proof

/-- A byte of any store (R3). -/
abbrev Byte := BitVec 8

/-- A 32-bit word. -/
abbrev Word32 := BitVec 32

/-- A 64-bit word: x registers, most latches, special registers (R13, R22). -/
abbrev Word := BitVec 64

/-- A 1,024-bit word: v registers, VEC and RNG latches (R13, R22). -/
abbrev VWord := BitVec 1024

/-- One instruction (R76). -/
abbrev InsnWord := BitVec 96

/-- One 64-byte fetch line read little-endian (R76). -/
abbrev LineWord := BitVec 512

end Sys2Proof
end

