-- ==== Sys2Proof/Config.lean ====
section
/-!
DEFINITION. What an implementation fixes, and the values the spec leaves open. The open values are opaque: nothing in
Lean can evaluate one or prove a value of it. Each is applied to the counter `tick` of the state, or to the operands
it depends on.
-/
namespace Sys2Proof.Config

/-- Which of `n` enabled steps the machine takes next (R240, R262, R287 leave the order of agents open; log 1). The
step uses it modulo the number of enabled steps. -/
opaque choose : (tick : Nat) → Nat

/-- How many cycles of the arithmetic clock pass with a step (R16, R109: cycle counts differ between steppings; log 6). -/
opaque elapse : (tick : Nat) → Nat

/-- The bits that pick the tree of an unordered vector reduction (R154; log 7). -/
opaque reductionTree : (tick : Nat) → Nat

/-- Which of the placements that R316 allows the shepherd takes (log 8). -/
opaque placementChoice : (tick : Nat) → Nat

/-- Whether a translation or a line that a step could find cached is still held (R301, R306; log 10). -/
opaque stillCached : (tick : Nat) → Bool

/-- Bits that the spec leaves open: of a value it does not state, of memory outside this module, of a choice it leaves
to the part (log 22 lists the uses). -/
opaque openBits : (tick : Nat) → BitVec 64

/-- The byte at an offset of the scale plane of a tensor of a form, by the tensor's base (R386 names no place for the plane;
log 9). -/
opaque scaleByte : (tick base offset : Nat) → BitVec 8

/-- The fixed hash that picks a port for a module and an 8,192-byte unit (R408 names it and does not give it; log 12). -/
opaque portHash : (m unit : Nat) → Nat

/-- How many writes the egress buffer holds (R365; log 69). -/
opaque egressRoom : Nat

/-- What the loader makes of a portable entry that holds the code of a firing (R385, R386, R388: scheduling, registers and
packing are the loader's own; log 9): the bytes of a text section, which begins with the entry's first instruction, its
relocation records, and the bytes of a const section. None where the form cannot be translated. -/
opaque translateBody (container : List Byte) (function entry : Nat) : Option (List Byte × List Byte × List Byte)

end Sys2Proof.Config
end

