-- ==== Sys2Proof/Machine/Bits.lean ====
section
/-!
DEFINITION. The helpers of R45 on numbers: bit fields, sign extension, wrapping, bytes in little-endian order (R3),
and sorted association lists keyed by numbers, in which every sparse part of the state is held.
-/
namespace Sys2Proof.Machine

/-- The open bits of number i of a use: the numbers of the uses of one step do not meet (log 1, log 22). -/
def openAt (tick use i : Nat) : Word := Config.openBits (tick + 2 ^ 66 * use + i)

/-- `Bits(x, hi, lo)` of R45 on a number. -/
def bits (x hi lo : Nat) : Nat := (x >>> lo) % 2 ^ (hi + 1 - lo)

/-- Bit `i` of a number. -/
def bit (x i : Nat) : Bool := x.testBit i

/-- 1 or 0. -/
def b2n (b : Bool) : Nat := if b then 1 else 0

/-- `Wrap(v, n)` of R45: v modulo 2^n. -/
def wrap (v : Int) (n : Nat) : Nat := (v % ((2 : Int) ^ n)).toNat

/-- `SExt(x, n)` of R45: the low n bits read in two's complement. -/
def sext (x n : Nat) : Int :=
  let y := x % 2 ^ n
  if 2 ^ n ≤ 2 * y then (y : Int) - (2 : Int) ^ n else (y : Int)

/-- Replace bits [hi:lo] of x by the low bits of f. -/
def setBits (x hi lo f : Nat) : Nat :=
  let n := hi + 1 - lo
  x % 2 ^ lo + (f % 2 ^ n) * 2 ^ lo + (x >>> (hi + 1)) * 2 ^ (hi + 1)

/-- The 64-bit word of a number. -/
def word (n : Nat) : Word := BitVec.ofNat 64 n

/-- Round up to a multiple. -/
def ceilDiv (a b : Nat) : Nat := (a + b - 1) / b

/-- Byte i of a number (R3). -/
def byteAt (x i : Nat) : Byte := BitVec.ofNat 8 (x >>> (8 * i))

/-- The low n bytes of a number, least significant first (R3). -/
def toBytes : (n x : Nat) → List Byte
  | 0, _ => []
  | n + 1, x => BitVec.ofNat 8 x :: toBytes n (x / 256)

/-- The number that bytes stand for, least significant first (R3). -/
def ofBytes : List Byte → Nat
  | [] => 0
  | b :: bs => b.toNat + 256 * ofBytes bs

/-- XOR of the low n bits of x (R77). -/
def parity : (n x : Nat) → Bool
  | 0, _ => false
  | n + 1, x => (x % 2 == 1) != parity n (x / 2)

/-- Number of one bits among the low n. -/
def popCount : (n x : Nat) → Nat
  | 0, _ => 0
  | n + 1, x => x % 2 + popCount n (x / 2)

/-- The numbers below n whose bit is set, rising. -/
def setBitsList (n x : Nat) : List Nat := (List.range n).filter (fun i => x.testBit i)

/-- Largest r with r * r <= n, by digits of base 2 (k of them). -/
def isqrtAux (n : Nat) : (k r : Nat) → Nat
  | 0, r => r
  | k + 1, r =>
    let c := r + 2 ^ k
    isqrtAux n k (if c * c ≤ n then c else r)

/-- Integer square root. -/
def isqrt (n : Nat) : Nat := isqrtAux n (n.log2 / 2 + 1) 0

/-! ## Sorted association lists -/

/-- A table keyed by numbers, strictly rising. -/
abbrev Tbl (α : Type) := List (Nat × α)

/-- The entry of a key. -/
def Tbl.find? {α : Type} : Tbl α → Nat → Option α
  | [], _ => none
  | (j, a) :: t, k => if j = k then some a else if k < j then none else Tbl.find? t k

/-- Write an entry. -/
def Tbl.put {α : Type} : Tbl α → Nat → α → Tbl α
  | [], k, a => [(k, a)]
  | (j, b) :: t, k, a =>
    if k < j then (k, a) :: (j, b) :: t
    else if k = j then (k, a) :: t
    else (j, b) :: Tbl.put t k a

/-- Remove an entry. -/
def Tbl.del {α : Type} : Tbl α → Nat → Tbl α
  | [], _ => []
  | (j, b) :: t, k => if j = k then t else if k < j then (j, b) :: t else (j, b) :: Tbl.del t k

/-- Change an entry that is there. -/
def Tbl.modify {α : Type} : Tbl α → Nat → (α → α) → Tbl α
  | [], _, _ => []
  | (j, b) :: t, k, f => if j = k then (j, f b) :: t else if k < j then (j, b) :: t else (j, b) :: Tbl.modify t k f

/-- An entry, or a default. -/
def Tbl.getD {α : Type} (t : Tbl α) (k : Nat) (d : α) : α := (Tbl.find? t k).getD d

/-- Change an entry, made from a default where there is none. -/
def Tbl.upsert {α : Type} (t : Tbl α) (k : Nat) (d : α) (f : α → α) : Tbl α := Tbl.put t k (f (Tbl.getD t k d))

/-- Write an entry, but hold no entry equal to the default: the one form of sparse data. -/
def Tbl.putSparse {α : Type} [DecidableEq α] (t : Tbl α) (k : Nat) (d a : α) : Tbl α :=
  if a = d then Tbl.del t k else Tbl.put t k a

/-- Keys rise strictly above a bound. -/
def Tbl.sortedAbove {α : Type} : (lo : Nat) → Tbl α → Bool
  | _, [] => true
  | lo, (j, _) :: t => lo ≤ j && Tbl.sortedAbove (j + 1) t

/-- Keys rise strictly. -/
def Tbl.sorted {α : Type} (t : Tbl α) : Bool := Tbl.sortedAbove 0 t

/-- Change element i of a list. -/
def listModify {α : Type} : List α → Nat → (α → α) → List α
  | [], _, _ => []
  | a :: l, 0, f => f a :: l
  | a :: l, i + 1, f => a :: listModify l i f

/-- Remove the first element that meets a test. -/
def removeFirst {α : Type} (p : α → Bool) : List α → List α
  | [] => []
  | a :: l => if p a then l else a :: removeFirst p l

/-- Change the first element that meets a test. -/
def modifyFirst {α : Type} (p : α → Bool) (f : α → α) : List α → List α
  | [] => []
  | a :: l => if p a then f a :: l else a :: modifyFirst p f l

/-- Insert into a list that a relation keeps sorted, after its equals. -/
def insertBy {α : Type} (le : α → α → Bool) (x : α) : List α → List α
  | [] => [x]
  | a :: l => if le a x then a :: insertBy le x l else x :: a :: l

/-- Sort by insertion; equals keep their order. -/
def sortBy {α : Type} (le : α → α → Bool) (l : List α) : List α := l.foldl (fun acc x => insertBy le x acc) []

/-- The first n elements, and the rest. -/
def listTake? {α : Type} (n : Nat) (l : List α) : Option (List α × List α) :=
  if n ≤ l.length then some (l.take n, l.drop n) else none

/-- Do two runs of bytes meet, each given by its first byte and its length? -/
def runsMeet (a n b m : Nat) : Bool := n != 0 && m != 0 && a < b + m && b < a + n

end Sys2Proof.Machine
end

