-- ==== Sys2Proof/Syntax.lean ====
section
/-!
DEFINITION. The instructions and steps of the part: one constructor of `Instr` per row of spec/opcode_table.json.
The first 22 are the 96-bit instructions (R81 to R85). The triggers of the opcode map (R97) follow, then the steps
that engines, banks, interfaces, the shepherd, the croft and the management controller take.
-/
namespace Sys2Proof

/-! ## Operands of moves -/

/-- The function units in the order of their numbers N (R89). -/
inductive FUnit where
  | alu0 | alu1 | mul | agu | lsu | fpu | vec | rng | mxq | cpe | msg | pat | sys
  deriving DecidableEq, Repr, Inhabited

/-- ALU triggers in offset order 0x00 to 0x1B (R97, R110). -/
inductive AluOp where
  | add | sub | and | or | xor | andn | shl | shr | sra | rol | ror
  | min | max | eq | ne | lt | le
  | sel | bfx | bfi | clz | ctz | popc | bswap
  | adds | subs | abs | neg
  deriving DecidableEq, Repr, Inhabited

/-- MUL triggers in offset order (R113). -/
inductive MulOp where
  | mul | mulh | mulw | mad | div | rem | divrem
  deriving DecidableEq, Repr, Inhabited

/-- AGU triggers in offset order (R115, R116). -/
inductive AguOp where
  | add | idx | idx2 | chk | wrap | hmk | hadv | hrel
  deriving DecidableEq, Repr, Inhabited

/-- LSU triggers (R119, R121 to R123, R224, R225, R228). -/
inductive LsuOp where
  | ld | st | ldWf | ldTake | stFill | feRd | feClr
  | aAdd | aAnd | aOr | aXor | aMin | aMax | aCas | aSwap
  | fence | rel | acq
  | cLd | cSt | cAddO | cAddU | cMinO | cMinU | cMaxO | cMaxU
  | cCasO | cCasU | cSwapO | cSwapU | cDecq
  deriving DecidableEq, Repr, Inhabited

/-- FPU triggers (R147, R148, R151). -/
inductive FpuOp where
  | add | sub | mul | fma | div | sqrt | cvt | cvti | cvtf
  | min | max | eq | lt | le | un | abs | neg | cls
  deriving DecidableEq, Repr, Inhabited

/-- VEC triggers (R147 to R162). -/
inductive VecOp where
  | add | sub | mul | fma | cvt | cvti | cvtf | redaddO | redaddU | bfdec
  | min | max | eq | lt | le | sel | abs | neg | redmax | redmin
  | bfenc | bfalign | exp | log | rcp | rsqrt | tanh | sigm
  | perm | bcast | rotl | vld | vst | vldWf
  | iadd | isub | imul | iand | ior | ixor | ishl | ishr | imin | imax
  deriving DecidableEq, Repr, Inhabited

/-- RNG triggers (R165). -/
inductive RngOp where
  | seed | draw | unif | norm
  deriving DecidableEq, Repr, Inhabited

/-- MXQ triggers (R170). -/
inductive MxqOp where
  | cmd | poll
  deriving DecidableEq, Repr, Inhabited

/-- CPE triggers (R213, R220). -/
inductive CpeOp where
  | send | read | store | muster | scatter | rsend | seal | cwait
  deriving DecidableEq, Repr, Inhabited

/-- MSG triggers (R204). -/
inductive MsgOp where
  | send | sendv | sendr | svc
  deriving DecidableEq, Repr, Inhabited

/-- PAT triggers (R208). -/
inductive PatOp where
  | pcfg | prd | pset | pget | hset | hget | pen | pdis
  deriving DecidableEq, Repr, Inhabited

/-- SYS triggers (R350). -/
inductive SysOp where
  | fsr | cfgrd | cfgwr
  deriving DecidableEq, Repr, Inhabited

/-- A trigger port (R97). `alu n` is ALU0 for `false` and ALU1 for `true`; `rm` is the rounding mode in the two low
code bits of the ports that have one (R56), and 0 for the others. -/
inductive Trig where
  | alu (n : Bool) (op : AluOp)
  | mul (op : MulOp)
  | agu (op : AguOp)
  | lsu (op : LsuOp)
  | fpu (op : FpuOp) (rm : BitVec 2)
  | vec (op : VecOp) (rm : BitVec 2)
  | rng (op : RngOp)
  | mxq (op : MxqOp)
  | cpe (op : CpeOp)
  | msg (op : MsgOp)
  | pat (op : PatOp)
  | sys (op : SysOp)
  deriving DecidableEq, Repr, Inhabited

/-- The special registers of R16 that have source codes 0x080 to 0x088 (R90). -/
inductive SpecReg where
  | sticky | satcount | rank | slot | firing | batch | cycle | ctx | vgrid
  deriving DecidableEq, Repr, Inhabited

/-- The trap registers, codes 0x0C0 to 0x0C3 (R90, R342). -/
inductive TrapReg where
  | tcause | tval | tinst | tframe
  deriving DecidableEq, Repr, Inhabited

/-- A move source (R90). `latch u second` is `U.q`, or `U.q2` when `second`. -/
inductive Src where
  | x (i : Fin 32)
  | v (i : Fin 16)
  | p (i : Fin 8)
  | h (i : Fin 8)
  | hAddr (i : Fin 8)
  | hAvail (i : Fin 8)
  | hCur (i : Fin 8)
  | spec (r : SpecReg)
  | trap (r : TrapReg)
  | latch (u : FUnit) (second : Bool)
  | imm (i : BitVec 12)
  deriving DecidableEq, Repr, Inhabited

/-- A move destination (R91). `latch u l` is operand latch `.a`, `.b` or `.c` for l = 0, 1, 2. -/
inductive Dst where
  | x (i : Fin 32)
  | v (i : Fin 16)
  | p (i : Fin 8)
  | h (i : Fin 8)
  | latch (u : FUnit) (l : Fin 3)
  | trig (t : Trig)
  deriving DecidableEq, Repr, Inhabited

/-- A guard (R86): true when p[p] XOR inv. -/
structure Guard where
  inv : Bool
  p : Fin 8
  deriving DecidableEq, Repr, Inhabited

/-- A move (R86, R87). A short-immediate move is never inverted: that guard bit is bit 11 of its immediate. -/
structure Move where
  g : Guard
  src : Src
  dst : Dst
  mod : BitVec 3
  deriving DecidableEq, Repr, Inhabited

/-- The null move `x0 -> x0` with guard 0 and modifier 0 (R83, R100). -/
def Move.null : Move := ⟨⟨false, 0⟩, .x 0, .x 0, 0⟩

/-! ## Names of things that steps act on -/

/-- A vtile: context number and rank (R9, R20). -/
structure VRef where
  ctx : Nat
  rank : Nat
  deriving DecidableEq, Repr, Inhabited

/-- A thread slot of a vtile (R11). -/
structure SRef where
  vt : VRef
  slot : Fin 8
  deriving DecidableEq, Repr, Inhabited

/-- What a stop or a resume of a halt group reaches: a vtile or a croft hart (R361). -/
inductive HaltTarget where
  | vtile (v : VRef)
  | hart (h : Fin 32)
  deriving DecidableEq, Repr, Inhabited

/-- The engine work that a memory-side segment belongs to: a copy by its CSEQ, or a BLOAD by its SEQ (R215). -/
inductive SegOwner where
  | copy (cseq : Word32)
  | bload (seq : Word32)
  deriving DecidableEq, Repr, Inhabited

/-- An 8,192-byte unit of an image: of the scratchpad, or of one B-store column slice (R284, R197). -/
inductive UnitId where
  | sp (n : Nat)
  | bs (col n : Nat)
  deriving DecidableEq, Repr, Inhabited

/-- The accesses of a croft hart (R398, R280, R365): a load or a store of 1, 2, 4 or 8 bytes, a FENCE with its predecessor and
successor sets, or a write for a context that leaves the recovery domain, to croft I/O or the management network, marked
immediate or not. -/
inductive CroftOp where
  | load (pa : Word) (n : Nat)
  | store (pa : Word) (n : Nat) (val : Word)
  | fence (predR predW succR succW : Bool)
  | outside (ctx : Nat) (immediate : Bool) (val : Word)
  deriving DecidableEq, Repr, Inhabited

/-- A place that a soft error strikes or the scrubber reads, in the row order of R359. -/
inductive ErrTarget where
  | scratchpad (v : VRef) (addr : Nat)
  | bstore (v : VRef) (col off : Nat)
  | commons (ctx off : Nat)
  | rim (loc : Nat)
  | slotState (r : SRef)
  | vtileState (v : VRef)
  | icache (site : Nat) (ctx line : Nat)
  | shepherdState (ctx : Option Nat)
  | croft
  deriving DecidableEq, Repr, Inhabited

/-- Choices that the launcher and the loader make when a container is loaded: where its sections and its units' GOTs
go (R378), what the undefined and port symbols are bound to, by their names (R374), where the metadata goes (R393), FBASE of each
function (R392), and where the table of portable entries stands in the file (R375 gives it no header field; log 16). -/
structure LoadPlan where
  sections : List (Nat × Nat)
  gots : List (Nat × Nat)
  ports : List (List Byte × Word)
  metaVa : Nat
  fbases : List Nat
  pfTab : Nat
  deriving DecidableEq, Repr, Inhabited

/-! ## The instructions -/

/-- One constructor per row of the table. -/
inductive Instr where
  -- the 96-bit instructions (R81 to R87)
  | m3 (a b c : Move)
  | mh (a b : Move) (imm : BitVec 20) (xd : Fin 32) (ig : Guard)
  | mw (a : Move) (imm : BitVec 56) (xd : Fin 32)
  | br (m : Move) (cg : Guard) (off : Word32)
  | call (m : Move) (cg : Guard) (off : Word32) (link : Fin 32)
  | ret (m : Move) (cg : Guard) (r : Fin 32)
  | jmp (m : Move) (cg : Guard) (r : Fin 32)
  | calli (m : Move) (cg : Guard) (r link : Fin 32)
  | rep (m : Move) (cg : Guard) (off : Word32) (r : Fin 32) (count : BitVec 16)
  | endF (m : Move) (cg : Guard)
  | park (m : Move) (cg : Guard) (kind : Fin 4) (r : Fin 32)
  | harr (m : Move) (cg : Guard) (h : Fin 16)
  | hwait (m : Move) (cg : Guard) (h : Fin 16)
  | trap (m : Move) (cg : Guard) (code : BitVec 16)
  | stclr (xa : Fin 32)
  | satwr (xa : Fin 32)
  | rset (xa : Fin 32) (ring : Fin 8)
  | mtsr (reg : TrapReg) (xa : Fin 32)
  | halt (group : Fin 64)
  | hgrp (xa : Fin 32)
  | einj (xa : Fin 32) (kind : Fin 6)
  | tret
  -- steps of a slot and its engines
  | resultLanding (r : SRef) (u : FUnit)
  | storeBufferPerform (r : SRef)
  | pendingRecordPerform (r : SRef) (u : FUnit)
  | parkWake (r : SRef)
  | forcedUserIssue (site : Nat)
  -- ALU triggers
  | aluAdd (n : Bool) (m : BitVec 3)
  | aluSub (n : Bool) (m : BitVec 3)
  | aluAnd (n : Bool) (m : BitVec 3)
  | aluOr (n : Bool) (m : BitVec 3)
  | aluXor (n : Bool) (m : BitVec 3)
  | aluAndn (n : Bool) (m : BitVec 3)
  | aluShl (n : Bool) (m : BitVec 3)
  | aluShr (n : Bool) (m : BitVec 3)
  | aluSra (n : Bool) (m : BitVec 3)
  | aluRol (n : Bool) (m : BitVec 3)
  | aluRor (n : Bool) (m : BitVec 3)
  | aluMin (n : Bool) (m : BitVec 3)
  | aluMax (n : Bool) (m : BitVec 3)
  | aluEq (n : Bool) (m : BitVec 3)
  | aluNe (n : Bool) (m : BitVec 3)
  | aluLt (n : Bool) (m : BitVec 3)
  | aluLe (n : Bool) (m : BitVec 3)
  | aluSel (n : Bool) (m : BitVec 3)
  | aluBfx (n : Bool) (m : BitVec 3)
  | aluBfi (n : Bool) (m : BitVec 3)
  | aluClz (n : Bool) (m : BitVec 3)
  | aluCtz (n : Bool) (m : BitVec 3)
  | aluPopc (n : Bool) (m : BitVec 3)
  | aluBswap (n : Bool) (m : BitVec 3)
  | aluAdds (n : Bool) (m : BitVec 3)
  | aluSubs (n : Bool) (m : BitVec 3)
  | aluAbs (n : Bool) (m : BitVec 3)
  | aluNeg (n : Bool) (m : BitVec 3)
  -- MUL triggers
  | mulMul (m : BitVec 3)
  | mulMulh (m : BitVec 3)
  | mulMulw (m : BitVec 3)
  | mulMad (m : BitVec 3)
  | mulDiv (m : BitVec 3)
  | mulRem (m : BitVec 3)
  | mulDivrem (m : BitVec 3)
  -- AGU triggers
  | aguAdd (m : BitVec 3)
  | aguIdx (m : BitVec 3)
  | aguIdx2 (m : BitVec 3)
  | aguChk (m : BitVec 3)
  | aguWrap (m : BitVec 3)
  | aguHmk (m : BitVec 3)
  | aguHadv (m : BitVec 3)
  | aguHrel (m : BitVec 3)
  -- LSU triggers
  | lsuLd (m : BitVec 3)
  | lsuSt (m : BitVec 3)
  | lsuLdWf (m : BitVec 3)
  | lsuLdTake (m : BitVec 3)
  | lsuStFill (m : BitVec 3)
  | lsuFeRd (m : BitVec 3)
  | lsuFeClr (m : BitVec 3)
  | lsuAAdd (m : BitVec 3)
  | lsuAAnd (m : BitVec 3)
  | lsuAOr (m : BitVec 3)
  | lsuAXor (m : BitVec 3)
  | lsuAMin (m : BitVec 3)
  | lsuAMax (m : BitVec 3)
  | lsuACas (m : BitVec 3)
  | lsuASwap (m : BitVec 3)
  | lsuFence (m : BitVec 3)
  | lsuRel (m : BitVec 3)
  | lsuAcq (m : BitVec 3)
  | lsuCLd (m : BitVec 3)
  | lsuCSt (m : BitVec 3)
  | lsuCAddO (m : BitVec 3)
  | lsuCAddU (m : BitVec 3)
  | lsuCMinO (m : BitVec 3)
  | lsuCMinU (m : BitVec 3)
  | lsuCMaxO (m : BitVec 3)
  | lsuCMaxU (m : BitVec 3)
  | lsuCCasO (m : BitVec 3)
  | lsuCCasU (m : BitVec 3)
  | lsuCSwapO (m : BitVec 3)
  | lsuCSwapU (m : BitVec 3)
  | lsuCDecq (m : BitVec 3)
  -- commons banks and routers
  | commonsBankPerform (ctx id : Nat)
  | scopeMiss (ctx id : Nat)
  -- FPU triggers
  | fpuAdd (m : BitVec 3) (rm : BitVec 2)
  | fpuSub (m : BitVec 3) (rm : BitVec 2)
  | fpuMul (m : BitVec 3) (rm : BitVec 2)
  | fpuFma (m : BitVec 3) (rm : BitVec 2)
  | fpuDiv (m : BitVec 3) (rm : BitVec 2)
  | fpuSqrt (m : BitVec 3) (rm : BitVec 2)
  | fpuCvt (m : BitVec 3) (rm : BitVec 2)
  | fpuCvti (m : BitVec 3) (rm : BitVec 2)
  | fpuCvtf (m : BitVec 3) (rm : BitVec 2)
  | fpuMin (m : BitVec 3)
  | fpuMax (m : BitVec 3)
  | fpuEq (m : BitVec 3)
  | fpuLt (m : BitVec 3)
  | fpuLe (m : BitVec 3)
  | fpuUn (m : BitVec 3)
  | fpuAbs (m : BitVec 3)
  | fpuNeg (m : BitVec 3)
  | fpuClass (m : BitVec 3)
  -- VEC triggers
  | vecAdd (m : BitVec 3) (rm : BitVec 2)
  | vecSub (m : BitVec 3) (rm : BitVec 2)
  | vecMul (m : BitVec 3) (rm : BitVec 2)
  | vecFma (m : BitVec 3) (rm : BitVec 2)
  | vecCvt (m : BitVec 3) (rm : BitVec 2)
  | vecCvti (m : BitVec 3) (rm : BitVec 2)
  | vecCvtf (m : BitVec 3) (rm : BitVec 2)
  | vecRedaddO (m : BitVec 3) (rm : BitVec 2)
  | vecRedaddU (m : BitVec 3) (rm : BitVec 2)
  | vecBfdec (m : BitVec 3) (rm : BitVec 2)
  | vecMin (m : BitVec 3)
  | vecMax (m : BitVec 3)
  | vecEq (m : BitVec 3)
  | vecLt (m : BitVec 3)
  | vecLe (m : BitVec 3)
  | vecSel (m : BitVec 3)
  | vecAbs (m : BitVec 3)
  | vecNeg (m : BitVec 3)
  | vecRedmax (m : BitVec 3)
  | vecRedmin (m : BitVec 3)
  | vecBfenc (m : BitVec 3)
  | vecBfalign (m : BitVec 3)
  | vecExp (m : BitVec 3)
  | vecLog (m : BitVec 3)
  | vecRcp (m : BitVec 3)
  | vecRsqrt (m : BitVec 3)
  | vecTanh (m : BitVec 3)
  | vecSigm (m : BitVec 3)
  | vecPerm (m : BitVec 3)
  | vecBcast (m : BitVec 3)
  | vecRotl (m : BitVec 3)
  | vecVld (m : BitVec 3)
  | vecVst (m : BitVec 3)
  | vecVldWf (m : BitVec 3)
  | vecIadd (m : BitVec 3)
  | vecIsub (m : BitVec 3)
  | vecImul (m : BitVec 3)
  | vecIand (m : BitVec 3)
  | vecIor (m : BitVec 3)
  | vecIxor (m : BitVec 3)
  | vecIshl (m : BitVec 3)
  | vecIshr (m : BitVec 3)
  | vecImin (m : BitVec 3)
  | vecImax (m : BitVec 3)
  -- RNG triggers
  | rngSeed (m : BitVec 3)
  | rngDraw (m : BitVec 3)
  | rngUnif (m : BitVec 3)
  | rngNorm (m : BitVec 3)
  -- MXQ triggers and matrix commands; `cmd c` carries the 512 bits that MXQ takes from its v register
  | mxqCmd (c : LineWord)
  | mxqPoll (m : BitVec 3)
  | accz (v : VRef)
  | accld (v : VRef)
  | bload (v : VRef)
  | mmaO (v : VRef)
  | mmaG (v : VRef)
  | drain (v : VRef)
  | mxfence (v : VRef)
  | mxstat (v : VRef)
  -- CPE triggers and the copy engine
  | cpeSend (m : BitVec 3)
  | cpeRead (m : BitVec 3)
  | cpeStore (m : BitVec 3)
  | cpeMuster (m : BitVec 3)
  | cpeScatter (m : BitVec 3)
  | cpeRsend (m : BitVec 3)
  | cpeSeal (m : BitVec 3)
  | cpeCwait (m : BitVec 3)
  | musterIndexRead (v : VRef) (cseq : Word32)
  | segmentTranslation (v : VRef) (o : SegOwner) (seg : Nat)
  | copyLanding (v : VRef) (o : SegOwner) (seg : Nat)
  | ringReservation (v : VRef) (cseq : Word32)
  -- MSG triggers and the message interface
  | msgSend (m : BitVec 3)
  | msgSendv (m : BitVec 3)
  | msgSendr (m : BitVec 3)
  | msgSvc (m : BitVec 3)
  | messageDelivery (ctx id : Nat)
  | firingStart (v : VRef)
  -- PAT triggers
  | patPcfg (m : BitVec 3)
  | patPrd (m : BitVec 3)
  | patPset (m : BitVec 3)
  | patPget (m : BitVec 3)
  | patHset (m : BitVec 3)
  | patHget (m : BitVec 3)
  | patPen (m : BitVec 3)
  | patPdis (m : BitVec 3)
  -- SYS triggers and the configuration items
  | sysFsr (m : BitVec 3)
  | sysCfgrd (m : BitVec 3)
  | sysCfgwr (m : BitVec 3)
  | mxctlRelease (v : VRef)
  | mxctlDiscard (v : VRef)
  | holdRelease (v : VRef)
  | holdAbort (v : VRef)
  | tfbaseWrite (v : VRef) (val : Word)
  | segrstRestart (v : VRef) (o : SegOwner)
  | segrstAbandon (v : VRef) (o : SegOwner)
  | hgres (v : VRef) (group : Fin 64)
  | cfgWrite (ctx id : Nat)
  | trapEntry (r : SRef)
  | heldTrapDelivery (v : VRef) (k : Nat)
  | haltStop (t : HaltTarget)
  | haltResume (t : HaltTarget)
  -- the shepherd
  | launchQueueTake (ctx : Nat) (q : Fin 16)
  | flockFinish (ctx fidx : Nat)
  | queueSwitchIn (ctx : Nat) (q : Fin 16)
  | placement (ctx fidx : Nat)
  | agingStep (ctx fidx : Nat)
  | rotationIn (ctx fidx : Nat)
  | rotationOut (ctx fidx : Nat)
  | flip (site : Nat)
  | unitSpill (v : VRef) (u : UnitId)
  | unitRestore (v : VRef) (u : UnitId)
  | timeSliceSwitch (site : Nat)
  | idleSliceSwitch (site : Nat)
  | driftLoadExchange
  | scrub (t : ErrTarget)
  -- croft commands and registers
  | create (ctx : Nat)
  | suspend (ctx : Nat)
  | resume (ctx : Nat)
  | teardown (ctx : Nat) (cause : Byte)
  | keyZero (slot : Nat) (owner : Byte)
  | lqcfgWrite (ctx : Nat) (q : Fin 16) (val : Word)
  | lqtailWrite (h : Fin 32) (ctx : Nat) (q : Fin 16) (val : Word)
  | stage1All (ctx : Nat)
  | stage1Range (ctx : Nat)
  | stage2All (vmid : Nat)
  | stage2Range (vmid : Nat)
  | instructionAll (ctx : Nat)
  | descriptorReload (ctx : Nat)
  | invalidationComplete
  | keyLoad (slot : Nat) (owner : Byte)
  | featmWrite (val : Word)
  | rimgRestore (ctx : Nat) (val : Word)
  | cmsend (h : Fin 32) (ctx : Nat)
  | ccopLd (ctx : Nat)
  | ccopSt (h : Fin 32) (ctx : Nat)
  | hstop (mask : Word)
  | hresume (mask : Word)
  | routeWrite (m : Nat) (second : Bool) (val : Word)
  | registerWrite (h : Fin 32) (loc : Nat) (val : Word)
  -- recovery and background activity
  | recoveryPointCut
  | pointCommit
  | rollback
  | linkFlitRetry (link : Nat) (port : Option (Fin 64)) (fails : Nat)
  | meshLinkCalibration (link : Nat)
  | fabricLaneCalibration (port : Fin 64)
  | telemetrySample
  | powerThrottle
  | thermalThrottle (field : Nat)
  | thermalTrip (field : Nat)
  | boot
  | firmwareUpdate (image : List Byte)
  | svnRaise
  | loaderMeasurement (digest : LineWord)
  | attestationReport (nonce : BitVec 256)
  | softError (t : ErrTarget) (uncorrectable : Bool)
  | linkUp (port : Fin 64)
  | hbm4eRefresh (stack : Fin 32)
  | containerLoad (ctx : Nat) (container : List Byte) (plan : LoadPlan)
  | croftMemoryAccess (h : Fin 32) (op : CroftOp)
  deriving DecidableEq, Repr, Inhabited

end Sys2Proof
end

