-- ==== Sys2Proof/Machine/Codes.lean ====
section
/-!
DEFINITION. The code spaces of R88 to R92 and the opcode map of R97: the offset of every trigger in its unit's block,
its modifier class, and which modifier codes it accepts.
-/
namespace Sys2Proof.Machine

/-- Unit number N (R89). -/
def unitNum : FUnit → Nat
  | .alu0 => 0 | .alu1 => 1 | .mul => 2 | .agu => 3 | .lsu => 4 | .fpu => 5 | .vec => 6
  | .rng => 7 | .mxq => 8 | .cpe => 9 | .msg => 10 | .pat => 11 | .sys => 12

/-- The unit of a number. -/
def unitOfNum : Nat → Option FUnit
  | 0 => some .alu0 | 1 => some .alu1 | 2 => some .mul | 3 => some .agu | 4 => some .lsu | 5 => some .fpu
  | 6 => some .vec | 7 => some .rng | 8 => some .mxq | 9 => some .cpe | 10 => some .msg | 11 => some .pat
  | 12 => some .sys
  | _ => none

/-- Number of operand latches of a unit (R22). -/
def unitOperands : FUnit → Nat
  | .alu0 | .alu1 | .mul | .rng | .pat => 2
  | .agu | .lsu | .fpu | .vec | .cpe | .msg => 3
  | .mxq => 0
  | .sys => 1

/-- Does the unit have `.q2` (R22)? -/
def unitHasQ2 : FUnit → Bool
  | .mul | .lsu | .vec => true
  | _ => false

/-- The unit of a trigger. -/
def trigUnit : Trig → FUnit
  | .alu n _ => if n then .alu1 else .alu0
  | .mul _ => .mul
  | .agu _ => .agu
  | .lsu _ => .lsu
  | .fpu _ _ => .fpu
  | .vec _ _ => .vec
  | .rng _ => .rng
  | .mxq _ => .mxq
  | .cpe _ => .cpe
  | .msg _ => .msg
  | .pat _ => .pat
  | .sys _ => .sys

/-! ## Offsets (R97) -/

def aluOffset : AluOp → Nat
  | .add => 0x00 | .sub => 0x01 | .and => 0x02 | .or => 0x03 | .xor => 0x04 | .andn => 0x05 | .shl => 0x06
  | .shr => 0x07 | .sra => 0x08 | .rol => 0x09 | .ror => 0x0A | .min => 0x0B | .max => 0x0C | .eq => 0x0D
  | .ne => 0x0E | .lt => 0x0F | .le => 0x10 | .sel => 0x11 | .bfx => 0x12 | .bfi => 0x13 | .clz => 0x14
  | .ctz => 0x15 | .popc => 0x16 | .bswap => 0x17 | .adds => 0x18 | .subs => 0x19 | .abs => 0x1A | .neg => 0x1B

def aluOps : List AluOp := [
  .add, .sub, .and, .or, .xor, .andn, .shl, .shr, .sra, .rol, .ror, .min, .max, .eq, .ne, .lt, .le, .sel, .bfx,
  .bfi, .clz, .ctz, .popc, .bswap, .adds, .subs, .abs, .neg]

def mulOffset : MulOp → Nat
  | .mul => 0 | .mulh => 1 | .mulw => 2 | .mad => 3 | .div => 4 | .rem => 5 | .divrem => 6

def mulOps : List MulOp := [.mul, .mulh, .mulw, .mad, .div, .rem, .divrem]

def aguOffset : AguOp → Nat
  | .add => 0 | .idx => 1 | .idx2 => 2 | .chk => 3 | .wrap => 4 | .hmk => 5 | .hadv => 6 | .hrel => 7

def aguOps : List AguOp := [.add, .idx, .idx2, .chk, .wrap, .hmk, .hadv, .hrel]

def lsuOffset : LsuOp → Nat
  | .ld => 0x00 | .st => 0x01 | .ldWf => 0x02 | .ldTake => 0x03 | .stFill => 0x04 | .feRd => 0x05 | .feClr => 0x06
  | .aAdd => 0x08 | .aAnd => 0x09 | .aOr => 0x0A | .aXor => 0x0B | .aMin => 0x0C | .aMax => 0x0D | .aCas => 0x0E
  | .aSwap => 0x0F
  | .fence => 0x10 | .rel => 0x11 | .acq => 0x12
  | .cLd => 0x18 | .cSt => 0x19 | .cAddO => 0x1A | .cAddU => 0x1B | .cMinO => 0x1C | .cMinU => 0x1D
  | .cMaxO => 0x1E | .cMaxU => 0x1F | .cCasO => 0x20 | .cCasU => 0x21 | .cSwapO => 0x22 | .cSwapU => 0x23
  | .cDecq => 0x24

def lsuOps : List LsuOp := [
  .ld, .st, .ldWf, .ldTake, .stFill, .feRd, .feClr, .aAdd, .aAnd, .aOr, .aXor, .aMin, .aMax, .aCas, .aSwap,
  .fence, .rel, .acq, .cLd, .cSt, .cAddO, .cAddU, .cMinO, .cMinU, .cMaxO, .cMaxU, .cCasO, .cCasU, .cSwapO,
  .cSwapU, .cDecq]

/-- First code of an FPU trigger, and whether it takes four codes (a rounding mode). -/
def fpuOffset : FpuOp → Nat × Bool
  | .add => (0x00, true) | .sub => (0x04, true) | .mul => (0x08, true) | .fma => (0x0C, true)
  | .div => (0x10, true) | .sqrt => (0x14, true) | .cvt => (0x18, true) | .cvti => (0x1C, true)
  | .cvtf => (0x20, true)
  | .min => (0x24, false) | .max => (0x25, false) | .eq => (0x26, false) | .lt => (0x27, false)
  | .le => (0x28, false) | .un => (0x29, false) | .abs => (0x2A, false) | .neg => (0x2B, false)
  | .cls => (0x2C, false)

def fpuOps : List FpuOp := [
  .add, .sub, .mul, .fma, .div, .sqrt, .cvt, .cvti, .cvtf, .min, .max, .eq, .lt, .le, .un, .abs, .neg, .cls]

/-- First code of a VEC trigger, and whether it takes four codes. -/
def vecOffset : VecOp → Nat × Bool
  | .add => (0x00, true) | .sub => (0x04, true) | .mul => (0x08, true) | .fma => (0x0C, true)
  | .cvt => (0x10, true) | .cvti => (0x14, true) | .cvtf => (0x18, true)
  | .redaddO => (0x1C, true) | .redaddU => (0x20, true) | .bfdec => (0x24, true)
  | .min => (0x28, false) | .max => (0x29, false) | .eq => (0x2A, false) | .lt => (0x2B, false)
  | .le => (0x2C, false) | .sel => (0x2D, false) | .abs => (0x2E, false) | .neg => (0x2F, false)
  | .redmax => (0x30, false) | .redmin => (0x31, false)
  | .bfenc => (0x32, false) | .bfalign => (0x33, false)
  | .exp => (0x34, false) | .log => (0x35, false) | .rcp => (0x36, false) | .rsqrt => (0x37, false)
  | .tanh => (0x38, false) | .sigm => (0x39, false)
  | .perm => (0x40, false) | .bcast => (0x41, false) | .rotl => (0x42, false)
  | .vld => (0x48, false) | .vst => (0x49, false) | .vldWf => (0x4A, false)
  | .iadd => (0x50, false) | .isub => (0x51, false) | .imul => (0x52, false) | .iand => (0x53, false)
  | .ior => (0x54, false) | .ixor => (0x55, false) | .ishl => (0x56, false) | .ishr => (0x57, false)
  | .imin => (0x58, false) | .imax => (0x59, false)

def vecOps : List VecOp := [
  .add, .sub, .mul, .fma, .cvt, .cvti, .cvtf, .redaddO, .redaddU, .bfdec, .min, .max, .eq, .lt, .le, .sel, .abs,
  .neg, .redmax, .redmin, .bfenc, .bfalign, .exp, .log, .rcp, .rsqrt, .tanh, .sigm, .perm, .bcast, .rotl, .vld,
  .vst, .vldWf, .iadd, .isub, .imul, .iand, .ior, .ixor, .ishl, .ishr, .imin, .imax]

def rngOffset : RngOp → Nat
  | .seed => 0 | .draw => 1 | .unif => 2 | .norm => 3

def rngOps : List RngOp := [.seed, .draw, .unif, .norm]

def mxqOffset : MxqOp → Nat
  | .cmd => 0 | .poll => 1

def mxqOps : List MxqOp := [.cmd, .poll]

def cpeOffset : CpeOp → Nat
  | .send => 0 | .read => 1 | .store => 2 | .muster => 3 | .scatter => 4 | .rsend => 5 | .seal => 6 | .cwait => 7

def cpeOps : List CpeOp := [.send, .read, .store, .muster, .scatter, .rsend, .seal, .cwait]

def msgOffset : MsgOp → Nat
  | .send => 0 | .sendv => 1 | .sendr => 2 | .svc => 3

def msgOps : List MsgOp := [.send, .sendv, .sendr, .svc]

def patOffset : PatOp → Nat
  | .pcfg => 0 | .prd => 1 | .pset => 2 | .pget => 3 | .hset => 4 | .hget => 5 | .pen => 6 | .pdis => 7

def patOps : List PatOp := [.pcfg, .prd, .pset, .pget, .hset, .hget, .pen, .pdis]

def sysOffset : SysOp → Nat
  | .fsr => 0 | .cfgrd => 1 | .cfgwr => 2

def sysOps : List SysOp := [.fsr, .cfgrd, .cfgwr]

/-- The code of a trigger port: 0x200 + 0x100 × N + offset, with the rounding mode in the two low bits (R89, R97). -/
def trigOffset : Trig → Nat
  | .alu _ op => aluOffset op
  | .mul op => mulOffset op
  | .agu op => aguOffset op
  | .lsu op => lsuOffset op
  | .fpu op rm => (fpuOffset op).1 + (if (fpuOffset op).2 then rm.toNat else 0)
  | .vec op rm => (vecOffset op).1 + (if (vecOffset op).2 then rm.toNat else 0)
  | .rng op => rngOffset op
  | .mxq op => mxqOffset op
  | .cpe op => cpeOffset op
  | .msg op => msgOffset op
  | .pat op => patOffset op
  | .sys op => sysOffset op

def trigCode (t : Trig) : Nat := 0x200 + 0x100 * unitNum (trigUnit t) + trigOffset t

/-- Find the trigger of a block and an offset. -/
def trigOfOffset (u : FUnit) (off : Nat) : Option Trig :=
  let withRm {α : Type} (ops : List α) (f : α → Nat × Bool) (g : α → BitVec 2 → Trig) : Option Trig :=
    (ops.find? (fun op => (f op).1 ≤ off && off < (f op).1 + (if (f op).2 then 4 else 1))).map
      (fun op => g op (BitVec.ofNat 2 (off - (f op).1)))
  match u with
  | .alu0 => (aluOps.find? (fun op => aluOffset op == off)).map (Trig.alu false)
  | .alu1 => (aluOps.find? (fun op => aluOffset op == off)).map (Trig.alu true)
  | .mul => (mulOps.find? (fun op => mulOffset op == off)).map Trig.mul
  | .agu => (aguOps.find? (fun op => aguOffset op == off)).map Trig.agu
  | .lsu => (lsuOps.find? (fun op => lsuOffset op == off)).map Trig.lsu
  | .fpu => withRm fpuOps fpuOffset Trig.fpu
  | .vec => withRm vecOps vecOffset Trig.vec
  | .rng => (rngOps.find? (fun op => rngOffset op == off)).map Trig.rng
  | .mxq => (mxqOps.find? (fun op => mxqOffset op == off)).map Trig.mxq
  | .cpe => (cpeOps.find? (fun op => cpeOffset op == off)).map Trig.cpe
  | .msg => (msgOps.find? (fun op => msgOffset op == off)).map Trig.msg
  | .pat => (patOps.find? (fun op => patOffset op == off)).map Trig.pat
  | .sys => (sysOps.find? (fun op => sysOffset op == off)).map Trig.sys

/-- The trigger of a destination code (R97). -/
def trigOfCode (c : Nat) : Option Trig :=
  if 0x200 ≤ c && c < 0xF00 then
    match unitOfNum ((c - 0x200) / 0x100) with
    | some u => trigOfOffset u (c % 0x100)
    | none => none
  else none

/-! ## Modifier classes (R88) and the codes each operation accepts -/

/-- Class W accepts every code; W′ refuses 0 and 4; F the five formats; C as the table; S the five scopes. -/
inductive ModClass where
  | r | v | w | wPrime | f5 | f3 | s | c | n
  | w4    -- W codes 0, 1, 4 and 5 only (R122, R224)
  | wBf   -- W codes 0 and 4 only (R110)
  deriving DecidableEq, Repr, Inhabited

/-- Does a class accept a modifier code? -/
def modAccepts : ModClass → BitVec 3 → Bool
  | .r, m => m.toNat ≤ 6
  | .v, m => m.toNat ≤ 2
  | .w, _ => true
  | .wPrime, m => m.toNat != 0 && m.toNat != 4
  | .f5, m => m.toNat ≤ 4
  | .f3, m => m.toNat ≤ 2
  | .s, m => m.toNat ≤ 4
  | .c, m => m.toNat ≤ 6 && m.toNat != 2 && m.toNat != 3
  | .n, m => m.toNat == 0
  | .w4, m => m.toNat == 0 || m.toNat == 1 || m.toNat == 4 || m.toNat == 5
  | .wBf, m => m.toNat == 0 || m.toNat == 4

/-- The class of a trigger, narrowed to the codes its entry accepts (R110, R122, R147 to R165, R224). -/
def trigClass : Trig → ModClass
  | .alu _ op => (match op with | .bfx | .bfi => .wBf | _ => .w)
  | .mul _ => .w
  | .agu _ => .n
  | .lsu op => (match op with
    | .ld | .st | .ldWf | .ldTake | .stFill => .w
    | .feRd | .feClr => .n
    | .aAdd | .aAnd | .aOr | .aXor | .aMin | .aMax | .aCas | .aSwap => .w4
    | .fence | .rel | .acq => .s
    | .cLd | .cSt => .w
    | .cAddO | .cAddU | .cMinO | .cMinU | .cMaxO | .cMaxU => .c
    | .cCasO | .cCasU | .cSwapO | .cSwapU => .w4
    | .cDecq => .n)
  | .fpu op _ => (match op with
    | .cvt => .f5
    | .cvti | .cvtf => .w
    | _ => .f3)
  | .vec op _ => (match op with
    | .cvt | .bfdec => .f5
    | .cvti | .cvtf => .wPrime
    | .bfalign | .vld | .vst | .vldWf => .n
    | .perm | .bcast | .rotl | .iadd | .isub | .imul | .iand | .ior | .ixor | .ishl | .ishr | .imin | .imax => .wPrime
    | _ => .f3)
  | .rng op => (match op with
    | .seed | .draw => .n
    | .unif | .norm => .f3)
  | .mxq _ => .n
  | .cpe _ => .n
  | .msg _ => .n
  | .pat _ => .n
  | .sys _ => .n

/-- Does a trigger accept a modifier code? -/
def trigModOk (t : Trig) (m : BitVec 3) : Bool := modAccepts (trigClass t) m

/-- The rounding mode is zero where the port has none. -/
def trigRmOk : Trig → Bool
  | .fpu op rm => (fpuOffset op).2 || rm == 0
  | .vec op rm => (vecOffset op).2 || rm == 0
  | _ => true

/-- The class of a destination (R91). -/
def dstClass : Dst → ModClass
  | .x _ => .r
  | .v _ => .v
  | .p _ => .n
  | .h _ => .n
  | .latch _ _ => .n
  | .trig t => trigClass t

/-! ## Source and destination codes (R90, R91) -/

def specCode : SpecReg → Nat
  | .sticky => 0x080 | .satcount => 0x081 | .rank => 0x082 | .slot => 0x083 | .firing => 0x084 | .batch => 0x085
  | .cycle => 0x086 | .ctx => 0x087 | .vgrid => 0x088

def trapRegCode : TrapReg → Nat
  | .tcause => 0x0C0 | .tval => 0x0C1 | .tinst => 0x0C2 | .tframe => 0x0C3

def specOfCode : Nat → Option SpecReg
  | 0x080 => some .sticky | 0x081 => some .satcount | 0x082 => some .rank | 0x083 => some .slot
  | 0x084 => some .firing | 0x085 => some .batch | 0x086 => some .cycle | 0x087 => some .ctx | 0x088 => some .vgrid
  | _ => none

def trapRegOfCode : Nat → Option TrapReg
  | 0x0C0 => some .tcause | 0x0C1 => some .tval | 0x0C2 => some .tinst | 0x0C3 => some .tframe
  | _ => none

/-- The code of a source; a short immediate has its bits 10:0 here and bit 11 in the guard (R87). -/
def srcCode : Src → Nat
  | .x i => i.val
  | .v i => 0x020 + i.val
  | .p i => 0x030 + i.val
  | .h i => 0x038 + i.val
  | .hAddr i => 0x040 + i.val
  | .hAvail i => 0x048 + i.val
  | .hCur i => 0x050 + i.val
  | .spec r => specCode r
  | .trap r => trapRegCode r
  | .latch u second => 0x100 + 2 * unitNum u + b2n second
  | .imm i => 0x800 + i.toNat % 2 ^ 11

/-- The source of a code below 0x800. -/
def srcOfCode (c : Nat) : Option Src :=
  if c < 0x020 then some (.x (Fin.ofNat 32 c))
  else if c < 0x030 then some (.v (Fin.ofNat 16 (c - 0x020)))
  else if c < 0x038 then some (.p (Fin.ofNat 8 (c - 0x030)))
  else if c < 0x040 then some (.h (Fin.ofNat 8 (c - 0x038)))
  else if c < 0x048 then some (.hAddr (Fin.ofNat 8 (c - 0x040)))
  else if c < 0x050 then some (.hAvail (Fin.ofNat 8 (c - 0x048)))
  else if c < 0x058 then some (.hCur (Fin.ofNat 8 (c - 0x050)))
  else if c < 0x100 then
    match specOfCode c with
    | some r => some (.spec r)
    | none => (trapRegOfCode c).map Src.trap
  else if c ≤ 0x118 then
    match unitOfNum ((c - 0x100) / 2) with
    | some u =>
      if (c - 0x100) % 2 = 0 then some (.latch u false)
      else if unitHasQ2 u then some (.latch u true) else none
    | none => none
  else none

def dstCode : Dst → Nat
  | .x i => i.val
  | .v i => 0x020 + i.val
  | .p i => 0x030 + i.val
  | .h i => 0x038 + i.val
  | .latch u l => 0x100 + 4 * unitNum u + l.val
  | .trig t => trigCode t

def dstOfCode (c : Nat) : Option Dst :=
  if c < 0x020 then some (.x (Fin.ofNat 32 c))
  else if c < 0x030 then some (.v (Fin.ofNat 16 (c - 0x020)))
  else if c < 0x038 then some (.p (Fin.ofNat 8 (c - 0x030)))
  else if c < 0x040 then some (.h (Fin.ofNat 8 (c - 0x038)))
  else if 0x100 ≤ c && c ≤ 0x130 then
    match unitOfNum ((c - 0x100) / 4) with
    | some u =>
      let l := (c - 0x100) % 4
      if l < unitOperands u then some (.latch u (Fin.ofNat 3 l)) else none
    | none => none
  else (trigOfCode c).map Dst.trig

/-- Is a source one that a user slot may not name (R92)? -/
def srcPrivileged : Src → Bool
  | .trap _ => true
  | .latch u _ => u == .sys
  | _ => false

/-- Is a destination one that a user slot may not name (R92)? -/
def dstPrivileged : Dst → Bool
  | .latch u _ => u == .sys
  | .trig t => trigUnit t == .sys
  | _ => false

/-- Is the source one that exists (R90)? -/
def srcExists : Src → Bool
  | .latch u second => !second || unitHasQ2 u
  | _ => true

/-- Is the destination one that exists (R91)? -/
def dstExists : Dst → Bool
  | .latch u l => l.val < unitOperands u
  | .trig t => trigRmOk t
  | _ => true

/-- Element width of a W code (R107). -/
def wWidth (m : BitVec 3) : Nat :=
  match m.toNat % 4 with
  | 0 => 64 | 1 => 32 | 2 => 16 | _ => 8

end Sys2Proof.Machine
end

