-- ==== Sys2Proof/Machine/Fp.lean ====
section
/-!
DEFINITION. Number formats and arithmetic of chapter 02: IEEE and tapered formats, rounding, conversions, E8 scales,
block-float values. Every result is computed exactly and narrowed once.
-/
namespace Sys2Proof.Machine

/-! ## Events (R72) -/

/-- Sticky flags that an operation sets (bits as in R17) and the number of saturations it adds (R59). -/
structure Ev where
  flags : BitVec 8
  sat : Nat
  deriving DecidableEq, Repr, Inhabited

def flagNV : BitVec 8 := 0x01
def flagDZ : BitVec 8 := 0x02
def flagOF : BitVec 8 := 0x04
def flagUF : BitVec 8 := 0x08
def flagNX : BitVec 8 := 0x10
def flagNANP : BitVec 8 := 0x20
def flagSAT : BitVec 8 := 0x40
def flagMXUE : BitVec 8 := 0x80

/-- No event. -/
def evNone : Ev := ⟨0, 0⟩

/-- Flags alone. -/
def evFlags (f : BitVec 8) : Ev := ⟨f, 0⟩

/-- Both of two events: flags are ORed, counts add (R72). -/
def evAnd (a b : Ev) : Ev := ⟨a.flags ||| b.flags, a.sat + b.sat⟩

/-- Events of a list. -/
def evAll (l : List Ev) : Ev := l.foldl evAnd evNone

/-- A flag when a condition holds. -/
def evIf (c : Bool) (f : BitVec 8) : Ev := if c then ⟨f, 0⟩ else evNone

/-! ## Formats -/

/-- Format codes of R47. -/
inductive Fmt where
  | raw | fp32 | bf16 | fp16 | t8 | t6 | int8 | int32 | int64
  deriving DecidableEq, Repr, Inhabited

/-- The format of a code; 9 to 15 are reserved (R47). -/
def fmtOfCode : Nat → Option Fmt
  | 0 => some .raw | 1 => some .fp32 | 2 => some .bf16 | 3 => some .fp16 | 4 => some .t8
  | 5 => some .t6 | 6 => some .int8 | 7 => some .int32 | 8 => some .int64
  | _ => none

/-- Storage bits (R47). -/
def fmtBits : Fmt → Nat
  | .raw => 8 | .fp32 => 32 | .bf16 => 16 | .fp16 => 16 | .t8 => 8 | .t6 => 6
  | .int8 => 8 | .int32 => 32 | .int64 => 64

/-- Is it FP32, BF16 or FP16? -/
def fmtIsIeee : Fmt → Bool
  | .fp32 | .bf16 | .fp16 => true
  | _ => false

/-- Is it T8 or T6? -/
def fmtIsTapered : Fmt → Bool
  | .t8 | .t6 => true
  | _ => false

/-- Is it INT8, INT32 or INT64? -/
def fmtIsInt : Fmt → Bool
  | .int8 | .int32 | .int64 => true
  | _ => false

/-- The format of an F-class modifier code (R88). -/
def fmtOfF (m : BitVec 3) : Fmt :=
  match m.toNat with
  | 0 => .fp32 | 1 => .bf16 | 2 => .fp16 | 3 => .t8 | _ => .t6

/-- Exponent bits of an IEEE format (R48). -/
def expBits : Fmt → Nat
  | .fp16 => 5
  | _ => 8

/-- Fraction bits of an IEEE format (R48). -/
def fracBits : Fmt → Nat
  | .fp32 => 23 | .bf16 => 7 | .fp16 => 10
  | _ => 23

/-- Exponent bias (R48). -/
def expBias (f : Fmt) : Nat := 2 ^ (expBits f - 1) - 1

/-- The default NaN (R49). -/
def defaultNaN : Fmt → Nat
  | .fp32 => 0x7FC00000 | .bf16 => 0x7FC0 | .fp16 => 0x7E00
  | .t8 => 0x80 | .t6 => 0x20
  | _ => 0

/-- The +infinity of an IEEE format. -/
def infBits (f : Fmt) : Nat := (2 ^ expBits f - 1) * 2 ^ fracBits f

/-- The sign bit of a format set or clear. -/
def signBit (f : Fmt) (neg : Bool) : Nat := if neg then 2 ^ (fmtBits f - 1) else 0

/-! ## Exact values -/

/-- An exact value: a NaN, an infinity, or (-1)^neg * m * 2^e. -/
inductive FVal where
  | nan (signalling : Bool)
  | inf (neg : Bool)
  | fin (neg : Bool) (m : Nat) (e : Int)
  deriving DecidableEq, Repr, Inhabited

def FVal.isNan : FVal → Bool
  | .nan _ => true
  | _ => false

def FVal.isSig : FVal → Bool
  | .nan s => s
  | _ => false

def FVal.isInf : FVal → Bool
  | .inf _ => true
  | _ => false

def FVal.isZero : FVal → Bool
  | .fin _ m _ => m == 0
  | _ => false

def FVal.sign : FVal → Bool
  | .nan _ => false
  | .inf n => n
  | .fin n _ _ => n

def FVal.negate : FVal → FVal
  | .nan s => .nan s
  | .inf n => .inf (!n)
  | .fin n m e => .fin (!n) m e

/-- Times 2^k, exact. -/
def FVal.scale (k : Int) : FVal → FVal
  | .fin n m e => .fin n m (e + k)
  | v => v

/-- An exact integer. -/
def fvalOfInt (v : Int) : FVal := .fin (v < 0) v.natAbs 0

/-- Decode an IEEE value (R48). -/
def ieeeDecode (f : Fmt) (x : Nat) : FVal :=
  let fb := fracBits f
  let frac := x % 2 ^ fb
  let ex := (x >>> fb) % 2 ^ expBits f
  let neg := x.testBit (fmtBits f - 1)
  if ex = 2 ^ expBits f - 1 then
    if frac = 0 then .inf neg else .nan (!(frac.testBit (fb - 1)))
  else if ex = 0 then .fin neg frac (1 - (expBias f : Int) - fb)
  else .fin neg (2 ^ fb + frac) ((ex : Int) - expBias f - fb)

/-- Length of the run of bits equal to `lead` from bit w-1 of m down (R51). -/
def runLength (m : Nat) (lead : Bool) : (w : Nat) → Nat
  | 0 => 0
  | w + 1 => if m.testBit w == lead then 1 + runLength m lead w else 0

/-- `TDecode` of R51 for a magnitude field of w bits that is not zero: the value is m' * 2^e. -/
def tMagnitude (w m : Nat) : Nat × Int :=
  let lead := m.testBit (w - 1)
  let run := runLength m lead w
  let k : Int := if lead then (run : Int) - 1 else -(run : Int)
  let rest := if run = w then 0 else w - run - 1
  let e : Int := if 1 ≤ rest then (b2n (m.testBit (rest - 1)) : Int) else 0
  let fw := rest - 1
  (2 ^ fw + m % 2 ^ fw, 2 * k + e - fw)

/-- `TDecode` of R51. NV behaves as a quiet NaN (R55). -/
def tDecode (n c : Nat) : FVal :=
  let w := n - 1
  let m := c % 2 ^ w
  let s := c.testBit w
  if m = 0 then (if s then .nan false else .fin false 0 0)
  else let (mm, e) := tMagnitude w m; .fin s mm e

/-- The exact value of an element in a format; integer formats in two's complement when `signed`. -/
def fmtDecode (f : Fmt) (signed : Bool) (x : Nat) : FVal :=
  match f with
  | .fp32 | .bf16 | .fp16 => ieeeDecode f x
  | .t8 => tDecode 8 x
  | .t6 => tDecode 6 x
  | _ => fvalOfInt (if signed then sext x (fmtBits f) else (x % 2 ^ fmtBits f : Nat))

/-! ## Rounding (R56, R57) -/

/-- Rounding modes (R56). -/
inductive RM where
  | rn | rz | ru | rd
  deriving DecidableEq, Repr, Inhabited

def rmOf (c : BitVec 2) : RM :=
  match c.toNat with
  | 0 => .rn | 1 => .rz | 2 => .ru | _ => .rd

/-- Does a magnitude `sig + rem/2^d` (plus something positive below that when `st`) go up to sig + 1? -/
def roundsUp (rm : RM) (neg : Bool) (sig rem d : Nat) (st : Bool) : Bool :=
  let inexact := rem != 0 || st
  match rm with
  | .rn =>
    let half := 2 ^ d
    decide (half < 2 * rem) || (2 * rem == half && (st || sig % 2 == 1))
  | .rz => false
  | .ru => inexact && !neg
  | .rd => inexact && neg

/-- m * 2^e at quantum 2^q: the rounded significand and whether it is inexact. `st`: the value lies strictly between
m * 2^e and the next; the callers that set it give m more bits than the format keeps. -/
def roundAt (rm : RM) (neg : Bool) (m : Nat) (e q : Int) (st : Bool) : Nat × Bool :=
  if q ≤ e then (m <<< (e - q).toNat, st)
  else
    let d := (q - e).toNat
    let sig := m >>> d
    let rem := m % 2 ^ d
    (if roundsUp rm neg sig rem d st then sig + 1 else sig, rem != 0 || st)

/-- `Round(v, F, rm)` of R57 for v = (-1)^neg * m * 2^e, not zero (or slightly above in magnitude when `st`). -/
def roundFin (f : Fmt) (rm : RM) (neg : Bool) (m : Nat) (e : Int) (st : Bool) : Nat × Ev :=
  if m = 0 && !st then (signBit f neg, evNone)
  else
    let fb := fracBits f
    let emin : Int := 1 - (expBias f : Int)
    let top : Int := (m.log2 : Int) + e
    let qmin : Int := emin - fb
    let q : Int := if top - fb < qmin then qmin else top - fb
    let (sig, inexact) := roundAt rm neg m e q st
    let (sig, q) := if sig = 2 ^ (fb + 1) then (2 ^ fb, q + 1) else (sig, q)
    let tiny : Bool :=
      if emin ≤ top then false
      else if top < emin - 1 then true
      else (roundAt rm neg m e (top - fb) st).1 < 2 ^ (fb + 1)
    let ex : Int := if sig < 2 ^ fb then 0 else q - qmin + 1
    if (2 ^ expBits f - 1 : Nat) ≤ ex then
      let toInf : Bool := match rm with | .rn => true | .rz => false | .ru => !neg | .rd => neg
      (signBit f neg + (if toInf then infBits f else infBits f - 1), evFlags (flagOF ||| flagNX))
    else
      let body := if ex = 0 then sig else ex.toNat * 2 ^ fb + (sig - 2 ^ fb)
      (signBit f neg + body, evAnd (evIf inexact flagNX) (evIf (inexact && tiny) flagUF))

/-- `Round` of any exact value; a NaN gives the default NaN, with no flag here. -/
def roundVal (f : Fmt) (rm : RM) : FVal → Nat × Ev
  | .nan _ => (defaultNaN f, evNone)
  | .inf n => (signBit f n + infBits f, evNone)
  | .fin n m e => roundFin f rm n m e false

/-! ## Comparison of exact magnitudes -/

/-- m1 * 2^e1 compared with m2 * 2^e2 after bringing both to one exponent. -/
def alignPair (m1 : Nat) (e1 : Int) (m2 : Nat) (e2 : Int) : Nat × Nat × Int :=
  let e := if e1 ≤ e2 then e1 else e2
  (m1 <<< (e1 - e).toNat, m2 <<< (e2 - e).toNat, e)

def magLt (m1 : Nat) (e1 : Int) (m2 : Nat) (e2 : Int) : Bool :=
  let (a, b, _) := alignPair m1 e1 m2 e2
  a < b

def magEq (m1 : Nat) (e1 : Int) (m2 : Nat) (e2 : Int) : Bool :=
  let (a, b, _) := alignPair m1 e1 m2 e2
  a == b

/-- A < B for values that are no NaN. -/
def fvalLt : FVal → FVal → Bool
  | .inf n, .inf n' => n && !n'
  | .inf n, .fin _ _ _ => n
  | .fin _ _ _, .inf n => !n
  | .fin n m e, .fin n' m' e' =>
    let (a, b, _) := alignPair m e m' e'
    let x : Int := if n then -(a : Int) else a
    let y : Int := if n' then -(b : Int) else b
    x < y
  | _, _ => false

/-- A == B for values that are no NaN; -0 equals +0. -/
def fvalEq : FVal → FVal → Bool
  | .nan _, _ => false
  | _, .nan _ => false
  | a, b => !(fvalLt a b) && !(fvalLt b a)

/-! ## Tapered encoding (R58) -/

/-- Largest m in 0 .. 2^k - 1 + base with value at most a, by digits. -/
def tSearch (w : Nat) (am : Nat) (ae : Int) : (k lo : Nat) → Nat
  | 0, lo => lo
  | k + 1, lo =>
    let c := lo + 2 ^ k
    let (cm, ce) := tMagnitude w c
    tSearch w am ae k (if magLt am ae cm ce then lo else c)

/-- Value of a magnitude code, zero included. -/
def tMagOf (w m : Nat) : Nat × Int := if m = 0 then (0, 0) else tMagnitude w m

/-- `TEncode(x, n)` of R58. -/
def tEncode (n : Nat) : FVal → Nat × Ev
  | .nan _ => (2 ^ (n - 1), evNone)
  | .inf neg => ((if neg then 2 ^ (n - 1) else 0) + (2 ^ (n - 1) - 1), ⟨flagSAT ||| flagNX, 1⟩)
  | .fin neg m e =>
    let w := n - 1
    let s := if neg then 2 ^ w else 0
    if m = 0 then (0, evNone)
    else
      let (xm, xe) := tMagnitude w (2 ^ w - 1)
      if magLt xm xe m e then (s + (2 ^ w - 1), ⟨flagSAT ||| flagNX, 1⟩)
      else
        let lo := tSearch w m e w 0
        let (lm, le) := tMagOf w lo
        if magEq lm le m e then (if lo = 0 then (0, evNone) else (s + lo, evNone))
        else
          let hi := lo + 1
          let (hm, he) := tMagOf w hi
          -- dlo = a - lo, dhi = hi - a, brought to one exponent
          let (_, am, e1) := alignPair lm le m e
          let ee := if e1 ≤ he then e1 else he
          let a := am <<< (e1 - ee).toNat
          let l := (lm <<< (le - ee).toNat)
          let h := (hm <<< (he - ee).toNat)
          let l := if lo = 0 then 0 else l
          let dlo := a - l
          let dhi := h - a
          let mag := if dlo < dhi then lo else if dhi < dlo then hi else if lo % 2 = 0 then lo else hi
          let (nm, ne) := tMagnitude w 1
          let uf := magLt m e nm ne
          (if mag = 0 then 0 else s + mag, evAnd (evFlags flagNX) (evIf uf flagUF))

/-- Narrow an exact value into an IEEE or tapered format: `Round` or `TEncode` (R57, R58). -/
def narrow (f : Fmt) (rm : RM) (v : FVal) : Nat × Ev :=
  match f with
  | .t8 => tEncode 8 v
  | .t6 => tEncode 6 v
  | _ => roundVal f rm v

/-! ## Integers (R60) -/

/-- `RoundToIntegral` of a finite value. -/
def toIntegral (rm : RM) (neg : Bool) (m : Nat) (e : Int) : Int × Bool :=
  let (sig, inexact) := roundAt rm neg m e 0 false
  (if neg then -(sig : Int) else (sig : Int), inexact)

/-- `ToInt` of R60. -/
def toInt (v : FVal) (lo hi : Int) (rm : RM) : Int × Ev :=
  let satEv : Ev := ⟨flagNV ||| flagSAT ||| flagNX, 1⟩
  match v with
  | .nan _ => (0, evFlags flagNV)
  | .inf true => (lo, satEv)
  | .inf false => (hi, satEv)
  | .fin n m e =>
    let (t, inexact) := toIntegral rm n m e
    if hi < t then (hi, satEv)
    else if t < lo then (lo, satEv)
    else (t, evIf inexact flagNX)

/-- Range of an integer type of w bits (R112). -/
def intRange (w : Nat) (signed : Bool) : Int × Int :=
  if signed then (-((2 : Int) ^ (w - 1)), (2 : Int) ^ (w - 1) - 1) else (0, (2 : Int) ^ w - 1)

/-! ## IEEE operations on exact values (R147)

Each answers the exact value to round, the events that do not come from rounding, and whether the zero sign rule of the
rounding mode applies (an exact zero sum). -/

/-- The events of an operation that delivers a NaN: NV when invalid or signalling, NANP when no operand is a NaN. -/
def nanEv (ops : List FVal) (invalid : Bool) : Ev :=
  evAnd (evIf (invalid || ops.any FVal.isSig) flagNV) (evIf (!(ops.any FVal.isNan)) flagNANP)

/-- Sum of two finite values, with the sign of an exact zero by the mode (R147). -/
def addFin (rm : RM) (n1 : Bool) (m1 : Nat) (e1 : Int) (n2 : Bool) (m2 : Nat) (e2 : Int) : FVal :=
  let (a, b, e) := alignPair m1 e1 m2 e2
  let x : Int := if n1 then -(a : Int) else a
  let y : Int := if n2 then -(b : Int) else b
  let s := x + y
  if s = 0 then
    let neg := if m1 = 0 && m2 = 0 && n1 == n2 then n1 else decide (rm = .rd)
    .fin neg 0 0
  else .fin (s < 0) s.natAbs e

/-- A + B. -/
def fAdd (rm : RM) (a b : FVal) : FVal × Ev :=
  match a, b with
  | .nan _, _ | _, .nan _ => (.nan false, nanEv [a, b] false)
  | .inf n, .inf n' => if n == n' then (.inf n, evNone) else (.nan false, nanEv [a, b] true)
  | .inf n, _ => (.inf n, evNone)
  | _, .inf n => (.inf n, evNone)
  | .fin n1 m1 e1, .fin n2 m2 e2 => (addFin rm n1 m1 e1 n2 m2 e2, evNone)

/-- A × B. -/
def fMul (a b : FVal) : FVal × Ev :=
  match a, b with
  | .nan _, _ | _, .nan _ => (.nan false, nanEv [a, b] false)
  | .inf n, .inf n' => (.inf (n != n'), evNone)
  | .inf n, .fin n' m _ => if m = 0 then (.nan false, nanEv [a, b] true) else (.inf (n != n'), evNone)
  | .fin n m _, .inf n' => if m = 0 then (.nan false, nanEv [a, b] true) else (.inf (n != n'), evNone)
  | .fin n1 m1 e1, .fin n2 m2 e2 => (.fin (n1 != n2) (m1 * m2) (e1 + e2), evNone)

/-- A × B + C, one rounding. 0 × infinity is invalid even with a quiet NaN C (R147). -/
def fFma (rm : RM) (a b c : FVal) : FVal × Ev :=
  let invalidProduct := (a.isZero && b.isInf) || (a.isInf && b.isZero)
  if a.isNan || b.isNan || c.isNan || invalidProduct then (.nan false, nanEv [a, b, c] invalidProduct)
  else
    let p := (fMul a b).1
    match p, c with
    | .inf n, .inf n' => if n == n' then (.inf n, evNone) else (.nan false, nanEv [a, b, c] true)
    | .inf n, _ => (.inf n, evNone)
    | _, .inf n => (.inf n, evNone)
    | .fin n1 m1 e1, .fin n2 m2 e2 => (addFin rm n1 m1 e1 n2 m2 e2, evNone)
    | _, _ => (.nan false, nanEv [a, b, c] false)

/-- Round a computed value and join its events: the result bits in the format. -/
def finish (f : Fmt) (rm : RM) (r : FVal × Ev) : Nat × Ev :=
  let (x, ev) := roundVal f rm r.1
  (x, evAnd r.2 ev)

/-- A / B: the quotient rounded once, with DZ for a finite nonzero dividend over zero (R72). -/
def fDiv (f : Fmt) (rm : RM) (a b : FVal) : Nat × Ev :=
  match a, b with
  | .nan _, _ | _, .nan _ => (defaultNaN f, nanEv [a, b] false)
  | .inf _, .inf _ => (defaultNaN f, nanEv [a, b] true)
  | .inf n, .fin n' _ _ => (signBit f (n != n') + infBits f, evNone)
  | .fin n _ _, .inf n' => (signBit f (n != n'), evNone)
  | .fin n1 m1 e1, .fin n2 m2 e2 =>
    if m2 = 0 then
      if m1 = 0 then (defaultNaN f, nanEv [a, b] true)
      else (signBit f (n1 != n2) + infBits f, evFlags flagDZ)
    else if m1 = 0 then (signBit f (n1 != n2), evNone)
    else
      let k := 64 + m2.log2
      let q := (m1 <<< k) / m2
      let st := (m1 <<< k) % m2 != 0
      roundFin f rm (n1 != n2) q (e1 - e2 - k) st

/-- √A (R147): a negative value that is not -0 is invalid. -/
def fSqrt (f : Fmt) (rm : RM) (a : FVal) : Nat × Ev :=
  match a with
  | .nan _ => (defaultNaN f, nanEv [a] false)
  | .inf true => (defaultNaN f, nanEv [a] true)
  | .inf false => (infBits f, evNone)
  | .fin n m e =>
    if m = 0 then (signBit f n, evNone)
    else if n then (defaultNaN f, nanEv [a] true)
    else
      let k := if e % 2 = 0 then 64 else 65
      let x := m <<< k
      let r := isqrt x
      roundFin f rm false r ((e - k) / 2) (r * r != x)

/-! ## Scale bytes (R65) -/

/-- An element of a scaled tensor: times 2^(q - 127), or NaN when the byte is 0xFF. The Bool says a 0xFF was met. -/
def scaleE8 (q : Nat) (v : FVal) : FVal × Bool :=
  if q = 0xFF then (.nan false, true) else (v.scale ((q : Int) - 127), false)

/-! ## Block float (R67) -/

/-- Marks an invalid block-float value (R67). -/
def bfInvalid : Int := -((2 : Int) ^ 31)

/-- Nearest-even integer of m * 2^e with a sign, and whether it was rounded. -/
def roundInt (neg : Bool) (m : Nat) (e : Int) : Int × Bool := toIntegral .rn neg m e

/-- `BfEncode` of R67. -/
def bfEncode (xs : List FVal) : (Int × Int) × Ev :=
  if xs.any (fun v => v.isNan || v.isInf) then
    ((0, bfInvalid), evAnd (evFlags flagNV) (evIf (!(xs.any FVal.isNan)) flagNANP))
  else
    let mags : List Int := xs.filterMap (fun v => match v with
      | .fin _ m e => if m = 0 then none else some ((m.log2 : Int) + e)
      | _ => none)
    match mags with
    | [] => ((0, 0), evNone)
    | g :: gs =>
      let top := gs.foldl (fun a b => if a ≤ b then b else a) g
      let x := top - 55
      let terms : List (Int × Bool) := xs.map (fun v => match v with
        | .fin n m e => roundInt n m (e - x)
        | _ => (0, false))
      ((terms.foldl (fun acc t => acc + t.1) 0, x), evIf (terms.any (·.2)) flagNX)

/-- Clamp to ±(2^63 - 1), as `BfAlignAdd` does. -/
def bfClamp (t : Int) : Int × Ev :=
  let top : Int := (2 : Int) ^ 63 - 1
  if top < t then (top, ⟨flagSAT ||| flagNX, 1⟩)
  else if t < -top then (-top, ⟨flagSAT ||| flagNX, 1⟩)
  else (t, evNone)

/-- `BfAlignAdd` of R67. A shift of more than 200 places decides the sum of any 64-bit integer. -/
def bfAlignAdd (a xa m x : Int) : (Int × Int) × Ev :=
  if xa = bfInvalid || x = bfInvalid then ((0, bfInvalid), evNone)
  else
    let d := x - xa
    let (t, inexact) : Int × Bool :=
      if m = 0 then (0, false)
      else if 200 < d then (m * (2 : Int) ^ 200, false)
      else if d < -200 then (0, true)
      else roundInt (m < 0) m.natAbs d
    let (t, ev1) := bfClamp t
    let (a2, ev2) := bfClamp (a + t)
    ((a2, xa), evAnd (evAnd ev1 (evIf inexact flagNX)) ev2)

/-- `BfDecode` of R67. Exponents beyond ±4000 lie outside every format on the same side as ±4000. -/
def bfDecode (a xa : Int) (f : Fmt) (rm : RM) : Nat × Ev :=
  if xa = bfInvalid then (defaultNaN f, evFlags flagNV)
  else
    let x := if 4000 < xa then 4000 else if xa < -4000 then -4000 else xa
    narrow f rm (.fin (a < 0) a.natAbs x)

/-! ## Format records (R61, R62) -/

/-- Is a 32-bit format record ill-formed (R62)? -/
def recordIllFormed (r : Nat) : Bool :=
  let fmt := bits r 3 0
  let scaled := bit r 4
  let brlog := bits r 7 5
  let bclog := bits r 10 8
  let signed := bit r 11
  let sfmt := bits r 15 12
  (9 ≤ fmt) || brlog = 7 || bclog = 7 || (scaled && fmt = 0)
    || (!scaled && (brlog != 0 || bclog != 0 || sfmt != 0)) || sfmt != 0
    || (signed && !(6 ≤ fmt && fmt ≤ 8)) || bits r 31 16 != 0

/-- Format of a record. -/
def recordFmt (r : Nat) : Fmt := (fmtOfCode (bits r 3 0)).getD .raw

end Sys2Proof.Machine
end

