-- ==== Sys2Proof/Machine/State.lean ====
section
/-!
DEFINITION. The state of the part: everything the spec names, as plain data. Slots lie in vtiles, vtiles and flocks in
contexts, contexts, tiles, folds and the module registers in the machine. Sparse stores are association lists in one
canonical form; what an unlisted address reads as is 0 (R28; for rim memory a choice of the model, log 5).
-/
namespace Sys2Proof.Machine

/-- A sparse store of bytes: addresses strictly rising, no entry 0. -/
abbrev Memory := List Host.Cell

/-- The canonical form of a sparse store: addresses rise strictly and no listed byte is 0. -/
def Memory.wf (m : Memory) : Bool := Tbl.sorted m && m.all (fun c => c.2 != 0)

/-! ## Slots (R11 to R26, R124, R128, R342 to R350) -/

/-- R11. -/
inductive SlotStatus where
  | free | ready | parked | trapped
  deriving DecidableEq, Repr, Inhabited

/-- What a parked slot waits for (R131, R120, R220, R63). -/
inductive ParkCond where
  | fe (ea : Nat)
  | aw (addr gen : Nat)
  | hurdle (h : Nat)
  | batch (n : Nat)
  | pending (u : FUnit)
  | hold
  deriving DecidableEq, Repr, Inhabited

/-- The latches of a unit (R22). A unit that lacks one keeps it at zero. -/
structure Latches (w : Nat) where
  a : BitVec w
  b : BitVec w
  c : BitVec w
  q : BitVec w
  q2 : BitVec w
  deriving DecidableEq, Repr, Inhabited

def Latches.zero (w : Nat) : Latches w := ⟨0, 0, 0, 0, 0⟩

/-- All latches of a slot: 64 bits wide but for VEC and RNG (R22). -/
structure LatchFile where
  alu0 : Latches 64
  alu1 : Latches 64
  mul : Latches 64
  agu : Latches 64
  lsu : Latches 64
  fpu : Latches 64
  vec : Latches 1024
  rng : Latches 1024
  mxq : Latches 64
  cpe : Latches 64
  msg : Latches 64
  pat : Latches 64
  sys : Latches 64
  deriving DecidableEq, Repr, Inhabited

def LatchFile.zero : LatchFile :=
  ⟨.zero 64, .zero 64, .zero 64, .zero 64, .zero 64, .zero 64, .zero 1024, .zero 1024, .zero 64, .zero 64, .zero 64,
   .zero 64, .zero 64⟩

/-- What lands: the result latches that are written, and the events (R26, R74). -/
structure Landing where
  q : Option VWord
  q2 : Option VWord
  ev : Ev
  deriving DecidableEq, Repr, Inhabited

/-- A release tag (R263, R276): its scope code, the releaser, and the releaser's placement and rotation count. -/
structure RelTag where
  scope : Nat
  ctx : Nat
  rank : Nat
  inc : Nat
  site : Option Nat
  rot : Nat
  deriving DecidableEq, Repr, Inhabited

/-- An operation of a slot that has not landed (R25, R345). `res` is what it lands once that is known; an operation on
memory that has not been performed, or an engine's, has none yet. `performed` is false only for an operation on
scratchpad or commons that waits for its performance (R120, R125, R223). `due` marks a recorded one
whose record is still to be written, with its result or, with none, without VALID: the unit that holds it is not in the
tile (R284, R345). -/
structure Flight where
  id : Nat
  trig : Trig
  mod : BitVec 3
  a : VWord
  b : VWord
  c : VWord
  tseq : Nat
  ix : Nat
  tag : Option RelTag
  performed : Bool
  res : Option Landing
  due : Bool := false
  deriving DecidableEq, Repr, Inhabited

/-- What a store-buffer entry does when it leaves the buffer (R119, R124, R161, R223). `rmw`, `feClr` and `seal`: a scratchpad
atomic, an fe.clr and a seal of a firing that has ended, which complete after the stores before them (R94, R130); an atomic
keeps its instruction index and the number of its firing for the trap that it may raise (R341). -/
inductive SbKind where
  | st
  | stFill
  | vst
  | cSt
  | rmw (op : LsuOp) (mod : BitVec 3) (c : Word) (ix fser : Nat)
  | feClr
  | seal
  deriving DecidableEq, Repr, Inhabited

/-- An entry of the store buffer. -/
structure SbEntry where
  id : Nat
  kind : SbKind
  addr : Nat
  n : Nat
  data : VWord
  tag : Option RelTag
  deriving DecidableEq, Repr, Inhabited

/-- An entry of the repeat stack (R128). -/
structure RepEntry where
  first : Nat
  last : Nat
  remaining : Nat
  deriving DecidableEq, Repr, Inhabited

/-- A trap that is to be taken: its code, `%tval`, `%tinst`, the move of R342, and whether it belongs to the second
instruction of a pair. -/
structure TrapReq where
  code : Nat
  tval : Word
  tinst : Word
  move : Nat
  pair2 : Bool
  deriving DecidableEq, Repr, Inhabited

/-- Where control stands with respect to the branch-target mask (R79): a transfer's own IX, or a firing start. -/
inductive Entry where
  | fallthrough
  | transfer (ix : Nat)
  | firing
  deriving DecidableEq, Repr, Inhabited

/-- A thread slot (R11). `nextId` numbers the slot's operations and stores in trigger order; `fser` counts the firings
that the slot has run, so that a late result of an ended firing finds no taker (R130). `tseq` counts the triggers of
each unit (R345); `landedQ` and `landedQ2` hold one more than the count of the latest trigger whose `.q` or `.q2` has
landed, so that an older one landing after it changes nothing (R26). `barFence`, `barRel` and `barAcq` are the numbers
that the slot's next operation had at its latest fence, rel and acq (R123), `barFenceDo` and `barRelDo` those at its latest
fence.do and rel.do (R281); 0 before any. `stopId` is that number when its vtile last stopped (R276). -/
structure Slot where
  status : SlotStatus
  sup : Bool
  ix : Nat
  entry : Entry
  pair2 : Bool
  alone : Bool
  park : Option ParkCond
  x : Vector Word 32
  v : Vector VWord 16
  p : BitVec 8
  h : Vector Word 8
  lat : LatchFile
  ops : List Flight
  nextId : Nat
  fser : Nat
  tseq : Vector Nat 13
  sb : List SbEntry
  rep : List RepEntry
  firing : Word
  tcause : Word
  tval : Word
  tinst : Word
  tframe : Word
  csel : Word
  pendTrap : Option TrapReq
  saved : List (Nat × Flight)
  supBefore : Bool
  landedQ : Vector Nat 13
  landedQ2 : Vector Nat 13
  savedSeq : Option (Vector Nat 13 × Vector Nat 13 × Vector Nat 13)
  relTag : Option RelTag
  barFence : Nat
  barRel : Nat
  barAcq : Nat
  barFenceDo : Nat
  barRelDo : Nat
  stopId : Nat
  deriving DecidableEq, Repr, Inhabited

/-- A FREE slot: every register and latch zero (R15, R26). -/
def Slot.blank : Slot :=
  { status := .free, sup := false, ix := 0, entry := .fallthrough, pair2 := false, alone := false, park := none,
    x := Vector.replicate 32 0, v := Vector.replicate 16 0, p := 0, h := Vector.replicate 8 0, lat := .zero,
    ops := [], nextId := 0, fser := 0, tseq := Vector.replicate 13 0, sb := [], rep := [], firing := 0, tcause := 0,
    tval := 0, tinst := 0, tframe := 0, csel := 0, pendTrap := none, saved := [], supBefore := false,
    landedQ := Vector.replicate 13 0, landedQ2 := Vector.replicate 13 0, savedSeq := none, relTag := none,
    barFence := 0, barRel := 0, barAcq := 0, barFenceDo := 0, barRelDo := 0, stopId := 0 }

/-! ## Messages, ports, patterns (R205, R33 to R37, R239 to R247) -/

/-- A message in flight or held (R205). Its destination rank is kept beside the header; `poison` marks the payload
words carried with a poison mark (R283). `tags` are the release tags it carries: one, or one for each decrement
(R273); `ring` and `aw` are those of a sendr (R204); `toCtxPort` marks a message to a context port (R248); `after` names the
sender's slot and the number of the trigger: the message leaves once the slot's accesses before it are performed (R94,
R261); `place` is that of a message in a port (R207). -/
structure Msg where
  id : Nat
  drank : Nat
  dport : Nat
  dinc : Nat
  srank : Nat
  sinc : Nat
  sseq : Nat
  kind : Nat
  reason : Nat
  payload : List Word
  poison : Nat
  tags : List RelTag
  ring : Option Nat
  aw : Option Nat
  toCtxPort : Bool
  after : Option (Nat × Nat)
  place : Nat := 0
  deriving DecidableEq, Repr, Inhabited

/-- A port: its descriptor fields (R33), its messages (visible ones in visible order, then those of the open ordered
window in entry order), and how many entries belong to matches that have not started. -/
structure Port where
  cap : Nat
  ovf : Bool
  ord : Bool
  en : Bool
  win : Nat
  visible : List Msg
  windowed : List Msg
  claimed : Nat
  parked : Nat
  deriving DecidableEq, Repr, Inhabited

def Port.blank : Port :=
  { cap := 0, ovf := false, ord := false, en := false, win := 0, visible := [], windowed := [], claimed := 0,
    parked := 0 }

/-- A match record (R242). -/
structure MatchRec where
  handler : Word
  pat : Nat
  hnd : Nat
  prio : Nat
  qd : Bool
  ord : Bool
  fseq : Nat
  msgs : List (Nat × Msg)
  deriving DecidableEq, Repr, Inhabited

/-- A transfer at a ring of its destination (R219): a copy by issuer and CSEQ, or a sendr by its number. -/
structure RingXfer where
  src : Nat
  cseq : Nat
  isMsg : Bool
  len : Nat
  start : Option Nat
  done : Bool
  deriving DecidableEq, Repr, Inhabited

/-- A ring (R38, R219). -/
structure Ring where
  base : Nat
  logsz : Nat
  fill : Nat
  drain : Nat
  res : Nat
  xfers : List RingXfer
  deriving DecidableEq, Repr, Inhabited

def Ring.blank : Ring := ⟨0, 0, 0, 0, 0, []⟩

/-- A random stream record (R163). -/
structure RngRec where
  sid : Nat
  exh : Bool
  ctr : Nat
  deriving DecidableEq, Repr, Inhabited

def RngRec.blank : RngRec := ⟨0, false, 0⟩

/-! ## Copies (R210 to R220) -/

/-- Where a segment stands (R214, R215). `miss`: its translation is to be walked; `ready`: it may land, at the physical
address given for a memory-side one; `fault`: it waits on SEGRST; `done`: landed, refused or dropped. -/
inductive SegState where
  | untranslated
  | ready (pa : Nat)
  | fault (reason : Nat)
  | done
  deriving DecidableEq, Repr, Inhabited

/-- The page of a translation: its base, the guest physical page under it, and its size (R301). -/
structure PageRun where
  va : Nat
  gpa : Nat
  size : Nat
  deriving DecidableEq, Repr, Inhabited

/-- One segment: a run of bytes between a memory-side or destination address and the local scratchpad. `row` groups the
segments of one muster or scatter row, which is one landing (R216, R217); `landed` is where a scatter's segment was
performed; `page` is that of its translation, and `dying` says that an invalidation in progress has removed that (R303). -/
structure Seg where
  addr : Nat
  loc : Nat
  len : Nat
  row : Nat
  st : SegState
  landed : Option Nat
  page : PageRun := ⟨0, 0, 0⟩
  dying : Bool := false
  deriving DecidableEq, Repr, Inhabited

/-- An accepted copy (R210). `fid` is the number of its trigger in its slot: the copy starts once the slot's stores
before it are performed (R94). `idxBytes` are the bytes of a muster's index list that have been read; `spoiled` the rows
of which a segment was dropped; `cutRow` the first row that a format fault abandons (R63). -/
structure Copy where
  cseq : Nat
  op : CpeOp
  desc : Nat
  descAddr : Nat
  batch : Nat
  slot : Nat
  fid : Nat
  ix : Nat
  mseq : Nat
  tag : Option RelTag
  idxBytes : Tbl Byte
  idxSegs : List Seg
  segs : List Seg
  spoiled : List Nat
  cutRow : Option Nat
  status : Nat
  finished : Bool
  missSent : Bool
  dlSent : Bool
  deriving DecidableEq, Repr, Inhabited

/-! ## Matrix (R169) -/

/-- A scale tag. -/
inductive ScaleTag where
  | unset
  | set (v : Int)
  | invalid
  deriving DecidableEq, Repr, Inhabited

/-- A queued command with its SEQ, its issuer and its completion's place (R170). `gone`: a DISCARD met it while another
command ran (R193). -/
structure MxCmd where
  c : LineWord
  seq : Nat
  slot : Nat
  fser : Nat
  fid : Nat
  ix : Nat
  tag : Option RelTag
  gone : Bool := false
  deriving DecidableEq, Repr, Inhabited

/-- Progress of the running command (R197): the next step, row or segment; whether its scales were collected; whether
it drains; its collected events, substitutions and first NaN. `words` are the scratchpad words that it has read, each with
whether it held an uncorrectable error: a word is read once, indivisibly (R195). -/
structure MxRun where
  started : Bool
  pos : Nat
  draining : Bool
  ev : Ev
  ueCount : Nat
  nan : Bool
  firstNan : Option (Nat × Nat × Nat)
  badScale : Bool
  status : Nat
  segs : List Seg
  words : Tbl (Nat × Bool)
  deriving DecidableEq, Repr, Inhabited

def MxRun.start : MxRun :=
  { started := false, pos := 0, draining := false, ev := evNone, ueCount := 0, nan := false,
    firstNan := none, badScale := false, status := 0, segs := [], words := [] }

/-- The matrix state of a vtile (R169). The accumulators are a sparse table of cells 64 i + j; a B-store byte lies at
131,072 j + offset, and `bpoison` marks its bits that hold an error: true an uncorrectable one. -/
structure Matrix where
  acc : Tbl Word32
  atag : Tbl ScaleTag
  btag : Tbl ScaleTag
  queue : List MxCmd
  run : MxRun
  nextSeq : Nat
  rseq : Nat
  held : Bool
  uecnt : Nat
  uelog : List Word
  nanrec : Word
  bstore : Memory
  bpoison : Tbl Bool
  bhwm : Nat
  bsOut : List Nat
  deriving DecidableEq, Repr, Inhabited

def Matrix.fresh : Matrix :=
  { acc := [], atag := [], btag := [], queue := [], run := .start, nextSeq := 0, rseq := 0xFFFFFFFF, held := false,
    uecnt := 0, uelog := [], nanrec := 0, bstore := [], bpoison := [], bhwm := 0, bsOut := [] }

/-! ## Vtiles -/

/-- Where a vtile is (R42). -/
inductive Where where
  | absent
  | transitIn
  | transitOut
  | resident
  deriving DecidableEq, Repr, Inhabited

/-- What a scratchpad word, a commons line or a rim burst answers to its next reader: a planted correctable error, a
planted uncorrectable error, or poison (R140, R283, R295). -/
inductive Mark where
  | correctable
  | poison
  deriving DecidableEq, Repr, Inhabited

/-- A held trap that waits for its slot (R192, R341). -/
structure HeldTrap where
  slot : Nat
  fser : Nat
  req : TrapReq
  order : Nat
  replay : Option Flight
  deriving DecidableEq, Repr, Inhabited

/-- The hold of a vtile (R63, R352, R354). -/
structure Hold where
  fmt : Bool
  trap : Bool
  deriving DecidableEq, Repr, Inhabited

/-- A vtile (R9). `stopAt` is the number that the context's next operation had when the vtile last stopped (R276). -/
structure Vtile where
  inc : Nat
  flock : Nat
  loc : Where
  site : Nat
  bank : Bool
  slice : Bool
  slots : Vector Slot 8
  sp : Memory
  fe : List Nat
  marks : Tbl Mark
  spOut : List Nat
  ports : Vector Port 32
  psBase : Nat
  psSize : Nat
  pats : Vector (BitVec 128) 32
  hnds : Vector Word 32
  rptr : Vector Nat 8
  fq : List MatchRec
  defer : BitVec 32
  fseq : Nat
  rings : Vector Ring 8
  sticky : BitVec 8
  satcount : Nat
  bopen : Nat
  sealed : List Nat
  cseq : Nat
  copies : List Copy
  mseq : Nat
  oseq : Nat
  outq : List Msg
  rng : Vector RngRec 8
  mx : Matrix
  pend : BitVec 16
  hgroups : Word
  halted : Bool
  hold : Hold
  tfbase : Nat
  pen : List Msg
  held : List HeldTrap
  rot : Nat
  stopAt : Nat
  deriving DecidableEq, Repr, Inhabited

/-- A vtile as R233 creates it: every item of R9 zero, TFBASE as R352 says, every unit of its scratchpad in its image. -/
def Vtile.fresh : Vtile :=
  { inc := 0, flock := 0, loc := .absent, site := 0, bank := false, slice := false,
    slots := Vector.replicate 8 Slot.blank, sp := [], fe := [], marks := [], spOut := [],
    ports := Vector.replicate 32 Port.blank, psBase := 0, psSize := 0, pats := Vector.replicate 32 0,
    hnds := Vector.replicate 32 0, rptr := Vector.replicate 8 0, fq := [], defer := 0, fseq := 0,
    rings := Vector.replicate 8 Ring.blank, sticky := 0, satcount := 0, bopen := 0, sealed := [], cseq := 0,
    copies := [], mseq := 0, oseq := 0, outq := [], rng := Vector.replicate 8 RngRec.blank, mx := .fresh, pend := 0,
    hgroups := 0, halted := false, hold := ⟨false, false⟩, tfbase := 0x3F8000, pen := [], held := [], rot := 0, stopAt := 0 }

/-! ## Flocks and herds (R229 to R238, R320) -/

/-- The states of a flock's status record, with the transits (R238). -/
inductive FlockState where
  | nonexistent
  | waiting
  | resident
  | rotatedOut
  | goingIn
  | goingOut
  deriving DecidableEq, Repr, Inhabited

/-- A flock (R233, R238, R320, R321). Times are in cycles. `victim`: it is to be rotated out. `binds` are the folds to which
a migration takes its virtual folds (R337). -/
structure Flock where
  x0 : Nat
  y0 : Nat
  w : Nat
  h : Nat
  counts : Vector Nat 16
  st : FlockState
  run : Bool
  finArm : Bool
  sticky : BitVec 8
  herd : Nat
  phase : BitVec 16
  nfin : Nat
  retire : Bool
  sen : Bool
  sport : Nat
  arg : Word
  prio : Nat
  ready : Bool
  waitStart : Nat
  faultRaised : Bool
  everOut : Bool
  launchSent : Bool
  residentSince : Nat
  placedSeq : Nat
  lastMigration : Nat
  aging : Nat
  victim : Bool
  binds : List ((Nat × Nat) × Nat)
  deriving DecidableEq, Repr, Inhabited

def Flock.blank : Flock :=
  { x0 := 0, y0 := 0, w := 0, h := 0, counts := Vector.replicate 16 0, st := .nonexistent, run := false,
    finArm := false, sticky := 0, herd := 0, phase := 0, nfin := 0, retire := false, sen := false, sport := 0,
    arg := 0, prio := 0, ready := false, waitStart := 0, faultRaised := false, everOut := false,
    launchSent := false, residentSince := 0, placedSeq := 0, lastMigration := 0, aging := 0, victim := false, binds := [] }

/-- A taken launch record (R229, R237). -/
structure Herd where
  num : Nat
  queue : Nat
  entry : Nat
  target : Word
  payload : Word
  todo : List Nat
  agg : BitVec 8
  done : Bool
  deriving DecidableEq, Repr, Inhabited

/-- A launch queue (R312 to R314). -/
structure LaunchQueue where
  logn : Nat
  en : Bool
  base : Nat
  swout : Bool
  err : Bool
  want : Bool
  tail : Nat
  head : Nat
  prog : Nat
  idleSince : Nat
  deriving DecidableEq, Repr, Inhabited

def LaunchQueue.blank : LaunchQueue := ⟨0, false, 0, false, false, false, 0, 0, 0, 0⟩

/-! ## Commons (R222 to R228, R277, R287 to R295) -/

/-- A commons operation on its way to its bank (R223, R224). -/
structure BankOp where
  id : Nat
  rank : Nat
  slot : Nat
  fser : Nat
  fid : Nat
  op : LsuOp
  mod : BitVec 3
  ea : Nat
  b : Word
  c : Word
  oseq : Nat
  ix : Nat
  tag : Option RelTag
  deriving DecidableEq, Repr, Inhabited

/-- An entry of a holding set (R225 to R227): in the buffer of its bank, or at a place of the bank's share of the sorted pen.
`arrived` marks the hurdles at which its issuer has arrived since. -/
structure HeldUpdate where
  word : Nat
  u : BankOp
  pen : Option Nat
  arrived : BitVec 16
  deriving DecidableEq, Repr, Inhabited

/-- The tag of the latest write of a commons word, with its MISSED bit (R277). -/
structure WordTag where
  tag : RelTag
  missed : Bool
  deriving DecidableEq, Repr, Inhabited

/-- A stripped write that a router has to report (R278). -/
structure Miss where
  id : Nat
  tag : RelTag
  need : Nat
  loc : Nat
  where_ : Word
  seqno : Word
  deriving DecidableEq, Repr, Inhabited

/-! ## Contexts (R308 to R310, R298, R355, R363, R399) -/

/-- The fields of the context record and the memory descriptor, read at CREATE (R309, R298). -/
structure CtxDesc where
  memdesc : Nat
  ranktab : Nat
  flocktab : Nat
  imgarea : Nat
  supdest : Word
  dldest : Word
  smdest : Word
  vx : Nat
  vy : Nat
  flags : Nat
  seed : BitVec 256
  s1root : Nat
  iroot : Nat
  s2root : Nat
  s2en : Bool
  vmid : Nat
  cmapBase : Nat
  cpsize : Nat
  pench : Nat
  bkey : Nat
  fmttab : Vector Word32 16
  cmap : List Word32
  deriving DecidableEq, Repr, Inhabited

def CtxDesc.blank : CtxDesc :=
  { memdesc := 0, ranktab := 0, flocktab := 0, imgarea := 0, supdest := 0, dldest := 0, smdest := 0, vx := 0, vy := 0,
    flags := 0, seed := 0, s1root := 0, iroot := 0, s2root := 0, s2en := false, vmid := 0, cmapBase := 0, cpsize := 0,
    pench := 0, bkey := 0, fmttab := Vector.replicate 16 0, cmap := [] }

/-- STATE of CTXSTAT (R308). -/
inductive CtxState where
  | none
  | live
  | suspended
  | tearing
  deriving DecidableEq, Repr, Inhabited

/-- The registers of a context window (R308, R355, R363, R369, R399). -/
structure CtxRegs where
  recAddr : Nat
  st : CtxState
  busy : Bool
  err : Bool
  reason : Nat
  suspending : Bool
  flogAddr : Nat
  flogCnt : Nat
  flogLost : Nat
  rp : Bool
  rpn : Nat
  exposed : Nat
  rimg : Word
  cfie : Bool
  cmdest : Word
  cmw0 : Word
  cmw1 : Word
  cmstat : Word
  ccoff : Word
  ccdata : Word
  ccstat : Word
  sseq : Nat
  deriving DecidableEq, Repr, Inhabited

def CtxRegs.blank : CtxRegs :=
  { recAddr := 0, st := .none, busy := false, err := false, reason := 0, suspending := false, flogAddr := 0, flogCnt := 0,
    flogLost := 0, rp := false, rpn := 0, exposed := 0, rimg := 0, cfie := false, cmdest := 0, cmw0 := 0, cmw1 := 0,
    cmstat := 0, ccoff := 0, ccdata := 0, ccstat := 0, sseq := 0 }

/-- A context. `live` are the features that its images have required (R368). -/
structure Ctx where
  regs : CtxRegs
  desc : CtxDesc
  queues : Vector LaunchQueue 16
  flocks : Tbl Flock
  herds : List Herd
  vts : Tbl Vtile
  incs : Tbl Nat
  retired : List Nat
  commons : Memory
  cmarks : Tbl Mark
  condemned : List Nat
  versions : Tbl Nat
  wtags : Tbl WordTag
  decTags : Tbl (List RelTag)
  bankOps : List BankOp
  holding : List HeldUpdate
  msgs : List Msg
  misses : List Miss
  oldRots : Tbl Nat
  nextId : Nat
  s1gen : Nat
  live : Word
  deriving DecidableEq, Repr, Inhabited

def Ctx.blank : Ctx :=
  { regs := .blank, desc := .blank, queues := Vector.replicate 16 LaunchQueue.blank, flocks := [], herds := [],
    vts := [], incs := [], retired := [], commons := [], cmarks := [], condemned := [], versions := [], wtags := [], decTags := [],
    bankOps := [], holding := [], msgs := [], misses := [], oldRots := [], nextId := 0, s1gen := 0, live := 0 }

/-! ## Tiles and folds (R284, R301, R306, R318, R337, R338) -/

/-- A line held by an instruction cache. -/
structure CachedLine where
  ctx : Nat
  line : Nat
  data : LineWord
  deriving DecidableEq, Repr, Inhabited

/-- A translation held by an instruction TLB: context, page base and physical base, and page size. -/
structure ITlbEntry where
  ctx : Nat
  va : Nat
  pa : Nat
  size : Nat
  deriving DecidableEq, Repr, Inhabited

/-- A tile site. `bver` are the versions of its B-store lines, by column and line (R294); `pairNext` names the slot that has
just issued the first of a pair, and where its second stands (R96, R338). -/
structure Tile where
  bank0 : Option VRef
  bank1 : Option VRef
  sel : Bool
  icache : List CachedLine
  itlb : List ITlbEntry
  rrUser : Nat
  rrSup : Nat
  supRun : Nat
  forced : Bool
  lastSwitch : Nat
  idleSince : Nat
  pairNext : Option (Nat × Nat)
  bver : Tbl Nat
  deriving DecidableEq, Repr, Inhabited

def Tile.blank : Tile :=
  { bank0 := none, bank1 := none, sel := false, icache := [], itlb := [], rrUser := 0, rrSup := 0, supRun := 0,
    forced := false, lastSwitch := 0, idleSince := 0, pairNext := none, bver := [] }

/-- An entry of a fold's TLB (R301); `insn`: one of the instruction space (R306). -/
structure TlbEntry where
  ctx : Nat
  vmid : Nat
  va : Nat
  gpa : Nat
  pa : Nat
  size : Nat
  rd : Bool
  wr : Bool
  fidx : Nat
  d : Bool
  s1gen : Nat
  s2gen : Nat
  insn : Bool := false
  deriving DecidableEq, Repr, Inhabited

/-- A fold site: its TLB, its load and its neighbours' last-known loads (R301, R337). -/
structure Fold where
  tlb : List TlbEntry
  load : Nat
  known : Tbl Nat
  deriving DecidableEq, Repr, Inhabited

def Fold.blank : Fold := ⟨[], 0, []⟩

/-! ## Module registers -/

/-- STATE of a key slot (R292). -/
inductive KeyState where
  | empty
  | loaded
  | zeroising
  deriving DecidableEq, Repr, Inhabited

structure KeySlot where
  owner : Nat
  st : KeyState
  key : BitVec 256
  deriving DecidableEq, Repr, Inhabited

def KeySlot.blank : KeySlot := ⟨0, .empty, 0⟩

/-- The shepherd's module registers and clocks (R319, R302); `held` gives the urgent flock (context, index)
for which a tile site is held (R321). -/
structure ModRegs where
  cycle : Nat
  ageq : Nat
  quant : Nat
  sliceq : Nat
  dthr : Nat
  tinvAddr : Nat
  tinvLen : Nat
  tinvBusy : Bool
  tinvErr : Bool
  tinvDone : Nat
  placeSeq : Nat
  lastDrift : Nat
  held : Tbl (Nat × Nat)
  deriving DecidableEq, Repr, Inhabited

def ModRegs.reset : ModRegs :=
  { cycle := 0, ageq := 100, quant := 50, sliceq := 64, dthr := 16, tinvAddr := 0, tinvLen := 0, tinvBusy := false,
    tinvErr := false, tinvDone := 0, placeSeq := 0, lastDrift := 0, held := [] }

/-- The crook network (R361, R402): owners of halt groups (CTX, CROFT), stopped groups, hart memberships, and the harts in
debug mode. -/
structure Crook where
  owners : Tbl (Nat × Bool)
  stopped : Word
  hartGrp : Tbl Word
  hartHalted : List Nat
  deriving DecidableEq, Repr, Inhabited

def Crook.reset : Crook := ⟨[], 0, [], []⟩

/-- An entry of the error log (R404): the cycle of detection, the structure in the row order of R359 (or 9, 10), what happened,
the context (0xFFFF for none), the site or link, the address, the events merged, and, beside its bytes, the module time of
it. -/
structure ErrEntry where
  cycle : Nat
  struct_ : Nat
  what : Nat
  ctx : Nat
  place : Nat
  addr : Nat
  merged : Nat
  time : Nat
  deriving DecidableEq, Repr, Inhabited

/-- A write that leaves the recovery domain (R365): its context, the latest cut and the latest committed point at its issue,
and its value. -/
structure OutWrite where
  ctx : Nat
  cut : Nat
  rpn : Nat
  val : Word
  deriving DecidableEq, Repr, Inhabited

/-- The croft's module registers (R398, R401, R404): access windows, the error log, the interrupts raised, the value that
each hart's latest load gave it, the harts whose latest access took an access fault (R398), the harts that have executed a
FENCE with W among its predecessors (R399), the egress buffer, the writes that were released and the log of the immediate
ones (R365), and the exposed-write log (R367). -/
structure CroftRegs where
  xwin : Tbl Word
  elog : Tbl ErrEntry
  elogCnt : Nat
  irqs : List Nat
  loads : Tbl Word
  faulted : List Nat
  fenced : List Nat
  egress : List OutWrite
  released : List Word
  immediates : List OutWrite
  exposedLog : List OutWrite
  deriving DecidableEq, Repr, Inhabited

def CroftRegs.reset : CroftRegs :=
  { xwin := [], elog := [], elogCnt := 0, irqs := [], loads := [], faulted := [], fenced := [], egress := [], released := [],
    immediates := [], exposedLog := [] }

/-- The fabric (R408, R360): FABCTL, RPINT, BUDDY, the ports that are up, routes, retired mesh links, and the module
time at which FABEN was set (R410). -/
structure Fabric where
  ctl : Word
  rpint : Word
  buddy : Word
  portUp : Word
  routes : Tbl Word
  linksDown : List Nat
  since : Nat
  deriving DecidableEq, Repr, Inhabited

def Fabric.reset : Fabric :=
  { ctl := 0, rpint := 0, buddy := 0, portUp := 0, routes := [], linksDown := [], since := 0 }

/-- Power, temperature and time (R412, R413): PWRLVL, the fields that passed 115 degrees, which stops the module, and the
cycles since reset, which no rollback takes back. -/
structure Ambient where
  pwrlvl : Word
  tripped : List Nat
  time : Nat
  deriving DecidableEq, Repr, Inhabited

def Ambient.reset : Ambient := ⟨0, [], 0⟩

/-- The statuses of the loader (R371 to R392). -/
inductive LoadStatus where
  | ok | badContainer | place | life | removed | stepping | undef | badReloc | relocRange | badPair | metaBad | promise
  | noImage
  deriving DecidableEq, Repr, Inhabited

/-- What the loader returned for a function (R377, R391, R393): its status, the image taken (none for a translated form),
the kernel's class, and the addresses of the flock descriptors and, for a kernel, of the launch record prototype. -/
structure Kernel where
  ctx : Nat
  func : Nat
  status : LoadStatus
  image : Option Nat
  cls : Nat
  flocks : Nat
  proto : Option Nat
  deriving DecidableEq, Repr, Inhabited

/-- Rim memory (R296): its bytes, the poisoned 64-byte bursts, and the bursts with an error that the next scrub corrects
(R359). -/
structure Rim where
  mem : Memory
  poison : List Nat
  weak : List Nat
  deriving DecidableEq, Repr, Inhabited

/-- What a recovery point holds (R364); `headers` are those of the contexts' images (R368). -/
structure Snapshot where
  rpn : Nat
  headers : Tbl (List Byte)
  ctxs : Tbl Ctx
  tiles : Tbl Tile
  rim : Rim
  keys : Tbl KeySlot
  croft : CroftRegs
  regs : ModRegs
  crook : Crook
  kernels : List Kernel
  deriving DecidableEq, Repr, Inhabited

/-- Recovery (R363 to R367): the committed point and the one being copied, the number of the latest point, whether a cut
has stopped its contexts, and the time of the latest cut's multiple of RPINT. -/
structure Recovery where
  committed : Option Snapshot
  pending : Option Snapshot
  rpn : Nat
  cutting : Bool
  lastCut : Nat
  deriving DecidableEq, Repr, Inhabited

def Recovery.reset : Recovery := ⟨none, none, 0, false, 0⟩

/-- Identity, boot and measurement (R396, R403 to R407). `booted`: croft hart 0 has been released; `publicKey` and `identKey`
are the fused keys. -/
structure Ident where
  bin : BitVec 2
  steppingB1 : Bool
  serial : Word
  serialHi : Word
  deadTiles : List Nat
  deadFolds : List Nat
  featm : Word
  slotA : List Byte
  slotB : List Byte
  runningB : Bool
  booted : Bool
  publicKey : List Byte
  identKey : List Byte
  minSvn : Nat
  m0 : LineWord
  m1 : LineWord
  report : List Byte
  deriving DecidableEq, Repr, Inhabited

/-- The dead tile sites of the model's part: position 15 of fold sites 0 to 255 (log 4). -/
def deadSites : List Nat := (List.range 256).map (fun f => (f % 24 * 4 + 3) + 96 * (f / 24 * 4 + 3))

/-- The identity at reset: fused values are choices of the model (log 4). -/
def Ident.reset : Ident :=
  { bin := 0, steppingB1 := true, serial := 0, serialHi := 0, deadTiles := deadSites, deadFolds := [], featm := 0,
    slotA := [], slotB := [], runningB := false, booted := false, publicKey := List.replicate 57 0,
    identKey := List.replicate 57 0, minSvn := 0, m0 := 0, m1 := 0,
    report := [] }

/-- The state of the machine. `tick`, `inputs` and `cur` are the model's own: the counter that the free values of
`Config` are applied to (log 1), the outside events still to happen (log 2), and the slot whose instruction or trigger
is being executed (log 2). -/
structure State where
  ctxs : Tbl Ctx
  tiles : Tbl Tile
  folds : Tbl Fold
  rim : Rim
  keys : Tbl KeySlot
  s2gen : Tbl Nat
  regs : ModRegs
  crook : Crook
  croft : CroftRegs
  fabric : Fabric
  ambient : Ambient
  recovery : Recovery
  kernels : List Kernel
  ident : Ident
  inputs : List Instr
  tick : Nat
  cur : SRef
  deriving DecidableEq, Repr, Inhabited

/-- Why the machine stops with a fault. -/
inductive Fault where
  /-- A croft access to an address where the spec puts nothing: more than 56 bits, or an unmapped location (R296, R398).
  Raised by CROFT_MEMORY_ACCESS. Safe. -/
  | croftAccess
  deriving DecidableEq, Repr, Inhabited

/-- Why a step is refused. -/
inductive Refusal where
  /-- No meaning yet for this instruction. Raised by no meaning. Safe. -/
  | notModelled (mnemonic : String)
  /-- A step of an engine, the shepherd, the croft or the outside world that is not due in this state: nothing happens
  in the part at such a moment, and `step` never chooses it. Safe. -/
  | notEnabled (mnemonic : String)
  deriving DecidableEq, Repr, Inhabited

/-- The slot that `cur` names at reset (log 2). -/
def srefZero : SRef := ⟨⟨0, 0⟩, 0⟩

/-- The machine right after reset: no context, every register at the value the spec states, and where it states none
at the value of log 3. -/
def State.reset : State :=
  { ctxs := [], tiles := [], folds := [], rim := ⟨[], [], []⟩, keys := [], s2gen := [], regs := .reset, crook := .reset,
    croft := .reset, fabric := .reset, ambient := .reset, recovery := .reset, kernels := [], ident := .reset,
    inputs := [], tick := 0, cur := srefZero }

end Sys2Proof.Machine
end

