-- ==== Sys2Proof/Machine/Store.lean ====
section
/-!
DEFINITION. Access to the parts of the state: contexts, vtiles and slots by name; bytes of scratchpad, commons, B-store
and rim memory; full-empty bits; marks of errors. Byte order is decided here once (R3).
-/
namespace Sys2Proof.Machine

/-! ## Parts of the state -/

def State.ctx (s : State) (n : Nat) : Ctx := Tbl.getD s.ctxs n Ctx.blank

/-- Change a context, made from its reset value where it was never touched. -/
def State.modCtx (s : State) (n : Nat) (f : Ctx → Ctx) : State := { s with ctxs := Tbl.upsert s.ctxs n Ctx.blank f }

/-- Change a context that is there. -/
def State.inCtx (s : State) (n : Nat) (f : Ctx → Ctx) : State := { s with ctxs := Tbl.modify s.ctxs n f }

/-- Is the rank populated in the context? -/
def State.hasVt (s : State) (v : VRef) : Bool := (Tbl.find? (s.ctx v.ctx).vts v.rank).isSome

def State.vt (s : State) (v : VRef) : Vtile := (Tbl.find? (s.ctx v.ctx).vts v.rank).getD Vtile.fresh

/-- Change a vtile that is there. -/
def State.modVt (s : State) (v : VRef) (f : Vtile → Vtile) : State :=
  s.inCtx v.ctx (fun c => { c with vts := Tbl.modify c.vts v.rank f })

def State.slot (s : State) (r : SRef) : Slot := (s.vt r.vt).slots.get r.slot

def State.modSlot (s : State) (r : SRef) (f : Slot → Slot) : State :=
  s.modVt r.vt (fun v => { v with slots := v.slots.set r.slot.val (f (v.slots.get r.slot)) r.slot.isLt })

def State.tile (s : State) (n : Nat) : Tile := Tbl.getD s.tiles n Tile.blank
def State.modTile (s : State) (n : Nat) (f : Tile → Tile) : State := { s with tiles := Tbl.upsert s.tiles n Tile.blank f }
def State.fold (s : State) (n : Nat) : Fold := Tbl.getD s.folds n Fold.blank
def State.modFold (s : State) (n : Nat) (f : Fold → Fold) : State := { s with folds := Tbl.upsert s.folds n Fold.blank f }
def State.flock (s : State) (ctx i : Nat) : Flock := Tbl.getD (s.ctx ctx).flocks i Flock.blank
def State.modFlock (s : State) (ctx i : Nat) (f : Flock → Flock) : State :=
  s.inCtx ctx (fun c => { c with flocks := Tbl.modify c.flocks i f })

/-- Element of a vector by number; the default beyond its end. -/
def vget {α : Type} {n : Nat} (v : Vector α n) (i : Nat) (d : α) : α := (v[i]?).getD d

/-- Write an element of a vector by number. -/
def vset {α : Type} {n : Nat} (v : Vector α n) (i : Nat) (a : α) : Vector α n := v.setIfInBounds i a

/-- Change an element of a vector by number. -/
def vmod {α : Type} {n : Nat} (v : Vector α n) (i : Nat) (f : α → α) : Vector α n :=
  match v[i]? with
  | some a => v.setIfInBounds i (f a)
  | none => v

/-! ## Sparse bytes -/

def memGet (m : Memory) (a : Nat) : Byte := Tbl.getD m a 0
def memPut (m : Memory) (a : Nat) (b : Byte) : Memory := Tbl.putSparse m a 0 b

/-- n bytes from a, as a number (R3). -/
def memRead (m : Memory) (a : Nat) : (n : Nat) → Nat
  | 0 => 0
  | n + 1 => (memGet m a).toNat + 256 * memRead m (a + 1) n

/-- Bytes written from a on. -/
def memWriteBytes (m : Memory) (a : Nat) : List Byte → Memory
  | [] => m
  | b :: bs => memWriteBytes (memPut m a b) (a + 1) bs

/-- The low n bytes of a number written at a. -/
def memWrite (m : Memory) (a n v : Nat) : Memory := memWriteBytes m a (toBytes n v)

/-- The cells of a range. -/
def memRange (m : Memory) (lo n : Nat) : Memory := m.filter (fun c => decide (lo ≤ c.1) && decide (c.1 < lo + n))

/-- A range replaced by other cells of that range. -/
def memReplace (m : Memory) (lo n : Nat) (cells : Memory) : Memory :=
  m.filter (fun c => decide (c.1 < lo)) ++ cells ++ m.filter (fun c => decide (lo + n ≤ c.1))

/-- Cells moved to other addresses. -/
def memShift (m : Memory) (lo dst : Nat) : Memory := m.map (fun c => (c.1 - lo + dst, c.2))

/-! ## Sorted sets of numbers -/

def setHas : List Nat → Nat → Bool
  | [], _ => false
  | j :: t, k => if j = k then true else if k < j then false else setHas t k

def setIns : List Nat → Nat → List Nat
  | [], k => [k]
  | j :: t, k => if k < j then k :: j :: t else if k = j then j :: t else j :: setIns t k

def setDel : List Nat → Nat → List Nat
  | [], _ => []
  | j :: t, k => if j = k then t else if k < j then j :: t else j :: setDel t k

def setPut (l : List Nat) (k : Nat) (b : Bool) : List Nat := if b then setIns l k else setDel l k

/-! ## Rim memory (R296) -/

def State.modRim (s : State) (f : Memory → Memory) : State := { s with rim := { s.rim with mem := f s.rim.mem } }

def State.rimRead (s : State) (a n : Nat) : Nat := memRead s.rim.mem a n

/-- Bytes written as one write at the home: a burst that the write covers wholly loses its poison. -/
def State.rimWriteBytes (s : State) (a : Nat) (bs : List Byte) : State :=
  let n := bs.length
  { s with rim := { s.rim with
      mem := memWriteBytes s.rim.mem a bs
      poison := s.rim.poison.filter (fun k => !(decide (a ≤ 64 * k) && decide (64 * k + 64 ≤ a + n))) } }

def State.rimWrite (s : State) (a n v : Nat) : State := s.rimWriteBytes a (toBytes n v)

/-- Is any burst of a range poisoned? -/
def State.rimPoisoned (s : State) (a n : Nat) : Bool :=
  s.rim.poison.any (fun k => decide (64 * k < a + n) && decide (a < 64 * k + 64))

/-- This module's number (R408). -/
def State.modId (s : State) : Nat := bits s.fabric.ctl.toNat 9 0

/-- The place in rim memory of a system physical address: its LOC, when MOD names this module (R296). -/
def State.rimAt (s : State) (pa : Nat) : Nat := if bits pa 63 54 = s.modId then pa % 2 ^ 54 else pa

/-- Size of rim memory: 1.5 TiB (R296). -/
def rimSize : Nat := 0x18000000000

/-! ## The error log (R359, R404) -/

/-- Corrected events at one location within 1 ms merge: 1,250,000 cycles of the module's time. -/
def ErrEntry.merges (o e : ErrEntry) : Bool :=
  e.what == 0 && o.what == 0 && o.struct_ == e.struct_ && o.ctx == e.ctx && o.place == e.place && o.addr == e.addr
    && e.time ≤ o.time + 1250000

/-- Log an event at a location; a new entry raises interrupt 2 (R401). -/
def State.logError (s : State) (struct_ what ctx place addr : Nat) : State :=
  let e : ErrEntry := ⟨s.regs.cycle, struct_, what, ctx, place, addr, 0, s.ambient.time⟩
  let c := s.croft
  match List.find? (fun (p : Nat × ErrEntry) => p.2.merges e) c.elog with
  | some (k, o) =>
    { s with croft := { c with elog := Tbl.put c.elog k { o with merged := min (o.merged + 1) (2 ^ 64 - 1) } } }
  | none =>
    { s with croft := { c with
        elog := Tbl.put c.elog (c.elogCnt % 4096) e, elogCnt := (c.elogCnt + 1) % 2 ^ 64, irqs := setIns c.irqs 2 } }

/-! ## Images (R323) -/

/-- Base of a rank's image. -/
def State.image (s : State) (v : VRef) : Nat := s.rimAt ((s.ctx v.ctx).desc.imgarea + v.rank * 2 ^ 24)

/-! ## Scratchpad (R28, R284): a unit lies in the tile or in the image -/

/-- Size of a scratchpad: 4 MiB. -/
def spSize : Nat := 0x400000

/-- `InBounds(a, n)` of R45. -/
def inBounds (a n : Nat) : Bool := a + n ≤ spSize

/-- Does the 8,192-byte unit of an address lie in the image? -/
def Vtile.unitOut (v : Vtile) (a : Nat) : Bool := setHas v.spOut (a / 8192)

def State.spGet (s : State) (v : VRef) (a : Nat) : Byte :=
  let t := s.vt v
  if t.unitOut a then memGet s.rim.mem (s.image v + a) else memGet t.sp a

/-- Is any unit of a range out of the tile (R284: an access waits until it is restored)? -/
def State.spOutRange (s : State) (v : VRef) (a n : Nat) : Bool :=
  let t := s.vt v
  n != 0 && t.spOut.any (fun k => decide (8192 * k < a + n) && decide (a < 8192 * k + 8192))

/-- `SpRead` of R45. -/
def State.spRead (s : State) (v : VRef) (a : Nat) : (n : Nat) → Nat
  | 0 => 0
  | n + 1 => (s.spGet v a).toNat + 256 * s.spRead v (a + 1) n

def State.spPut (s : State) (v : VRef) (a : Nat) (b : Byte) : State :=
  if (s.vt v).unitOut a then s.modRim (fun m => memPut m (s.image v + a) b)
  else s.modVt v (fun t => { t with sp := memPut t.sp a b })

def State.spPutBytes (s : State) (v : VRef) (a : Nat) : List Byte → State
  | [] => s
  | b :: bs => (s.spPut v a b).spPutBytes v (a + 1) bs

/-- Clear the marks of the words that a write of n bytes covers wholly (R283). -/
def clearMarks (marks : Tbl Mark) (a n : Nat) : Tbl Mark :=
  marks.filter (fun c => !(decide (a ≤ 8 * c.1) && decide (8 * c.1 + 8 ≤ a + n)))

/-- Bursts of rim memory that a range covers wholly lose their poison (R296). -/
def State.cleanBursts (s : State) (a n : Nat) : State :=
  { s with rim := { s.rim with
      poison := s.rim.poison.filter (fun k => !(decide (a ≤ 64 * k) && decide (64 * k + 64 ≤ a + n))) } }

/-- The same for the part of a range that lies in units of the image. -/
def State.cleanImage (s : State) (v : VRef) (a n : Nat) : State :=
  ((s.vt v).spOut.filter (fun u => decide (a < 8192 * u + 8192) && decide (8192 * u < a + n))).foldl (fun s u =>
    let lo := max a (8192 * u)
    s.cleanBursts (s.image v + lo) (min (a + n) (8192 * u + 8192) - lo)) s

/-- `SpWrite` of R45: bytes at an address; full-empty bits unchanged. -/
def State.spWriteBytes (s : State) (v : VRef) (a : Nat) (bs : List Byte) : State :=
  ((s.spPutBytes v a bs).cleanImage v a bs.length).modVt v (fun t => { t with marks := clearMarks t.marks a bs.length })

def State.spWrite (s : State) (v : VRef) (a n val : Nat) : State := s.spWriteBytes v a (toBytes n val)

/-- `FE(a)` of R45. -/
def State.feGet (s : State) (v : VRef) (a : Nat) : Bool :=
  let t := s.vt v
  if t.unitOut a then (memGet s.rim.mem (s.image v + 0x400000 + a / 64)).getLsbD (a / 8 % 8) else setHas t.fe (a / 8)

/-- `SetFE(a, b)` of R45. -/
def State.feSet (s : State) (v : VRef) (a : Nat) (b : Bool) : State :=
  if (s.vt v).unitOut a then
    let at_ := s.image v + 0x400000 + a / 64
    s.modRim (fun m => memPut m at_ (BitVec.ofNat 8 (setBits (memGet m at_).toNat (a / 8 % 8) (a / 8 % 8) (b2n b))))
  else s.modVt v (fun t => { t with fe := setPut t.fe (a / 8) b })

/-- Set the bits of k words from the word holding a. -/
def State.feSetWords (s : State) (v : VRef) (a : Nat) : (k : Nat) → State
  | 0 => s
  | k + 1 => (s.feSet v a true).feSetWords v (a + 8) k

/-- Number of 64-bit words that hold a byte of a range. -/
def wordsOf (a n : Nat) : Nat := if n = 0 then 0 else (a + n - 1) / 8 - a / 8 + 1

/-- Are all words of a range full? -/
def State.feAll (s : State) (v : VRef) (a n : Nat) : Bool :=
  (List.range (wordsOf a n)).all (fun k => s.feGet v (8 * (a / 8 + k)))

/-- Set the bits of k words from the word holding a, but for those that a test keeps back. -/
def State.feSetSome (s : State) (v : VRef) (a : Nat) (keep : Nat → Bool) : (k : Nat) → State
  | 0 => s
  | k + 1 => (if keep (a / 8) then s else s.feSet v a true).feSetSome v (a + 8) keep k

/-- An engine write (R29): bytes, then every word it touches set full. Poisoned words, by a mask of 64-bit words of the
source, land poisoned (R283). -/
def State.engineWrite (s : State) (v : VRef) (a : Nat) (bs : List Byte) : State :=
  (s.spWriteBytes v a bs).feSetWords v a (wordsOf a bs.length)

/-- Does a poisoned word lie in a range: one that is marked, or one of a unit of the image whose burst there is poisoned (R283,
R296)? -/
def State.spPoisoned (s : State) (v : VRef) (a n : Nat) : Bool :=
  (s.vt v).marks.any (fun c => c.2 == .poison && decide (8 * c.1 < a + n) && decide (a < 8 * c.1 + 8) && n != 0)
    || (s.vt v).spOut.any (fun u => decide (8192 * u < a + n) && decide (a < 8192 * u + 8192) && n != 0
      && s.rimPoisoned (s.image v + max a (8192 * u)) (min (a + n) (8192 * u + 8192) - max a (8192 * u)))

/-- A read corrects the correctable errors of its words (R283), and each is logged (R359). -/
def State.spCorrect (s : State) (v : VRef) (a n : Nat) : State :=
  let hits := (s.vt v).marks.filter (fun c =>
    c.2 == .correctable && decide (8 * c.1 < a + n) && decide (a < 8 * c.1 + 8))
  if hits.isEmpty then s
  else
    (hits.foldl (fun s c => s.logError 0 0 v.ctx (s.vt v).site (8 * c.1)) s).modVt v
      (fun t => { t with marks := t.marks.filter (fun c => !hits.contains c) })

/-- Poison the words of a range. -/
def State.spPoison (s : State) (v : VRef) (a n : Nat) : State :=
  s.modVt v (fun t => { t with
    marks := (List.range (wordsOf a n)).foldl (fun m k => Tbl.put m (a / 8 + k) .poison) t.marks })

/-- Does a range meet the port store (R207)? -/
def Vtile.overlapsPorts (t : Vtile) (a n : Nat) : Bool :=
  t.psSize != 0 && n != 0 && decide (a < t.psBase + t.psSize) && decide (t.psBase < a + n)

/-! ## Units between the tile and the image (R284, R318) -/

/-- The vtile in a bank of a tile. -/
def Tile.bank (t : Tile) (b : Bool) : Option VRef := if b then t.bank1 else t.bank0

/-- Does the vtile lie in the current bank of its tile (R284, R318)? -/
def State.active (s : State) (v : VRef) : Bool :=
  let t := s.vt v
  s.hasVt v && t.loc == .resident && (s.tile t.site).bank t.bank == some v && (s.tile t.site).sel == t.bank

/-- Does a landing wait for a unit of the running vtile (R284)? Elsewhere it is applied where the unit lies (R332). -/
def State.landWaits (s : State) (v : VRef) (a n : Nat) : Bool := s.active v && s.spOutRange v a n

/-- The vtile in the other bank of a vtile's tile. -/
def State.partner (s : State) (v : VRef) : Option VRef :=
  let t := s.vt v
  (s.tile t.site).bank (!t.bank)

/-- Move a scratchpad unit to the image, as whole bursts: its bytes and its full-empty bits. The poison marks of its words
stay with the vtile (R324). The move reads them: a
correctable error among them is corrected (R140, R283). -/
def State.spillSp (s : State) (v : VRef) (n : Nat) : State :=
  let s := s.spCorrect v (8192 * n) 8192
  let t := s.vt v
  let img := s.image v
  let cells := memShift (memRange t.sp (8192 * n) 8192) (8192 * n) (img + 8192 * n)
  let fe := (List.range 128).map (fun b => BitVec.ofNat 8 ((List.range 8).foldl (fun acc i =>
    acc + b2n (setHas t.fe (1024 * n + 8 * b + i)) * 2 ^ i) 0))
  let s := ((s.modRim (fun m => memReplace m (img + 8192 * n) 8192 cells)).cleanBursts (img + 8192 * n) 8192).rimWriteBytes
    (img + 0x400000 + 128 * n) fe
  s.modVt v (fun t => { t with
    sp := memReplace t.sp (8192 * n) 8192 []
    fe := t.fe.filter (fun w => !(decide (1024 * n ≤ w) && decide (w < 1024 * (n + 1))))
    spOut := setIns t.spOut n })

/-- Bring a scratchpad unit back. A poisoned burst of the image poisons its words. -/
def State.restoreSp (s : State) (v : VRef) (n : Nat) : State :=
  let img := s.image v
  let cells := memShift (memRange s.rim.mem (img + 8192 * n) 8192) (img + 8192 * n) (8192 * n)
  let words := (List.range 1024).filter (fun w => s.feGet v (8192 * n + 8 * w))
  let bad := (List.range 128).filter (fun b => s.rimPoisoned (img + 8192 * n + 64 * b) 64)
  let s := s.modVt v (fun t => { t with
    sp := memReplace t.sp (8192 * n) 8192 cells
    fe := words.foldl (fun l w => setIns l (1024 * n + w)) t.fe
    spOut := setDel t.spOut n })
  bad.foldl (fun s b => s.spPoison v (8192 * n + 64 * b) 64) s

/-- Bring the units of a range that are in the image into the tile, each after the partner's unit at its offset (R284). -/
def State.bringIn (s : State) (v : VRef) (a n : Nat) : State :=
  ((s.vt v).spOut.filter (fun k => decide (8192 * k < a + n) && decide (a < 8192 * k + 8192) && n != 0)).foldl (fun s k =>
    let s := match s.partner v with
      | some u => if setHas (s.vt u).spOut k then s else s.spillSp u k
      | none => s
    s.restoreSp v k) s

/-! ## Arrival words (R30, R31) -/

/-- One landing of n bytes on the arrival word at w, which reads its three fields. -/
def State.arrive (s : State) (v : VRef) (w n : Nat) : State :=
  let s := s.spCorrect v w 12
  let target := s.spRead v w 4
  let cnt := s.spRead v (w + 4) 4
  let gen := s.spRead v (w + 8) 4
  if target = 0 then s.spWrite v (w + 4) 4 (min (cnt + n) 0xFFFFFFFF)
  else
    let total := cnt + n
    (s.spWrite v (w + 4) 4 (total % target)).spWrite v (w + 8) 4 ((gen + total / target) % 2 ^ 32)

/-! ## Events of operations (R72, R74) -/

/-- Apply flags and counts to a vtile: an indivisible OR, and a count that saturates (R17, R19). -/
def Vtile.event (t : Vtile) (e : Ev) : Vtile :=
  { t with sticky := t.sticky ||| e.flags, satcount := min (t.satcount + e.sat) 0xFFFFFFFFFFFF }

def State.event (s : State) (v : VRef) (e : Ev) : State := s.modVt v (fun t => t.event e)

end Sys2Proof.Machine
end

