-- ==== Sys2Proof/Machine/Slots.lean ====
section
/-!
DEFINITION. Shared operations on slots: latches and their binding (R22 to R26), operations in flight and their landing,
release tags (R263), and the sending of messages (R205, R248, R251).
-/
namespace Sys2Proof.Machine

/-! ## Latches -/

def widen (l : Latches 64) : Latches 1024 :=
  ⟨l.a.setWidth 1024, l.b.setWidth 1024, l.c.setWidth 1024, l.q.setWidth 1024, l.q2.setWidth 1024⟩

def narrow64 (l : Latches 1024) : Latches 64 :=
  ⟨l.a.setWidth 64, l.b.setWidth 64, l.c.setWidth 64, l.q.setWidth 64, l.q2.setWidth 64⟩

/-- The latches of a unit, a 64-bit one in the low bits. -/
def LatchFile.get (l : LatchFile) : FUnit → Latches 1024
  | .alu0 => widen l.alu0 | .alu1 => widen l.alu1 | .mul => widen l.mul | .agu => widen l.agu | .lsu => widen l.lsu
  | .fpu => widen l.fpu | .vec => l.vec | .rng => l.rng | .mxq => widen l.mxq | .cpe => widen l.cpe
  | .msg => widen l.msg | .pat => widen l.pat | .sys => widen l.sys

/-- Write the latches of a unit; a 64-bit one takes the low bits (R14). -/
def LatchFile.put (l : LatchFile) (u : FUnit) (x : Latches 1024) : LatchFile :=
  match u with
  | .alu0 => { l with alu0 := narrow64 x } | .alu1 => { l with alu1 := narrow64 x }
  | .mul => { l with mul := narrow64 x } | .agu => { l with agu := narrow64 x } | .lsu => { l with lsu := narrow64 x }
  | .fpu => { l with fpu := narrow64 x } | .vec => { l with vec := x } | .rng => { l with rng := x }
  | .mxq => { l with mxq := narrow64 x } | .cpe => { l with cpe := narrow64 x } | .msg => { l with msg := narrow64 x }
  | .pat => { l with pat := narrow64 x } | .sys => { l with sys := narrow64 x }

/-- Write operand latch 0, 1 or 2 of a unit. -/
def LatchFile.setOperand (l : LatchFile) (u : FUnit) (i : Nat) (val : VWord) : LatchFile :=
  let x := l.get u
  l.put u (match i with
    | 0 => { x with a := val }
    | 1 => { x with b := val }
    | _ => { x with c := val })

/-! ## Operations in flight -/

/-- Does a flight belong to a unit? -/
def Flight.unit (f : Flight) : FUnit := trigUnit f.trig

/-- The operations of a unit that have not landed and that no later result has overtaken. -/
def Slot.unlanded (sl : Slot) (u : FUnit) : List Flight :=
  sl.ops.filter (fun f => f.unit == u && decide (vget sl.landedQ (unitNum u) 0 ≤ f.tseq))

/-- Has the latest trigger of the unit landed (R25)? -/
def Slot.landed (sl : Slot) (u : FUnit) : Bool := (sl.unlanded u).isEmpty

/-- `q_prev` of R107: the result of the latest earlier trigger, or the latch. -/
def Slot.qPrev (sl : Slot) (u : FUnit) : Word :=
  let known := (sl.unlanded u).filterMap (fun f => f.res.bind Landing.q)
  match known.getLast? with
  | some q => q.setWidth 64
  | none => (sl.lat.get u).q.setWidth 64

/-- The flight that a trigger makes of the latches as they stand. -/
def Slot.newFlight (sl : Slot) (t : Trig) (m : BitVec 3) (performed : Bool) (res : Option Landing) : Flight :=
  let u := trigUnit t
  let l := sl.lat.get u
  { id := sl.nextId, trig := t, mod := m, a := l.a, b := l.b, c := l.c,
    tseq := vget sl.tseq (unitNum u) 0, ix := sl.ix, tag := sl.relTag, performed := performed, res := res }

/-- Put a flight behind the slot's others and count its trigger. -/
def Slot.launch (sl : Slot) (f : Flight) : Slot :=
  { sl with ops := sl.ops ++ [f], nextId := sl.nextId + 1, tseq := vmod sl.tseq (unitNum f.unit) (· + 1) }

/-- Fire a trigger whose result is known. -/
def Slot.fire (sl : Slot) (t : Trig) (m : BitVec 3) (l : Landing) : Slot := sl.launch (sl.newFlight t m true (some l))

/-- Fire a trigger whose result an engine gives later. -/
def Slot.fireEngine (sl : Slot) (t : Trig) (m : BitVec 3) : Slot := sl.launch (sl.newFlight t m true none)

/-- A result of `.q` alone, without events. -/
def landQ (q : Word) : Landing := ⟨some (q.setWidth 1024), none, evNone⟩

/-- A 1,024-bit result of `.q`. -/
def landV (q : VWord) (e : Ev) : Landing := ⟨some q, none, e⟩

/-- Nothing but the count of the trigger: stores and vst write no result latch (R160). -/
def landNothing : Landing := ⟨none, none, evNone⟩

/-- Write a landing into the latches: the results of one unit land in the order of their triggers, so a result older
than one that has landed is not written (R26). A landing without a result, such as a store's, overtakes none: at trap
entry it may come before an older pending record (R120, R345). -/
def Slot.writeLanding (sl : Slot) (f : Flight) (l : Landing) : Slot :=
  let u := f.unit
  let n := unitNum u
  let x := sl.lat.get u
  let wq := l.q.isSome && decide (vget sl.landedQ n 0 ≤ f.tseq)
  let wq2 := l.q2.isSome && decide (vget sl.landedQ2 n 0 ≤ f.tseq)
  let x := if wq then { x with q := l.q.getD 0 } else x
  let x := if wq2 then { x with q2 := l.q2.getD 0 } else x
  { sl with
    lat := sl.lat.put u x
    landedQ := if wq then vset sl.landedQ n (f.tseq + 1) else sl.landedQ
    landedQ2 := if wq2 then vset sl.landedQ2 n (f.tseq + 1) else sl.landedQ2 }

/-- A flight leaves the list. -/
def Slot.dropFlight (sl : Slot) (id : Nat) : Slot := { sl with ops := removeFirst (fun f => f.id == id) sl.ops }

/-- Land a flight: latches, then events (R74). -/
def State.landFlight (s : State) (r : SRef) (f : Flight) (l : Landing) : State :=
  (s.modSlot r (fun sl => (sl.dropFlight f.id).writeLanding f l)).event r.vt l.ev

/-! ## Placement, scopes and tags (R43, R258, R263) -/

/-- Column and row of a tile site (R42): 96 columns, 56 rows. -/
def siteCol (n : Nat) : Nat := n % 96
def siteRow (n : Nat) : Nat := n / 96

/-- Fold site (R289): 24 folds a row. -/
def foldOfSite (n : Nat) : Nat := siteCol n / 4 + 24 * (siteRow n / 4)

/-- Field site: 12 fields a row (R43: 64 tiles). -/
def fieldOfSite (n : Nat) : Nat := siteCol n / 8 + 12 * (siteRow n / 8)

/-- Span of two tile sites of one module, different vtiles (R258, R44): FOLD, FIELD or WAFER. -/
def spanOfSites (a b : Nat) : Nat :=
  if foldOfSite a = foldOfSite b then 1 else if fieldOfSite a = fieldOfSite b then 2 else 3

/-- The site of a vtile while it is resident. -/
def Vtile.site? (t : Vtile) : Option Nat := if t.loc = .resident then some t.site else none

/-- Where the rotation count of an incarnation that was retired is kept. -/
def rotKey (rank inc : Nat) : Nat := rank + 2 ^ 24 * inc

/-- The rotation count of a releaser: that of its vtile, or the last of an incarnation that is gone. -/
def State.releaserRot (s : State) (g : RelTag) : Nat :=
  let v : VRef := ⟨g.ctx, g.rank⟩
  if s.hasVt v && (s.vt v).inc == g.inc then (s.vt v).rot
  else Tbl.getD (s.ctx g.ctx).oldRots (rotKey g.rank g.inc) 0

/-- The scope a tag is checked at: a releaser that has rotated since counts as WAFER (R276). -/
def State.tagScope (s : State) (g : RelTag) : Nat := if s.releaserRot g == g.rot then g.scope else 3

/-- Span of a releaser's place at its release and the place of a reader, an incarnation of a rank (R258, R277): a reader out
of the tile lies outside every scope narrower than WAFER. -/
def tagSpan (g : RelTag) (rank inc : Nat) (site : Option Nat) : Nat :=
  if g.rank = rank && g.inc = inc && site.isSome then 0
  else match g.site, site with
    | some a, some b => spanOfSites a b
    | _, _ => 3

/-- The tag that a release of a scope makes (R263, R276). -/
def State.makeTag (s : State) (r : SRef) (scope : Nat) : RelTag :=
  let t := s.vt r.vt
  { scope := scope, ctx := r.vt.ctx, rank := r.vt.rank, inc := t.inc, site := t.site?, rot := t.rot }

/-- Is the vtile of a rank in a tile of another's field (R261)? -/
def State.rankInField (s : State) (v : VRef) (rank : Nat) : Bool :=
  match (s.vt ⟨v.ctx, rank⟩).site? with
  | some site => s.hasVt ⟨v.ctx, rank⟩ && fieldOfSite site == fieldOfSite (s.vt v).site
  | none => false

/-! ## Memory operations of a slot -/

/-- Is the trigger one of the operations that are performed in trigger order (R125, R161, R223), stores apart? -/
def trigIsMemory : Trig → Bool
  | .lsu .st | .lsu .stFill | .lsu .cSt | .lsu .fence | .lsu .rel | .lsu .acq => false
  | .lsu _ => true
  | .vec .vld _ | .vec .vldWf _ => true
  | _ => false

/-- Is the trigger a store that enters the store buffer? -/
def trigIsStore : Trig → Bool
  | .lsu .st | .lsu .stFill | .lsu .cSt | .vec .vst _ => true
  | _ => false

/-- Is the trigger a commons operation other than c.st? -/
def trigIsCommons : Trig → Bool
  | .lsu op => (match op with
    | .cLd | .cAddO | .cAddU | .cMinO | .cMinU | .cMaxO | .cMaxU | .cCasO | .cCasU | .cSwapO | .cSwapU | .cDecq => true
    | _ => false)
  | _ => false

/-- Must the operation wait until the slot's earlier stores have been performed (R125, R223)? -/
def trigDrains : Trig → Bool
  | .lsu op => (match op with
    | .ldTake | .feRd | .feClr | .aAdd | .aAnd | .aOr | .aXor | .aMin | .aMax | .aCas | .aSwap => true
    | .cAddO | .cAddU | .cMinO | .cMinU | .cMaxO | .cMaxU | .cCasO | .cCasU | .cSwapO | .cSwapU | .cDecq => true
    | _ => false)
  | _ => false

/-- The operations of the slot that wait to be performed, in trigger order. -/
def Slot.unperformed (sl : Slot) : List Flight := sl.ops.filter (fun f => !f.performed && trigIsMemory f.trig)

/-- Does an unperformed operation, or a buffered store, older than a number remain? -/
def Slot.waitsBefore (sl : Slot) (id : Nat) : Bool := sl.unperformed.any (fun f => decide (f.id < id))
def Slot.storesBefore (sl : Slot) (id : Nat) : Bool := sl.sb.any (fun e => decide (e.id < id))

/-! ### What an operation reaches, and what it waits for -/

/-- Effective address of an operation: the low 64 bits of `.a` (R118, R160). -/
def Flight.ea (f : Flight) : Nat := f.a.toNat % 2 ^ 64

/-- NB of a vector access (R160). -/
def vecNB (c : VWord) : Nat := let n := bits c.toNat 7 0; if n = 0 then 128 else n

/-- Bytes of an access. -/
def Flight.bytes (f : Flight) : Nat :=
  match f.trig with
  | .vec _ _ => vecNB f.c
  | .lsu .feRd | .lsu .feClr => 1
  | _ => wWidth f.mod / 8

/-- Does the operation wait until its words are full (R119, R160)? -/
def trigWaitsFull : Trig → Bool
  | .lsu .ldWf | .lsu .ldTake | .vec .vldWf _ => true
  | _ => false

/-- Does it wait for a word that is not full (R120)? -/
def State.waitsForFill (s : State) (r : SRef) (f : Flight) : Bool := trigWaitsFull f.trig && !s.feAll r.vt f.ea f.bytes

/-- Is an operation of the scratchpad still to be performed? In a frame it is a pending record, which only the return from
the trap takes up again (R345, R348). -/
def Flight.isPending (f : Flight) : Bool := !f.performed && trigIsMemory f.trig && !trigIsCommons f.trig

/-- Does an operation from before the slot's trap stand behind a pending record of the frame (R223, R348)? -/
def Slot.behindRecord (sl : Slot) (id : Nat) : Bool :=
  sl.saved.any (fun p => p.2.id == id) && sl.saved.any (fun p => p.2.isPending && decide (p.2.id < id))

/-- The operations of the slot that are on their way to the banks and older than a number, of this firing or of an earlier
one: a trap or an end leaves them on their way (R130, R345). What stands behind a pending record comes after the handler. -/
def State.bankBefore (s : State) (r : SRef) (id : Nat) : Bool :=
  (s.ctx r.vt.ctx).bankOps.any (fun u => u.rank == r.vt.rank && u.slot == r.slot.val && decide (u.fid < id)
    && !(s.slot r).behindRecord u.fid)

/-- Is an access of the slot older than a number, buffered stores apart, still to be performed? -/
def State.waitsBefore (s : State) (r : SRef) (id : Nat) : Bool := (s.slot r).waitsBefore id || s.bankBefore r id

/-- Has the slot sent a message before a number, to a rank of some kind, that has not been delivered? The message is a write
of its destination port (R256). -/
def State.sendsBefore (s : State) (r : SRef) (id : Nat) (sel : Nat → Bool) : Bool :=
  (s.vt r.vt).outq.any (fun m => sel m.drank && (match m.after with
    | some (k, n) => k == r.slot.val && decide (n < id)
    | none => false))

/-- The same of messages whose destination tile lies in the slot's field (R261). -/
def State.fieldSends (s : State) (r : SRef) (id : Nat) : Bool := s.sendsBefore r id (fun k => s.rankInField r.vt k)

/-- Is a copy of the slot older than a number not applied at its home yet (R281)? -/
def State.copyBefore (s : State) (r : SRef) (id : Nat) : Bool :=
  (s.vt r.vt).copies.any (fun c => c.slot == r.slot.val && decide (c.fid < id) && !c.finished)

/-- Does an operation of the slot wait for something that the slot's own operations do not bring about: an empty word, the
return from a trap, a message that is not delivered? -/
def State.stuckBefore (s : State) (r : SRef) (id : Nat) : Bool :=
  (s.slot r).unperformed.any (fun f => decide (f.id < id) && s.waitsForFill r f) || (s.slot r).behindRecord id
    || s.fieldSends r id

/-- Do accesses from before the vtile's latest flip, slice switch or rotation hold back its later ones (R276): operations at the
banks, and scratchpad operations behind such? One that waits for an empty word had not taken place at the stop. -/
def State.stopBar (s : State) (v : VRef) : Bool :=
  (s.ctx v.ctx).bankOps.any (fun u => u.rank == v.rank && decide (u.id < (s.vt v).stopAt)
      && !s.stuckBefore ⟨v, Fin.ofNat 8 u.slot⟩ u.fid)
    || (List.range 8).any (fun i =>
      let r : SRef := ⟨v, Fin.ofNat 8 i⟩
      (s.slot r).unperformed.any (fun f => !trigIsCommons f.trig && decide (f.id < (s.slot r).stopId)
        && !s.waitsForFill r f && !s.stuckBefore r f.id))

/-- Is anything of the slot from before a fence or rel still to be performed? `barDo` is the slot's latest one of scope DOMAIN,
which waits for its copies too (R281). -/
def State.behindBar (s : State) (r : SRef) (bar barDo : Nat) : Bool :=
  s.waitsBefore r bar || (s.slot r).storesBefore bar || s.sendsBefore r bar (fun _ => true) || s.copyBefore r barDo

/-- Does a fence, rel or acq hold back an access (R123, R266, R281), or a fence that stopping the vtile was (R276)?
`isWrite`: a store, atomic, commons operation, CPE command, MSG send or matrix command. -/
def State.heldBack (s : State) (r : SRef) (isWrite : Bool) : Bool :=
  let sl := s.slot r
  s.behindBar r sl.barFence sl.barFenceDo || (isWrite && s.behindBar r sl.barRel sl.barRelDo) || s.waitsBefore r sl.barAcq
    || s.stopBar r.vt

/-- Put a store into the slot's buffer. -/
def Slot.buffer (sl : Slot) (kind : SbKind) (addr n : Nat) (data : VWord) : Slot :=
  { sl with
    sb := sl.sb ++ [{ id := sl.nextId, kind := kind, addr := addr, n := n, data := data, tag := sl.relTag }]
    nextId := sl.nextId + 1 }

/-- Is the entry a scratchpad store? -/
def SbKind.isSp : SbKind → Bool
  | .st | .stFill | .vst => true
  | _ => false

/-- The youngest buffered byte for an address among the scratchpad stores (or the commons stores) older than a number
(R124, R161, R223). -/
def Slot.forward (sl : Slot) (commons : Bool) (before a : Nat) : Option Byte :=
  let hits := sl.sb.filter (fun e => decide (e.id < before) && decide (e.addr ≤ a) && decide (a < e.addr + e.n)
    && (if commons then e.kind == .cSt else e.kind.isSp))
  hits.getLast?.map (fun e => byteAt e.data.toNat (a - e.addr))

/-- Read scratchpad bytes with forwarding. -/
def State.spReadFwd (s : State) (r : SRef) (before a : Nat) : (n : Nat) → Nat
  | 0 => 0
  | n + 1 =>
    (((s.slot r).forward false before a).getD (s.spGet r.vt a)).toNat + 256 * s.spReadFwd r before (a + 1) n

/-! ## Words in DEST layout (R203) -/

def destWord (rank port inc : Nat) : Word := word (rank + port * 2 ^ 24 + inc * 2 ^ 32)
def destRank (d : Word) : Nat := bits d.toNat 23 0
def destPort (d : Word) : Nat := bits d.toNat 28 24
def destInc (d : Word) : Nat := bits d.toNat 55 32
def destReserved (d : Word) : Bool := bits d.toNat 31 29 != 0 || bits d.toNat 63 56 != 0

/-- Ranks of the grid (R20). -/
def Ctx.ranks (c : Ctx) : Nat := c.desc.vx * c.desc.vy

/-! ## Sending messages -/

/-- A message that no MSG trigger sends: from an interface, a bank, a router, the shepherd or the croft. -/
def State.post (s : State) (ctx : Nat) (m : Msg) : State :=
  s.inCtx ctx (fun c => { c with msgs := c.msgs ++ [{ m with id := c.nextId }], nextId := c.nextId + 1 })

/-- A KIND 5 message to a destination word. -/
def kind5 (dest : Word) (srank sinc sseq reason : Nat) (payload : List Word) (tag : Option RelTag) (port : Bool) : Msg :=
  { id := 0, drank := destRank dest, dport := destPort dest, dinc := destInc dest, srank := srank, sinc := sinc,
    sseq := sseq, kind := 5, reason := reason, payload := payload, poison := 0, tags := tag.toList, ring := none, aw := none,
    toCtxPort := port, after := none }

/-- A message to the context's supervisor port (R248). -/
def State.postSup (s : State) (ctx srank sinc sseq reason : Nat) (payload : List Word) : State :=
  s.post ctx (kind5 (s.ctx ctx).desc.supdest srank sinc sseq reason payload none true)

/-- A message to the context's dead-letter port (R248). -/
def State.postDead (s : State) (ctx srank sinc sseq reason : Nat) (payload : List Word) (poison : Nat) : State :=
  s.post ctx { kind5 (s.ctx ctx).desc.dldest srank sinc sseq reason payload none true with poison := poison }

/-- A header as two words (R205). -/
def Msg.header0 (m : Msg) : Word :=
  word (m.srank + m.dport * 2 ^ 24 + m.kind * 2 ^ 29 + (m.payload.length - 1) * 2 ^ 32 + m.dinc * 2 ^ 40)
def Msg.header1 (m : Msg) : Word := word (m.sseq + m.sinc * 2 ^ 32 + m.reason * 2 ^ 56)

/-- The 144 bytes of an entry (R205). -/
def Msg.entryBytes (m : Msg) : List Byte :=
  toBytes 8 m.header0.toNat ++ toBytes 8 m.header1.toNat
    ++ (List.range 16).flatMap (fun i => toBytes 8 (m.payload.getD i 0).toNat)

/-- Dead-letter a message with a reason (R248): the original header and 14 payload words. -/
def State.deadLetter (s : State) (ctx : Nat) (m : Msg) (reason : Nat) : State :=
  s.postDead ctx m.srank m.sinc m.sseq reason (m.header0 :: m.header1 :: m.payload.take 14) (m.poison <<< 2)

/-- Raise an interrupt of the croft (R401). -/
def State.raiseIrq (s : State) (k : Nat) : State := { s with croft := { s.croft with irqs := setIns s.croft.irqs k } }

/-- Write an entry to the context fault log; each write raises the croft's interrupt, and with no log the entry is only
counted as lost (R355, R401). -/
def State.faultLog (s : State) (ctx : Nat) (m : Msg) : State :=
  let g := (s.ctx ctx).regs
  if g.flogAddr = 0 then
    s.inCtx ctx (fun c => { c with regs := { c.regs with flogLost := min (g.flogLost + 1) 0xFFFFFFFF } })
  else
    let s := (s.rimWriteBytes (s.rimAt (g.flogAddr + 144 * (g.flogCnt % 64))) m.entryBytes).inCtx ctx
      (fun c => { c with regs := { c.regs with flogCnt := (g.flogCnt + 1) % 2 ^ 32 } })
    if g.cfie then s.raiseIrq (32 + ctx) else s

end Sys2Proof.Machine
end

