-- ==== Sys2Proof/Machine/Flags.lean ====
section
/-!
DEFINITION. Operand widths and results of R107, and every flag and count that an integer operation raises (R112, R114).
Each computation answers the value and its events; the floating-point ones are in Fp and Real.
-/
namespace Sys2Proof.Machine

/-- Is a W code signed (R107)? -/
def wSigned (m : BitVec 3) : Bool := m.toNat < 4

/-- `Op(x)` of R107. -/
def opVal (m : BitVec 3) (x : Nat) : Int :=
  if wSigned m then sext x (wWidth m) else ((x % 2 ^ wWidth m : Nat) : Int)

/-- `Res(v)` of R107 as a 64-bit number. -/
def resVal (m : BitVec 3) (v : Int) : Word :=
  let w := wWidth m
  if wSigned m then word (wrap (sext (wrap v w) w) 64) else word (wrap v w)

/-- `Res` of a bit pattern of w bits. -/
def resBits (m : BitVec 3) (x : Nat) : Word := resVal m ((x % 2 ^ wWidth m : Nat) : Int)

/-- Clamp to the range of (w, sg), with the events of R112. -/
def clampW (m : BitVec 3) (r : Int) : Word × Ev :=
  let (lo, hi) := intRange (wWidth m) (wSigned m)
  if hi < r then (resVal m hi, ⟨flagSAT ||| flagNX, 1⟩)
  else if r < lo then (resVal m lo, ⟨flagSAT ||| flagNX, 1⟩)
  else (resVal m r, evNone)

/-- Quotient and remainder of R114, with DZ. -/
def divW (m : BitVec 3) (n d : Int) : Word × Word × Ev :=
  if d = 0 then (resVal m ((2 : Int) ^ wWidth m - 1), resVal m n, evFlags flagDZ)
  else (resVal m (n.tdiv d), resVal m (n - n.tdiv d * d), evNone)

/-- 1 or 0 as a word. -/
def truth (b : Bool) : Word := if b then 1 else 0

/-! ## Commons values (R224) -/

/-- Width in bytes of a commons operation (R222): code 6 names `.z16` on c.ld and c.st, and `.f32` on the updates. -/
def commonsBytes (op : LsuOp) (m : BitVec 3) : Nat :=
  match op with
  | .cDecq => 32
  | .cLd | .cSt => wWidth m / 8
  | _ => if m.toNat = 6 then 4 else wWidth m / 8

/-- IEEE minimum or maximum of two exact values, given as the encoding that is chosen (R148). -/
def ieeeMinMax (f : Fmt) (wantMax : Bool) (x y : Nat) : Nat × Ev :=
  let a := ieeeDecode f x
  let b := ieeeDecode f y
  let nv := evIf (a.isSig || b.isSig) flagNV
  if a.isNan || b.isNan then (defaultNaN f, nv)
  else
    let aFirst := fvalLt a b || (fvalEq a b && a.sign && !b.sign)
    (if aFirst != wantMax then x else y, nv)

/-- What a commons update makes of the old value: the new value, or none when nothing is written, `.q` and the events. -/
def commonsApply (op : LsuOp) (m : BitVec 3) (old : Nat) (b c : Word) : Option Nat × Word × Ev :=
  let n := commonsBytes op m
  let bits := 8 * n
  let isF := m.toNat = 6
  let bn := b.toNat % 2 ^ bits
  let num (v : Int) : Nat := wrap v bits
  let q := word old
  match op with
  | .cLd => (none, resVal m (opVal m old), evNone)
  | .cSt => (some bn, 0, evNone)
  | .cAddO | .cAddU =>
    if isF then
      let r := fAdd .rn (ieeeDecode .fp32 old) (ieeeDecode .fp32 bn)
      let (x, e) := finish .fp32 .rn r
      (some x, q, e)
    else (some (num (opVal m old + opVal m bn)), q, evNone)
  | .cMinO | .cMinU =>
    if isF then let (x, e) := ieeeMinMax .fp32 false old bn; (some x, q, e)
    else (some (num (min (opVal m old) (opVal m bn))), q, evNone)
  | .cMaxO | .cMaxU =>
    if isF then let (x, e) := ieeeMinMax .fp32 true old bn; (some x, q, e)
    else (some (num (max (opVal m old) (opVal m bn))), q, evNone)
  | .cCasO | .cCasU => (if opVal m old = opVal m c.toNat then some bn else none, q, evNone)
  | .cSwapO | .cSwapU => (some bn, q, evNone)
  | _ => (none, 0, evNone)

/-- Is it an ordered update (R225)? -/
def commonsOrdered : LsuOp → Bool
  | .cAddO | .cMinO | .cMaxO | .cCasO | .cSwapO => true
  | _ => false

/-- Does an ordered update's result come only at settling (R225)? -/
def commonsLate : LsuOp → Bool
  | .cCasO | .cSwapO => true
  | _ => false

end Sys2Proof.Machine
end

