-- ==== Sys2Proof/Machine/Banks.lean ====
section
/-!
DEFINITION. The commons banks: where an offset lies (R288), condemned lines (R222, R295), versions (R294), word tags and
scope misses (R277), holding sets, spilling and settling (R225 to R227), and the results that engines give to slots.
-/
namespace Sys2Proof.Machine

/-! ## Results that come to a slot from an engine -/

/-- Where a slot's record lies in its frame (R344). -/
def recordAddr (sl : Slot) (k : Nat) : Nat := sl.tframe.toNat % 2 ^ 22 + 0x6C0 + 32 * k

/-- Does the slot still run the firing that a result is for? -/
def Slot.runs (sl : Slot) (fser : Nat) : Bool := sl.fser == fser && sl.status != .free

/-- A recorded operation leaves the list of those that are not dealt with. -/
def Slot.forget (sl : Slot) (k : Nat) : Slot := { sl with saved := sl.saved.filter (fun p => p.1 != k) }

/-- A result goes into record k of the slot's frame: A, B and LANDED in one step (R345); B is open where the operation has
no `.q2` result. -/
def State.landRecord (s : State) (v : VRef) (r : SRef) (k : Nat) (l : Landing) : State :=
  let at_ := recordAddr (s.slot r) k
  let w0 := s.spRead v at_ 8
  let s := s.spWrite v at_ 8 (setBits w0 16 16 1)
  let s := s.spWrite v (at_ + 8) 8 ((l.q.getD 0).toNat % 2 ^ 64)
  let s := s.spWrite v (at_ + 16) 8 (match l.q2 with
    | some q2 => q2.toNat % 2 ^ 64
    | none => (openAt s.tick 15 (2 ^ 48 * v.ctx + 2 ^ 24 * v.rank + at_)).toNat)
  (s.modSlot r (fun sl => sl.forget k)).event v l.ev

/-- Record k of the slot's frame loses VALID: its operation never lands (R126, R345). -/
def State.voidRecord (s : State) (v : VRef) (r : SRef) (k : Nat) : State :=
  let at_ := recordAddr (s.slot r) k
  (s.spWrite v at_ 8 (setBits (s.spRead v at_ 8) 15 15 0)).modSlot r (fun sl => sl.forget k)

/-- Has a recorded operation a record to be written: one that is due, or one of MXQ whose result was known at trap entry and
that no older one of its unit keeps back any longer (R26)? -/
def Slot.recordDue (sl : Slot) (f : Flight) : Bool :=
  f.due || (f.res.isSome && f.performed && f.unit == .mxq && !sl.saved.any (fun o => o.2.unit == .mxq && o.2.tseq < f.tseq))

/-- The next record to be written, unless its unit waits to be restored (R284). -/
def State.savedNext (s : State) (r : SRef) : Option (Nat × Flight) :=
  (s.slot r).saved.find? (fun p => (s.slot r).recordDue p.2 && !s.landWaits r.vt (recordAddr (s.slot r) p.1) 32)

/-- Write such records, one after the other (R345). -/
def State.landSaved (s : State) (v : VRef) (r : SRef) : (fuel : Nat) → State
  | 0 => s
  | n + 1 => match s.savedNext r with
    | some (k, f) => (match f.res with
      | some l => s.landRecord v r k l
      | none => s.voidRecord v r k).landSaved v r n
    | none => s

/-- A recorded operation is done: its record is written now, or once the unit that holds it is in the tile. -/
def State.recordDone (s : State) (v : VRef) (r : SRef) (k : Nat) (l : Option Landing) : State :=
  (s.modSlot r (fun sl => { sl with
    saved := sl.saved.map (fun p => if p.1 = k then (k, { p.2 with res := l, performed := true, due := true }) else p) })).landSaved
      v r 32

/-- A result reaches the slot's operation: it waits to land, or goes into its record in the frame, or its firing has ended
and only its events remain (R130). -/
def State.engineResult (s : State) (v : VRef) (slot fser fid : Nat) (l : Landing) : State :=
  let r : SRef := ⟨v, Fin.ofNat 8 slot⟩
  let sl := s.slot r
  if sl.runs fser then
    if sl.ops.any (fun f => f.id == fid) then
      s.modSlot r (fun sl => { sl with
        ops := modifyFirst (fun f => f.id == fid) (fun f => { f with res := some l, performed := true }) sl.ops })
    else
      match sl.saved.find? (fun p => p.2.id == fid) with
      | some (k, _) => s.recordDone v r k (some l)
      | none => s.event v l.ev
  else s.event v l.ev

/-- An operation has been performed but its result comes later. -/
def State.enginePerformed (s : State) (v : VRef) (slot fser fid : Nat) : State :=
  let r : SRef := ⟨v, Fin.ofNat 8 slot⟩
  if (s.slot r).fser == fser then
    s.modSlot r (fun sl => { sl with
      ops := modifyFirst (fun f => f.id == fid) (fun f => { f with performed := true }) sl.ops })
  else s

/-- An operation never lands: it leaves the slot's list, or its record loses VALID. -/
def State.engineNever (s : State) (v : VRef) (slot fser fid : Nat) : State :=
  let r : SRef := ⟨v, Fin.ofNat 8 slot⟩
  let sl := s.slot r
  if sl.fser == fser then
    match sl.saved.find? (fun p => p.2.id == fid) with
    | some (k, _) => s.recordDone v r k none
    | none => s.modSlot r (fun sl => sl.dropFlight fid)
  else s

/-- Raise a held trap for a slot's firing (R341, R192). -/
def State.raiseHeld (s : State) (v : VRef) (slot fser : Nat) (code : Nat) (tval tinst : Word) (order : Nat)
    (replay : Option Flight) : State :=
  s.modVt v (fun t => { t with held := t.held ++ [
    { slot := slot, fser := fser, order := order, replay := replay,
      req := { code := code, tval := tval, tinst := tinst, move := 7, pair2 := false } }] })

/-- A fault that one context owns starts its teardown (R356). -/
def State.startTeardown (s : State) (ctx cause : Nat) : State :=
  { s with inputs := .teardown ctx (BitVec.ofNat 8 cause) :: s.inputs }

/-! ## Lines -/

/-- Map entry of an offset (R288, R289). -/
def Ctx.mapEntry (c : Ctx) (ea : Nat) : Nat := (c.desc.cmap.getD (ea / 2 ^ 20) 0).toNat

/-- The bank of an offset, numbered over the module: fold × 256 + bank (R288). -/
def Ctx.bankOf (c : Ctx) (ea : Nat) : Nat := bits (c.mapEntry ea) 9 1 * 256 + bits ea 13 6

/-- The line of an offset within its bank (R288). -/
def Ctx.bankLine (c : Ctx) (ea : Nat) : Nat := bits (c.mapEntry ea) 18 10 * 64 + bits ea 19 14

/-- Tile site above which a bank of the module stands (R287, R289). -/
def bankSite (k : Nat) : Nat :=
  let fold := k / 256
  let t := k % 256 / 16
  (fold % 24 * 4 + t % 4) + 96 * (fold / 24 * 4 + t / 4)

/-- The physical line number of an offset (R294). -/
def Ctx.physLine (c : Ctx) (ea : Nat) : Nat :=
  bankSite (c.bankOf ea) * 2 ^ 19 + c.bankOf ea % 16 * 2 ^ 15 + c.bankLine ea

/-- Does the bank of an offset lie in the vtile's field (R261)? -/
def State.bankInField (s : State) (v : VRef) (ea : Nat) : Bool :=
  fieldOfSite (bankSite ((s.ctx v.ctx).bankOf ea)) == fieldOfSite (s.vt v).site

/-- Is an access of the slot, older than a number and homed in its field, still to be performed: one of the own scratchpad,
or an operation of a bank of the field (R261)? -/
def State.keptBefore (s : State) (r : SRef) (id : Nat) : Bool :=
  (s.slot r).unperformed.any (fun f => decide (f.id < id) && !trigIsCommons f.trig)
    || (s.ctx r.vt.ctx).bankOps.any (fun u => u.rank == r.vt.rank && u.slot == r.slot.val && decide (u.fid < id)
      && s.bankInField r.vt u.ea && !(s.slot r).behindRecord u.fid)

/-- Does a read of the line find it condemned (R295, R222)? -/
def Ctx.lineBad (c : Ctx) (ea : Nat) : Bool :=
  setHas c.condemned (ea / 64) || Tbl.find? c.cmarks (ea / 64) == some .poison

/-- A read of a line: a planted correctable error is corrected, an uncorrectable one condemns it (R140, R295). -/
def Ctx.readLine (c : Ctx) (ea : Nat) : Ctx :=
  match Tbl.find? c.cmarks (ea / 64) with
  | some .poison => { c with cmarks := Tbl.del c.cmarks (ea / 64), condemned := setIns c.condemned (ea / 64) }
  | some .correctable => { c with cmarks := Tbl.del c.cmarks (ea / 64) }
  | none => c

/-- The fold of a bank that failed is no longer usable for commons (R396). -/
def State.bankFails (s : State) (fold : Nat) : State :=
  { s with ident := { s.ident with deadFolds := setIns s.ident.deadFolds fold } }

/-- The same in the state; an error that is met is logged (R359), and an uncorrectable one clears its fold site of CFOLDMAP
(R396; log 99). -/
def State.readCommons (s : State) (ctx ea : Nat) : State :=
  match Tbl.find? (s.ctx ctx).cmarks (ea / 64) with
  | none => s
  | some m =>
    let s := (s.logError 2 (b2n (m == .poison)) ctx (bankSite ((s.ctx ctx).bankOf ea)) ea).inCtx ctx (fun c => c.readLine ea)
    if m == .poison then s.bankFails ((s.ctx ctx).bankOf ea / 256) else s

/-- Would a further write of the line of an offset take its version past 2^56 - 1 (R294)? -/
def Ctx.lineSpent (c : Ctx) (ea : Nat) : Bool := 2 ^ 56 - 1 ≤ Tbl.getD c.versions (c.physLine ea) 0

/-- The versions after a write of the line of an offset. -/
def Ctx.versionsUp (c : Ctx) (ea : Nat) : Tbl Nat := Tbl.put c.versions (c.physLine ea) (Tbl.getD c.versions (c.physLine ea) 0 + 1)

/-- Write n bytes of a word: the line's version rises (R294), and the word takes the write's tag (R277). A line whose
version is spent refuses the write, and the context is torn down. -/
def State.commonsWrite (s : State) (ctx ea n val : Nat) (tag : Option RelTag) : State :=
  if (s.ctx ctx).lineSpent ea then s.startTeardown ctx 0x13
  else s.inCtx ctx (fun c => { c with
    commons := memWrite c.commons ea n val
    versions := c.versionsUp ea
    wtags := match tag with
      | some g => Tbl.put c.wtags (ea / 8) ⟨g, false⟩
      | none => Tbl.del c.wtags (ea / 8) })

/-- The routers' check of a read, by an incarnation of a rank at a place, against the word's tag (R277, R278): the first stripped
read reports it. -/
def State.checkRead (s : State) (ctx ea rank inc : Nat) (site : Option Nat) : State :=
  match Tbl.find? (s.ctx ctx).wtags (ea / 8) with
  | none => s
  | some wt =>
    let need := tagSpan wt.tag rank inc site
    if s.tagScope wt.tag < need && !wt.missed then
      s.inCtx ctx (fun c => { c with
        wtags := Tbl.put c.wtags (ea / 8) { wt with missed := true }
        misses := c.misses ++ [{ id := c.nextId, tag := wt.tag, need := need, loc := 0, where_ := word ea, seqno := 0 }]
        nextId := c.nextId + 1 })
    else s

/-! ## Holding sets (R225 to R227) -/

/-- Order of settling: ascending rank, then ascending OSEQ (R226). -/
def settleLe (a b : HeldUpdate) : Bool := a.u.rank < b.u.rank || (a.u.rank == b.u.rank && a.u.oseq ≤ b.u.oseq)

/-- Apply one update of a set. An update that returns the old value is a read of it, checked as one (R277). -/
def State.settleOne (s : State) (ctx : Nat) (h : HeldUpdate) : State :=
  let u := h.u
  let v : VRef := ⟨ctx, u.rank⟩
  let n := commonsBytes u.op u.mod
  let old := memRead (s.ctx ctx).commons u.ea n
  let s := if commonsLate u.op then s.checkRead ctx u.ea u.rank (s.vt v).inc (s.vt v).site? else s
  let (new, q, ev) := commonsApply u.op u.mod old u.b u.c
  let s := match new with
    | some x => s.commonsWrite ctx u.ea n x u.tag
    | none => s
  let s := s.event v ev
  if commonsLate u.op then s.engineResult v u.slot u.fser u.fid (landQ q) else s

/-- A refused update of a condemned line (R222). -/
def State.settleRefused (s : State) (ctx : Nat) (h : HeldUpdate) : State :=
  let u := h.u
  let v : VRef := ⟨ctx, u.rank⟩
  let s := s.raiseHeld v u.slot u.fser 0x10 (word u.ea) (word u.ix) 0 none
  if commonsLate u.op then s.engineNever v u.slot u.fser u.fid else s

/-- The offset, past the partition, of the pen line that holds place i of a bank's share: two entries a line, 128 places a
chunk (R289, R291). Where a pen chunk is mapped to another fold than the bank's, the share lies in that fold's bank of the
same number, which the rule leaves open (log 90). -/
def Ctx.penOffset (c : Ctx) (bank i : Nat) : Nat :=
  (c.desc.cpsize + i / 128) * 2 ^ 20 + i % 128 / 2 * 2 ^ 14 + bank % 256 * 64

/-- Where an update's pen line lies, if it is in the pen. -/
def Ctx.penOf (c : Ctx) (h : HeldUpdate) : Option Nat := h.pen.map (fun i => c.penOffset (c.bankOf (8 * h.word)) i)

/-- Settle one update: a pen line is read for it, and one that cannot be read refuses it as a condemned line does. -/
def State.settleNext (s : State) (ctx : Nat) (bad : Bool) (h : HeldUpdate) : State :=
  match (s.ctx ctx).penOf h with
  | some p =>
    let s := s.readCommons ctx p
    if bad || (s.ctx ctx).lineBad p then s.settleRefused ctx h else s.settleOne ctx h
  | none => if bad then s.settleRefused ctx h else s.settleOne ctx h

/-- Settle the holding set of a 64-bit word (R226). -/
def State.settleWord (s : State) (ctx w : Nat) : State :=
  let set := sortBy settleLe ((s.ctx ctx).holding.filter (fun h => h.word == w))
  if set.isEmpty then s
  else
    let bad := (s.ctx ctx).lineBad (8 * w)
    let s := (s.readCommons ctx (8 * w)).inCtx ctx (fun c => { c with holding := c.holding.filter (fun h => h.word != w) })
    set.foldl (fun s h => s.settleNext ctx bad h) s

/-- Settle every set that holds an update of some ranks; `arrivedAt`: only updates performed before their issuer's harr
of that hurdle count (R226). -/
def State.settleRanks (s : State) (ctx : Nat) (ranks : Nat → Bool) (arrivedAt : Option Nat) : State :=
  let mine (h : HeldUpdate) : Bool := ranks h.u.rank && (match arrivedAt with
    | some k => h.arrived.getLsbD k
    | none => true)
  let words := ((s.ctx ctx).holding.filter mine).map (fun h => h.word)
  words.foldl (fun s w => s.settleWord ctx w) s

/-- Width and format of an update, by which a set is uniform (R226). -/
def updateKind (u : BankOp) : Nat × Bool := (commonsBytes u.op u.mod, u.mod.toNat == 6)

/-- The 16 entries of a bank's buffer take free places of its share of the pen: each pen line that takes one is written
(R227, R294). A line whose version is spent refuses the write, and the context is torn down. -/
def State.spillPen (s : State) (ctx bank : Nat) : State :=
  let c := s.ctx ctx
  let used := c.holding.filterMap (fun h => if c.bankOf (8 * h.word) = bank then h.pen else none)
  let free := (List.range (128 * c.desc.pench)).filter (fun i => !used.contains i)
  let taken := free.take 16
  let lines := (taken.map (fun i => c.penOffset bank i)).eraseDups
  if lines.any c.lineSpent then s.startTeardown ctx 0x13
  else s.inCtx ctx (fun c => { c with
    holding := (c.holding.foldl (fun (p : List HeldUpdate × List Nat) h =>
      if c.bankOf (8 * h.word) = bank && h.pen.isNone then (p.1 ++ [{ h with pen := p.2.head? }], p.2.drop 1)
      else (p.1 ++ [h], p.2)) ([], taken)).1
    versions := lines.foldl (fun m p => ({ c with versions := m } : Ctx).versionsUp p) c.versions })

/-- An ordered update enters its holding set: the buffer of the bank spills when it holds 16 entries, and the update is
refused when the sorted pen would overfill (R227). -/
def State.enterHolding (s : State) (ctx : Nat) (u : BankOp) : State :=
  let v : VRef := ⟨ctx, u.rank⟩
  let w := u.ea / 8
  let differs := (s.ctx ctx).holding.any (fun h => h.word == w && updateKind h.u != updateKind u)
  let s := if differs then s.settleWord ctx w else s
  let c := s.ctx ctx
  let bank := c.bankOf u.ea
  let inBank (h : HeldUpdate) : Bool := c.bankOf (8 * h.word) == bank
  let buffered := c.holding.filter (fun h => inBank h && h.pen.isNone)
  let penned := c.holding.filter (fun h => inBank h && h.pen.isSome)
  let full := 16 ≤ buffered.length
  if full && 128 * c.desc.pench < penned.length + buffered.length then
    let sl := s.slot ⟨v, Fin.ofNat 8 u.slot⟩
    let fl := (sl.ops ++ sl.saved.map Prod.snd).find? (fun f => f.id == u.fid)
    (s.raiseHeld v u.slot u.fser 0x1B (word u.ea) (word u.ix) u.id fl).engineNever v u.slot u.fser u.fid
  else
    let s := (if full then s.spillPen ctx bank else s).inCtx ctx (fun c => { c with
      holding := c.holding ++ [{ word := w, u := u, pen := none, arrived := 0 }] })
    if commonsLate u.op then s.enginePerformed v u.slot u.fser u.fid
    else s.engineResult v u.slot u.fser u.fid (landQ 0)

/-! ## Performing at the bank (R223, R224, R228) -/

/-- A decrement of a dependence counter (R228). The message carries the tags of the decrements since the record's
latest c.st (R273). Its SINC is 0: no vtile sends it, and R228 gives SRANK and SSEQ alone (log 98). -/
def State.performDecq (s : State) (ctx : Nat) (u : BankOp) : State :=
  let v : VRef := ⟨ctx, u.rank⟩
  let ea := u.ea
  let words := [ea / 8, ea / 8 + 1, ea / 8 + 2, ea / 8 + 3]
  let s := words.foldl (fun s w => s.settleWord ctx w) s
  if (s.ctx ctx).lineBad ea then s.startTeardown ctx 0x12
  else
    let s := s.readCommons ctx ea
    let count := sext (memRead (s.ctx ctx).commons ea 8) 64
    let s :=
      if 0 < count then
        let s := s.commonsWrite ctx ea 8 (wrap (count - 1) 64) u.tag
        let s := s.inCtx ctx (fun c => { c with
          decTags := Tbl.put c.decTags (ea / 32) (Tbl.getD c.decTags (ea / 32) [] ++ u.tag.toList) })
        if count = 1 then
          let dest := word (memRead (s.ctx ctx).commons (ea + 8) 8)
          let pay := word (memRead (s.ctx ctx).commons (ea + 16) 8)
          s.post ctx { id := 0, drank := destRank dest, dport := destPort dest, dinc := destInc dest, srank := 0xFFFFFF,
                       sinc := 0, sseq := 0, kind := 4, reason := 0, payload := [word ea, pay], poison := 0,
                       tags := Tbl.getD (s.ctx ctx).decTags (ea / 32) [], ring := none, aw := none, toCtxPort := false, after := none }
        else s
      else
        s.postSup ctx u.rank (s.vt v).inc 0 0x24 [word ea]
    s.engineResult v u.slot u.fser u.fid (landQ 0)

/-- A load's value with the slot's buffered c.st bytes, those of an ended firing too (R130, R223). -/
def State.commonsFwd (s : State) (ctx : Nat) (u : BankOp) : (n a : Nat) → Nat
  | 0, _ => 0
  | n + 1, a =>
    let sl := s.slot ⟨⟨ctx, u.rank⟩, Fin.ofNat 8 u.slot⟩
    ((sl.forward true u.fid a).getD (memGet (s.ctx ctx).commons a)).toNat
      + 256 * s.commonsFwd ctx u n (a + 1)

/-- Do the slot's buffered c.st give every byte of a load (R223)? Such a load reads nothing at the bank. -/
def State.forwardsAll (s : State) (ctx : Nat) (u : BankOp) : (n a : Nat) → Bool
  | 0, _ => true
  | n + 1, a =>
    let sl := s.slot ⟨⟨ctx, u.rank⟩, Fin.ofNat 8 u.slot⟩
    (sl.forward true u.fid a).isSome && s.forwardsAll ctx u n (a + 1)

/-- Perform an operation at its bank: settle the word first where R226 says so, meet the line's errors, check the word's
tag for the reader, apply, and give the result. -/
def State.performBank (s : State) (ctx : Nat) (u : BankOp) : State :=
  let v : VRef := ⟨ctx, u.rank⟩
  if u.op == .cDecq then s.performDecq ctx u
  else if commonsOrdered u.op then s.enterHolding ctx u
  else
    let s := s.settleWord ctx (u.ea / 8)
    let n := commonsBytes u.op u.mod
    let reads := u.op != .cSt && !(u.op == .cLd && s.forwardsAll ctx u n u.ea)
    if reads && (s.ctx ctx).lineBad u.ea then
      ((s.readCommons ctx u.ea).raiseHeld v u.slot u.fser 0x10 (word u.ea) (word u.ix) 0 none).engineNever
        v u.slot u.fser u.fid
    else
      let s := if reads then s.readCommons ctx u.ea else s
      let s := if reads then s.checkRead ctx u.ea u.rank (s.vt v).inc (s.vt v).site? else s
      let old := if u.op == .cLd then s.commonsFwd ctx u n u.ea else memRead (s.ctx ctx).commons u.ea n
      let (new, q, ev) := commonsApply u.op u.mod old u.b u.c
      let s := match new with
        | some x => s.commonsWrite ctx u.ea n x u.tag
        | none => s
      if u.op == .cSt then s.inCtx ctx (fun c => { c with decTags := Tbl.del c.decTags (u.ea / 32) })
      else s.engineResult v u.slot u.fser u.fid { landQ q with ev := ev }

/-- An operation leaves the list of those on their way and is performed. -/
def State.takeBankOp (s : State) (ctx : Nat) (u : BankOp) : State :=
  (s.inCtx ctx (fun c => { c with bankOps := removeFirst (fun o => o.id == u.id) c.bankOps })).performBank ctx u

/-- Operations that a bank may perform now: nothing older of the slot is unperformed, in its frame either, and for every one but
c.ld no older store is buffered (R223, R125) and, for a bank of the field, no older message to the field undelivered
(R261). -/
def State.bankReady (s : State) (ctx : Nat) (u : BankOp) : Bool :=
  let r : SRef := ⟨⟨ctx, u.rank⟩, Fin.ofNat 8 u.slot⟩
  !s.waitsBefore r u.fid && !(s.slot r).behindRecord u.fid
    && (u.op == .cLd || !((s.slot r).storesBefore u.fid || (s.bankInField r.vt u.ea && s.fieldSends r u.fid)))

end Sys2Proof.Machine
end

