-- ==== Sys2Proof/Machine/Ops.lean ====
section
/-!
DEFINITION. The named operations that steps share: performing a slot's scratchpad operations and buffered stores
(R119 to R125, R160), ending a firing (R130), holds and fault messages (R63, R354), completing an instruction (R128),
and TAKING A TRAP (R343 to R349) with the reading back of its frame (R348).
-/
namespace Sys2Proof.Machine

/-! ## Scratchpad operations of a slot -/

/-- New value of an atomic (R122): none where nothing is written. -/
def atomicNew (op : LsuOp) (m : BitVec 3) (old : Nat) (b c : Word) : Option Nat :=
  let w := wWidth m
  let ob := opVal m b.toNat
  match op with
  | .aAdd => some (wrap (opVal m old + ob) w)
  | .aAnd => some (old &&& b.toNat % 2 ^ w)
  | .aOr => some (old ||| b.toNat % 2 ^ w)
  | .aXor => some (old ^^^ b.toNat % 2 ^ w)
  | .aMin => some (wrap (min (opVal m old) ob) w)
  | .aMax => some (wrap (max (opVal m old) ob) w)
  | .aCas => if opVal m old = opVal m c.toNat then some (b.toNat % 2 ^ w) else none
  | .aSwap => some (b.toNat % 2 ^ w)
  | _ => none

/-- May a scratchpad operation be performed now: nothing older of the slot waits, the older stores have left the buffer and the
older messages to the field are delivered where it drains (R125, R261), its units lie in the tile, and its words are full
where it waits for that? -/
def State.spReady (s : State) (r : SRef) (f : Flight) : Bool :=
  let sl := s.slot r
  !s.waitsBefore r f.id && !(trigDrains f.trig && (sl.storesBefore f.id || s.fieldSends r f.id))
    && !s.spOutRange r.vt f.ea f.bytes && !s.waitsForFill r f

/-- Give a flight its result. -/
def State.setResult (s : State) (r : SRef) (id : Nat) (l : Landing) : State :=
  s.modSlot r (fun sl => { sl with
    ops := modifyFirst (fun f => f.id == id) (fun f => { f with res := some l, performed := true }) sl.ops })

/-- Does a read meet an uncorrectable error: does a byte that no older buffered store gives lie in a poisoned word (R124,
R126; log 20)? -/
def State.readMeetsUe (s : State) (r : SRef) (before a n : Nat) : Bool :=
  s.spPoisoned r.vt a n
    && (List.range n).any (fun i => ((s.slot r).forward false before (a + i)).isNone && s.spPoisoned r.vt (a + i) 1)

/-- Perform a scratchpad operation: it reads, and writes, in one step (R119 to R122, R160). A poisoned word raises a
held MEM_UE and the operation never lands (R126); `%tval` is the address of the access, of a vector load's first byte too,
whichever of its words fails (log 98). fe.rd and fe.clr of a poisoned word do not meet its error: R283's table
does not list them, and the model lets them land (log 98). -/
def State.performSp (s : State) (r : SRef) (f : Flight) : State :=
  let v := r.vt
  let ea := f.ea
  let n := f.bytes
  let isFe := f.trig == .lsu .feRd || f.trig == .lsu .feClr
  if !isFe && s.readMeetsUe r f.id ea n then
    let s := s.logError 0 1 v.ctx (s.vt v).site ea
    (s.raiseHeld v r.slot.val (s.slot r).fser 0x10 (word ea) (word f.ix) 0 none).modSlot r (fun sl => sl.dropFlight f.id)
  else
    let s := s.spCorrect v ea n
    let old := s.spReadFwd r f.id ea n
    match f.trig with
    | .lsu .feRd => s.setResult r f.id (landQ (truth (s.feGet v ea)))
    | .lsu .feClr => (s.feSet v ea false).setResult r f.id (landQ (truth (s.feGet v ea)))
    | .lsu .ld | .lsu .ldWf => s.setResult r f.id (landQ (resVal f.mod (opVal f.mod old)))
    | .lsu .ldTake => (s.feSet v ea false).setResult r f.id (landQ (resVal f.mod (opVal f.mod old)))
    | .lsu op =>
      let s := match atomicNew op f.mod old (f.b.setWidth 64) (f.c.setWidth 64) with
        | some x => s.spWrite v ea n x
        | none => s
      s.setResult r f.id (landQ (resVal f.mod (opVal f.mod old)))
    | _ => s.setResult r f.id (landV (BitVec.ofNat 1024 old) evNone)

/-- Fire a scratchpad operation: performed at once when it may be (R125). -/
def State.fireSp (s : State) (r : SRef) (t : Trig) (m : BitVec 3) : State :=
  let f := (s.slot r).newFlight t m false none
  let s := s.modSlot r (fun sl => sl.launch f)
  if s.spReady r f then s.performSp r f else s

/-! ## Batches (R20, R220) -/

/-- UNFIN of `%batch` (R20, R220). -/
def Vtile.unfin (t : Vtile) : Nat := t.sealed.length

/-- OLDEST of `%batch` (R220). -/
def Vtile.oldest (t : Vtile) : Nat := t.sealed.headD t.bopen

/-- Does the open batch hold a copy? -/
def Vtile.batchNonempty (t : Vtile) : Bool := t.copies.any (fun c => c.batch == t.bopen)

/-- `%batch` (R20); batches are numbered without end here, and OPEN and OLDEST are their numbers modulo 2^16. A finished copy of the open batch still makes it not empty; `copies` keeps it until the seal. -/
def Vtile.batchWord (t : Vtile) : Word :=
  word (t.bopen % 2 ^ 16 + t.oldest % 2 ^ 16 * 2 ^ 16 + t.unfin * 2 ^ 32 + b2n t.batchNonempty * 2 ^ 38)

/-- Is it a trigger of the batch counters (R220)? -/
def trigIsBatch (t : Trig) : Bool := t == .cpe .seal || t == .cpe .cwait

/-- Does the open batch hold a copy that has not finished? -/
def Vtile.openUnfinished (t : Vtile) : Bool := t.copies.any (fun c => c.batch == t.bopen && !c.finished)

/-- Must a seal wait for a sealed batch to finish? -/
def Vtile.sealFull (t : Vtile) : Bool := t.openUnfinished && t.unfin == 63

/-- Seal the open batch; an empty one stays open. -/
def Vtile.sealBatch (t : Vtile) : Vtile :=
  if t.batchNonempty then
    { t with
      sealed := if t.openUnfinished then t.sealed ++ [t.bopen] else t.sealed
      copies := t.copies.filter (fun c => !(c.batch == t.bopen && c.finished))
      bopen := t.bopen + 1 }
  else t

/-- `.q` of a seal. -/
def Vtile.sealWord (t : Vtile) : Word := word (t.bopen % 2 ^ 16 + b2n t.batchNonempty * 2 ^ 16)

/-! ## Buffered stores (R124, R161) -/

/-- How much of an entry is performed at once: vst goes word by word, in ascending order (R161). -/
def SbEntry.chunk (e : SbEntry) : Nat :=
  match e.kind with
  | .vst => min e.n (8 - e.addr % 8)
  | _ => e.n

/-- Does what an entry writes lie in the slot's field (R261)? A seal writes no memory. -/
def State.entryInField (s : State) (r : SRef) (e : SbEntry) : Bool :=
  match e.kind with
  | .cSt => s.bankInField r.vt e.addr
  | .seal => false
  | _ => true

/-- Does an entry, of which n bytes are to be performed, wait for something but the slot's operations before it: its unit
(R284), a message to the field (R261), or room for another sealed batch (R220)? -/
def State.entryWaits (s : State) (r : SRef) (e : SbEntry) (n : Nat) : Bool :=
  (e.kind != .cSt && s.spOutRange r.vt e.addr n) || (s.entryInField r e && s.fieldSends r e.id)
    || (e.kind == .seal && (s.vt r.vt).sealFull)

/-- May the head entry be performed: nothing older of the slot waits, nor it for anything else? -/
def State.sbReady (s : State) (r : SRef) (e : SbEntry) : Bool := !s.waitsBefore r e.id && !s.entryWaits r e e.chunk

/-- Perform an entry wholly. An atomic that outlived its firing and meets a poisoned word raises MEM_UE for that firing, of
which a message tells (R126, R130, R341). -/
def State.performEntry (s : State) (r : SRef) (e : SbEntry) : State :=
  let v := r.vt
  match e.kind with
  | .st | .vst => s.spWrite v e.addr e.n e.data.toNat
  | .stFill => (s.spWrite v e.addr e.n e.data.toNat).feSet v e.addr true
  | .cSt =>
    s.performBank v.ctx { id := 0, rank := v.rank, slot := r.slot.val, fser := (s.slot r).fser, fid := e.id, op := .cSt,
                          mod := match e.n with | 8 => 0 | 4 => 1 | 2 => 2 | _ => 3, ea := e.addr,
                          b := e.data.setWidth 64, c := 0, oseq := 0, ix := 0, tag := e.tag }
  | .feClr => s.feSet v e.addr false
  | .seal => s.modVt v Vtile.sealBatch
  | .rmw op m c ix fser =>
    if s.spPoisoned v e.addr e.n then
      (s.logError 0 1 v.ctx (s.vt v).site e.addr).raiseHeld v r.slot.val fser 0x10 (word e.addr) (word ix) 0 none
    else
      match atomicNew op m (s.spRead v e.addr e.n) (e.data.setWidth 64) c with
      | some x => (s.spCorrect v e.addr e.n).spWrite v e.addr e.n x
      | none => s.spCorrect v e.addr e.n

/-- Perform the head of the buffer, or its first word. -/
def State.performHead (s : State) (r : SRef) : State :=
  match (s.slot r).sb with
  | [] => s
  | e :: _ =>
    let k := e.chunk
    if k < e.n then
      (s.spWrite r.vt e.addr k e.data.toNat).modSlot r (fun sl => { sl with
        sb := match sl.sb with
          | e :: t => { e with addr := e.addr + k, n := e.n - k, data := e.data >>> (8 * k) } :: t
          | [] => [] })
    else (s.performEntry r e).modSlot r (fun sl => { sl with sb := sl.sb.drop 1 })

/-- The slot's operations of a number: one on its way to a bank, or one of the scratchpad. -/
def State.bankOpOf (s : State) (r : SRef) (id : Nat) : Option BankOp :=
  (s.ctx r.vt.ctx).bankOps.find? (fun u => u.rank == r.vt.rank && u.slot == r.slot.val && u.fid == id)
def Slot.spOpOf (sl : Slot) (id : Nat) : Option Flight := sl.ops.find? (fun f => f.isPending && f.id == id)

/-- The numbers of the slot's operations that are to be performed, in trigger order. -/
def State.openIds (s : State) (r : SRef) : List Nat :=
  sortBy (fun a b => a ≤ b) (((s.slot r).ops.filter Flight.isPending).map Flight.id
    ++ ((s.ctx r.vt.ctx).bankOps.filter (fun u => u.rank == r.vt.rank && u.slot == r.slot.val)).map BankOp.fid)

/-- Perform, in trigger order, those older than a number that wait for nothing but each other (R125, R223). -/
def State.performBefore (s : State) (r : SRef) (id : Nat) : State :=
  ((s.openIds r).filter (fun i => decide (i < id))).foldl (fun s i =>
    match (s.slot r).spOpOf i, s.bankOpOf r i with
    | some f, _ => if s.spReady r f then s.performSp r f else s
    | none, some u => if s.bankReady r.vt.ctx u then s.takeBankOp r.vt.ctx u else s
    | none, none => s) s

/-- Empty the buffer in FIFO order (R343): before each store what the slot has triggered before it and can perform (R223,
R259). A store goes ahead of an operation that waits for an empty word, and of what stands behind that (log 24). The buffer
keeps what waits for a unit, a message or a batch. -/
def State.drainStores (s : State) (r : SRef) : State :=
  (s.slot r).sb.foldl (fun s e =>
    let s := s.performBefore r e.id
    if (s.slot r).sb.head? == some e && !s.entryWaits r e e.n then
      (s.performEntry r e).modSlot r (fun sl => { sl with sb := sl.sb.drop 1 })
    else s) s

/-- Perform everything that the slot has buffered, at the banks, or to do in the scratchpad. -/
def State.drainAll (s : State) (r : SRef) : State := (s.drainStores r).performBefore r (s.slot r).nextId

/-! ### Seals and waits -/

/-- May a seal or cwait be performed: have the slot's stores before it been (R94), and is there room for another sealed batch,
or does the condition hold? -/
def State.batchReady (s : State) (r : SRef) (f : Flight) : Bool :=
  !(s.slot r).storesBefore f.id
    && (if f.trig == .cpe .seal then !(s.vt r.vt).sealFull else decide ((s.vt r.vt).unfin ≤ f.ea))

/-- Perform a seal or cwait. -/
def State.performBatch (s : State) (r : SRef) (f : Flight) : State :=
  if f.trig == .cpe .seal then
    (s.modVt r.vt Vtile.sealBatch).setResult r f.id (landQ (s.vt r.vt).sealWord)
  else s.setResult r f.id (landQ (s.vt r.vt).batchWord)

/-! ## Ending a firing (R130) -/

/-- Operations that trap entry abandons and the end of a firing discards: MUL division, FPU div and sqrt, VEC long ones
(R130, R343). -/
def trigAbandoned : Trig → Bool
  | .mul .div | .mul .rem | .mul .divrem => true
  | .fpu .div _ | .fpu .sqrt _ => true
  | .vec .exp _ | .vec .log _ | .vec .rcp _ | .vec .rsqrt _ | .vec .tanh _ | .vec .sigm _ => true
  | _ => false

/-- Is it a VEC long operation (R346)? -/
def trigVecLong : Trig → Bool
  | .vec .exp _ | .vec .log _ | .vec .rcp _ | .vec .rsqrt _ | .vec .tanh _ | .vec .sigm _ => true
  | _ => false

/-- An accepted atomic, fe.clr or seal of an ended firing, of a number, goes behind the stores before it (R94, R130). -/
def Flight.asRmw (f : Flight) (fser : Nat) : Option SbEntry :=
  match f.trig with
  | .cpe .seal => some { id := f.id, kind := .seal, addr := 0, n := 0, data := 0, tag := none }
  | .lsu op => (match op with
    | .feClr => some { id := f.id, kind := .feClr, addr := f.ea, n := f.bytes, data := 0, tag := f.tag }
    | .aAdd | .aAnd | .aOr | .aXor | .aMin | .aMax | .aCas | .aSwap =>
      some { id := f.id, kind := .rmw op f.mod (f.c.setWidth 64) f.ix fser, addr := f.ea, n := f.bytes, data := f.b, tag := f.tag }
    | _ => none)
  | _ => none

/-- The firing of a slot ends: accepted work completes, the short operations' events count, the rest is dropped, and
the slot goes FREE with its registers discarded. -/
def State.endFiring (s : State) (r : SRef) : State :=
  let sl := s.slot r
  let done := sl.ops.filter (fun f => f.res.isSome && !trigAbandoned f.trig)
  let ev := evAll (done.filterMap (fun f => f.res.map Landing.ev))
  let rmws := (sl.ops.filter (fun f => !f.performed)).filterMap (fun f => f.asRmw sl.fser)
  let sb := sortBy (fun a b => a.id ≤ b.id) (sl.sb ++ rmws)
  (s.modSlot r (fun sl => { Slot.blank with sb := sb, nextId := sl.nextId, fser := sl.fser + 1, stopId := sl.stopId })).event r.vt ev

/-! ## Holds and fault messages (R63, R354) -/

/-- Is the vtile held? -/
def Vtile.isHeld (t : Vtile) : Bool := t.hold.fmt || t.hold.trap

/-- Hold a vtile after a format fault or a lost trap, and send the fault message. -/
def State.holdVtile (s : State) (v : VRef) (fmt : Bool) (reason : Nat) (payload : List Word) : State :=
  (s.modVt v (fun t => { t with hold := if fmt then { t.hold with fmt := true } else { t.hold with trap := true } })).postSup
    v.ctx v.rank (s.vt v).inc 0 reason payload

/-- A slot's state is lost: its firing ends, SLOT_UE is sent, and the vtile is held (R354, R359). -/
def State.slotLost (s : State) (r : SRef) : State :=
  let sl := s.slot r
  if sl.status == .free then s
  else (s.holdVtile r.vt false 0x29 [word r.slot.val, word sl.ix]).endFiring r

/-! ## The frame (R344, R345) -/

/-- `%tcause` (R342). -/
def tcauseWord (t : TrapReq) (held more : Bool) : Word :=
  word (t.code + b2n held * 2 ^ 8 + b2n t.pair2 * 2 ^ 9 + t.move * 2 ^ 10 + b2n more * 2 ^ 13)

/-- The 64-bit latches in frame order. -/
def frameLatches (l : LatchFile) : List Word :=
  [l.alu0.a, l.alu0.b, l.alu0.q, l.alu1.a, l.alu1.b, l.alu1.q, l.mul.a, l.mul.b, l.mul.q, l.mul.q2,
   l.agu.a, l.agu.b, l.agu.c, l.agu.q, l.lsu.a, l.lsu.b, l.lsu.c, l.lsu.q, l.lsu.q2,
   l.fpu.a, l.fpu.b, l.fpu.c, l.fpu.q, l.mxq.q, l.cpe.a, l.cpe.b, l.cpe.c, l.cpe.q,
   l.msg.a, l.msg.b, l.msg.c, l.msg.q, l.pat.a, l.pat.b, l.pat.q, l.sys.a, l.sys.q]

/-- What a record says of an operation (R345). -/
structure Rec where
  unit : Nat
  off : Nat
  mod : Nat
  valid : Bool
  landed : Bool
  reissue : Bool
  pend : Bool
  opb : Nat
  tseq : Nat
  a : Word
  b : Word
  c : Word
  deriving DecidableEq, Repr, Inhabited

def recBytes (r : Rec) : List Byte :=
  toBytes 8 (r.unit + r.off * 2 ^ 4 + r.mod * 2 ^ 12 + b2n r.valid * 2 ^ 15 + b2n r.landed * 2 ^ 16
    + b2n r.reissue * 2 ^ 17 + b2n r.pend * 2 ^ 18 + r.opb * 2 ^ 19 + (r.tseq % 2 ^ 32) * 2 ^ 32)
  ++ toBytes 8 r.a.toNat ++ toBytes 8 r.b.toNat ++ toBytes 8 r.c.toNat

/-- Read a record of 32 bytes. -/
def recOfBytes (bs : List Byte) : Rec :=
  let w := ofBytes (bs.take 8)
  { unit := bits w 3 0, off := bits w 11 4, mod := bits w 14 12, valid := bit w 15, landed := bit w 16,
    reissue := bit w 17, pend := bit w 18, opb := bits w 20 19, tseq := bits w 63 32,
    a := word (ofBytes ((bs.drop 8).take 8)), b := word (ofBytes ((bs.drop 16).take 8)),
    c := word (ofBytes ((bs.drop 24).take 8)) }

/-- The record of an operation that has not landed. -/
def recOf (f : Flight) (opb : Nat) : Rec :=
  let aband := trigAbandoned f.trig
  let engine := f.performed || trigIsCommons f.trig
  { unit := unitNum f.unit, off := trigOffset f.trig, mod := f.mod.toNat, valid := true, landed := false,
    reissue := aband, pend := !aband && !engine, opb := opb, tseq := f.tseq, a := f.a.setWidth 64,
    b := f.b.setWidth 64, c := f.c.setWidth 64 }

/-- Number the VEC operand blocks among the records. -/
def recsOf : (opb : Nat) → List Flight → List (Rec × Option VWord)
  | _, [] => []
  | k, f :: fs =>
    if trigVecLong f.trig then (recOf f (k % 4), some f.a) :: recsOf (k + 1) fs else (recOf f 0, none) :: recsOf k fs

/-- The 3,264 bytes of the frame (R344). -/
def frameBytes (sl : Slot) (tcause tval tinst : Word) (resume : Nat) (recs : List (Rec × Option VWord)) : List Byte :=
  let w64 (n : Nat) : List Byte := toBytes 8 n
  let rep (i : Nat) : List Byte := match sl.rep[i]? with
    | some e => w64 e.first ++ w64 e.last ++ w64 e.remaining
    | none => List.replicate 24 0
  let wide (l : List VWord) : List Byte := l.flatMap (fun v => toBytes 128 v.toNat)
  let blocks := recs.filterMap (fun r => r.2)
  let head := w64 tcause.toNat ++ w64 tval.toNat ++ w64 tinst.toNat ++ w64 resume ++ w64 sl.csel.toNat
    ++ w64 recs.length ++ List.replicate 16 0
  let reps := w64 sl.rep.length ++ rep 0 ++ rep 1 ++ rep 2 ++ rep 3 ++ List.replicate 24 0
  let regs := ((sl.x.toList.drop 1).take 15).flatMap (fun x => w64 x.toNat) ++ w64 (sl.p.toNat / 2 * 2)
    ++ sl.h.toList.flatMap (fun h => w64 h.toNat)
  let lats := (frameLatches sl.lat).flatMap (fun x => w64 x.toNat) ++ List.replicate 24 0
    ++ wide [sl.lat.vec.a, sl.lat.vec.b, sl.lat.vec.c, sl.lat.vec.q, sl.lat.vec.q2]
    ++ wide [sl.lat.rng.a, sl.lat.rng.b, sl.lat.rng.q]
  head ++ reps ++ regs ++ lats ++ recs.flatMap (fun r => recBytes r.1)
    ++ List.replicate (32 * (32 - recs.length)) 0 ++ wide blocks ++ List.replicate (128 * (4 - blocks.length)) 0

/-! ## Taking a trap (R343, R349) -/

/-- The trap vector: handler entry 31 when VALID and SUP (R343). -/
def Vtile.vector? (t : Vtile) : Option Nat :=
  let h := (vget t.hnds 31 0).toNat
  if bit h 54 && bit h 55 then some (5 * bits h 53 6 + bits h 2 0) else none

/-- Does another held trap of the slot's firing wait (R341, R342 MORE)? -/
def State.moreHeld (s : State) (r : SRef) : Bool :=
  (s.vt r.vt).held.any (fun h => h.slot == r.slot.val && h.fser == (s.slot r).fser)

/-- The firing ends with a fault message of `%tcause`, `%tval`, `%tinst` and the slot, and the vtile is held (R349). -/
def State.fatalTrap (s : State) (r : SRef) (reason : Nat) (tcause tval tinst : Word) : State :=
  (s.holdVtile r.vt false reason [tcause, tval, tinst, word r.slot.val]).endFiring r

/-- Is the operation one that keeps running at trap entry and lands into its record: of the commons or of MXQ (R345)? -/
def trigRunsOn (t : Trig) : Bool := trigIsCommons t || trigUnit t == .mxq

/-- Land a list of operations, oldest first: each short one, and one that runs on where no older operation of its unit is
still to land (R26, R345). -/
def State.landAll (s : State) (r : SRef) (fs : List Flight) : State :=
  fs.foldl (fun s f => match f.res with
    | some l =>
      if trigRunsOn f.trig && (s.slot r).ops.any (fun o => o.unit == f.unit && decide (o.tseq < f.tseq)) then s
      else s.landFlight r f l
    | none => s) s

/-- Perform, oldest first, the scratchpad operations and the seals that wait for nothing but the stores that trap entry has
drained. -/
def State.performDrained (s : State) (r : SRef) (fs : List Flight) : State :=
  let s := (fs.filter (fun f => !trigIsCommons f.trig)).foldl (fun s f => if s.spReady r f then s.performSp r f else s) s
  ((s.slot r).ops.filter (fun f => f.trig == .cpe .seal && !f.performed)).foldl (fun s f =>
    if s.batchReady r f then s.performBatch r f else s) s

/-- Where the frame of a slot lies (R343). -/
def Vtile.frameAddr (t : Vtile) (r : SRef) : Nat := t.tfbase + 0x1000 * r.slot.val

/-- Does the entry into a trap wait: for the units of the slot's frame and of its buffered stores (R284), or for what else keeps
those stores in the buffer? -/
def State.trapWaits (s : State) (r : SRef) : Bool :=
  s.spOutRange r.vt ((s.vt r.vt).frameAddr r) 0xCC0 || (s.slot r).sb.any (fun e => s.entryWaits r e e.n)

/-- TAKING A TRAP: slot r takes trap t, to resume at `resume` (R344). The stores drain, short operations land, divisions
and other long operations are abandoned to their records, waiting ones are recorded, the frame is written, and control
goes to the vector at supervisor level; or the trap cannot be handled (R349). A format trap also holds the vtile and
sends its message (R63). `replay`: an update that trap return replays (R227). A mad chained on an abandoned division of its
unit (R107, R113) is a short operation and lands here with the quotient that the division had computed; the spec gives the
two rules no order, and this is the model's choice (log 98). -/
def State.takeTrap (s : State) (r : SRef) (t : TrapReq) (resume : Nat) (isHeld : Bool) (replay : Option Flight) : State :=
  let v := r.vt
  let more := s.moreHeld r
  let tc := tcauseWord t isHeld more
  let s := if t.code = 0x08 then s.holdVtile v true 0x22 [tc, t.tval, t.tinst, word r.slot.val, 0] else s
  let vt := s.vt v
  if (s.slot r).status == .trapped then s.fatalTrap r 0x21 tc t.tval t.tinst
  else if spSize < vt.tfbase + 0x8000 || vt.overlapsPorts vt.tfbase 0x8000 then s.fatalTrap r 0x20 tc t.tval t.tinst
  else
    let s := s.drainStores r
    let s := s.performDrained r (s.slot r).unperformed
    let s := s.landAll r ((s.slot r).ops.filter (fun f => f.res.isSome && !trigAbandoned f.trig))
    let sl := s.slot r
    let kept := (sl.ops ++ replay.toList.map (fun (f : Flight) => { f with performed := false, res := none })).take 32
    let recs := (recsOf 0 kept).map (fun p =>
      if replay.any (fun f => p.1.tseq == f.tseq && p.1.unit == unitNum f.unit) then ({ p.1 with reissue := true }, p.2)
      else p)
    let frame := vt.frameAddr r
    let s := s.spWriteBytes v frame (frameBytes sl tc t.tval t.tinst resume recs)
    match vt.vector? with
    | none => s.fatalTrap r 0x20 tc t.tval t.tinst
    | some ix =>
      s.modSlot r (fun sl => { sl with
        status := .trapped, sup := true, supBefore := sl.sup, ix := ix, entry := .fallthrough, alone := true,
        pair2 := false, park := none, tcause := tc, tval := t.tval, tinst := t.tinst, tframe := word frame, rep := [],
        ops := [], saved := (List.range kept.length).zip kept,
        savedSeq := some (sl.tseq, sl.landedQ, sl.landedQ2) })

/-! ## Completing an instruction (R128, R129) -/

/-- Where control goes when an instruction at i completes without transferring: the repeat stack, innermost last. -/
def repNext (i : Nat) : (fuel : Nat) → List RepEntry → Nat × List RepEntry × Bool
  | 0, st => (i + 1, st, false)
  | k + 1, st =>
    match st.getLast? with
    | some top =>
      if top.last = i then
        if 1 < top.remaining then (top.first, st.dropLast ++ [{ top with remaining := top.remaining - 1 }], true)
        else repNext i k st.dropLast
      else (i + 1, st, false)
    | none => (i + 1, st, false)

/-- The slot completes the instruction it stands at and goes on. -/
def Slot.advance (sl : Slot) : Slot :=
  let (ix, rep, looped) := repNext sl.ix 4 sl.rep
  { sl with ix := ix, rep := rep, alone := looped, entry := .fallthrough, pair2 := false }

/-- A taken transfer (R79, R127). -/
def Slot.transfer (sl : Slot) (target : Nat) : Slot :=
  { sl with ix := target, entry := .transfer sl.ix, alone := true, pair2 := false }

/-- Largest valid instruction index plus one (R76). -/
def ixLimit : Nat := 5 * 2 ^ 48

/-! ## Requests for traps by the instruction that a slot stands at -/

/-- A trap of class D or A at the current instruction. -/
def Slot.trapReq (sl : Slot) (code : Nat) (tval : Word) (move : Nat) : TrapReq :=
  { code := code, tval := tval, tinst := word sl.ix, move := move, pair2 := sl.pair2 }

/-- Take a trap that leaves no effect of the current instruction (classes D and A). Where the entry has to wait, the slot stalls
at the instruction (R284). -/
def State.trapHere (s : State) (r : SRef) (code : Nat) (tval : Word) (move : Nat) : State :=
  let sl := s.slot r
  if s.trapWaits r then s else s.takeTrap r (sl.trapReq code tval move) sl.ix false none

/-! ## Parking -/

/-- Park the slot on a condition; its IX stays (R45, R192). -/
def State.parkOn (s : State) (r : SRef) (c : ParkCond) : State :=
  s.modSlot r (fun sl => { sl with status := .parked, park := some c })

/-- Does the condition of a park hold (R131, R132, R120, R220)? -/
def State.condHolds (s : State) (r : SRef) (c : ParkCond) : Bool :=
  let t := s.vt r.vt
  match c with
  | .fe ea => s.feGet r.vt ea
  | .aw addr g => s.spRead r.vt (addr + 8) 4 != g
  | .hurdle h => !t.pend.getLsbD h
  | .batch n => t.unfin ≤ n
  | .pending u => !((s.slot r).ops.any (fun f => f.unit == u && !f.performed))
  | .hold => !t.isHeld

/-- Does a park's read of the scratchpad wait for the slot's reads before it in the field (R261), or is it held back (R123,
R266)? -/
def State.parkReadWaits (s : State) (r : SRef) (c : ParkCond) : Bool :=
  match c with
  | .fe _ | .aw _ _ => s.keptBefore r (s.slot r).nextId || s.heldBack r false
  | _ => false

/-- Does the condition hold, and may it be read? -/
def State.parkHolds (s : State) (r : SRef) (c : ParkCond) : Bool := s.condHolds r c && !s.parkReadWaits r c

end Sys2Proof.Machine
end

