-- ==== Sys2Proof/Machine/Operands.lean ====
section
/-!
DEFINITION. Every operand form: guards (R86, R87), sources (R90) with the stalls and traps of reading them, destinations
and modifiers (R14, R88), and what a trigger is: when it stalls, what its acceptance checks are, and what it does when it
fires (R94).
-/
namespace Sys2Proof.Machine

/-! ## Registers -/

/-- x0 reads zero (R13). -/
def Slot.xGet (sl : Slot) (i : Fin 32) : Word := if i.val = 0 then 0 else sl.x.get i

/-- Writes of x0 are discarded (R13). -/
def Slot.xSet (sl : Slot) (i : Fin 32) (val : Word) : Slot :=
  if i.val = 0 then sl else { sl with x := sl.x.set i.val val i.isLt }

/-- p0 reads true (R13). -/
def Slot.pGet (sl : Slot) (i : Fin 8) : Bool := i.val == 0 || sl.p.getLsbD i.val

/-- Writes of p0 are discarded (R13). -/
def Slot.pSet (sl : Slot) (i : Fin 8) (b : Bool) : Slot :=
  if i.val = 0 then sl
  else { sl with p := if b then sl.p ||| (1#8 <<< i.val) else sl.p &&& ~~~(1#8 <<< i.val) }

/-- A guard is true when p[p] XOR inv (R86). -/
def Slot.guard (sl : Slot) (g : Guard) : Bool := sl.pGet g.p != g.inv

/-! ## Sources (R90) -/

/-- What reading a source gives. -/
inductive ReadRes where
  | val (v : VWord)
  | stall
  | park (u : FUnit)
  | trap (code : Nat) (tval : Word)
  deriving DecidableEq, Repr, Inhabited

def ofWord (w : Word) : ReadRes := .val (w.setWidth 1024)

/-- Units whose operations a read of `%sticky` or `%satcount` waits for (R75). -/
def unitCountsFlags : FUnit → Bool
  | .fpu | .vec | .mul | .alu0 | .alu1 | .lsu | .rng => true
  | _ => false

/-- Does the read of R75 stall? In a handler it waits also for the operations that run on since trap entry, but not for the
abandoned and the pending ones, which cannot land before `tret` (log 92). -/
def Slot.flagsPending (sl : Slot) : Bool :=
  sl.ops.any (fun f => unitCountsFlags f.unit)
    || sl.saved.any (fun p => unitCountsFlags p.2.unit && trigIsCommons p.2.trig)

/-- Has the running matrix command filled words of which a wait may have told a slot, without having retired? Its events come at
retirement, and a slot that has met such a word is to read them (R191). -/
def Vtile.eventsToCome (t : Vtile) : Bool := t.mx.run.draining && decide (0 < t.mx.run.pos)

/-- Does a read of `%sticky` or `%satcount` stall (R75, R191)? -/
def State.flagsWait (s : State) (r : SRef) : Bool := (s.slot r).flagsPending || (s.vt r.vt).eventsToCome

/-- Ring handle fields (R39). -/
def handleRing (h : Word) : Nat := bits h.toNat 2 0
def handleValid (h : Word) : Bool := bit h.toNat 3
def handleCur (h : Word) : Nat := bits h.toNat 35 4

/-- The ring of a handle when the handle is valid and the ring exists (R40). -/
def Vtile.ringOf (t : Vtile) (h : Word) : Option Ring :=
  let g := vget t.rings (handleRing h) Ring.blank
  if handleValid h && g.logsz != 0 then some g else none

/-- A view of a handle (R39, R40). -/
def readView (t : Vtile) (h : Word) (f : Ring → Nat) : ReadRes :=
  match t.ringOf h with
  | some g => ofWord (word (f g))
  | none => .trap 0x0C h

/-- A special register (R20). -/
def State.readSpec (s : State) (r : SRef) (g : SpecReg) : Word :=
  let t := s.vt r.vt
  let sl := s.slot r
  let d := (s.ctx r.vt.ctx).desc
  match g with
  | .sticky => t.sticky.setWidth 64
  | .satcount => word t.satcount
  | .rank => word (r.vt.rank % 2 ^ 24 + t.inc * 2 ^ 32)
  | .slot => word (r.slot.val + b2n sl.sup * 2 ^ 3 + b2n t.bank * 2 ^ 4)
  | .firing => sl.firing
  | .batch => t.batchWord
  | .cycle => word s.regs.cycle
  | .ctx => word (r.vt.ctx % 2 ^ 8 + b2n (bit d.flags 0) * 2 ^ 8)
  | .vgrid => word (d.vx + d.vy * 2 ^ 24)

/-- Is an unlanded operation of the unit a pending wait record (R120, R220)? -/
def Slot.pendingWait (sl : Slot) (u : FUnit) : Bool :=
  (sl.unlanded u).any (fun f => !f.performed && (trigWaitsFull f.trig || f.trig == .cpe .cwait))

/-- Read a source (R94): a result latch is bound to the latest trigger of its unit (R25). -/
def State.readSrc (s : State) (r : SRef) (src : Src) : ReadRes :=
  let sl := s.slot r
  match src with
  | .x i => ofWord (sl.xGet i)
  | .v i => .val (sl.v.get i)
  | .p i => ofWord (truth (sl.pGet i))
  | .h i => ofWord (sl.h.get i)
  | .hAddr i => readView (s.vt r.vt) (sl.h.get i) (fun g => g.base + handleCur (sl.h.get i) % 2 ^ g.logsz)
  | .hAvail i => readView (s.vt r.vt) (sl.h.get i) (fun g => wrap ((g.fill : Int) - handleCur (sl.h.get i)) 32)
  | .hCur i => readView (s.vt r.vt) (sl.h.get i) (fun _ => handleCur (sl.h.get i))
  | .spec g =>
    if (g == .sticky || g == .satcount) && s.flagsWait r then .stall else ofWord (s.readSpec r g)
  | .trap g => ofWord (match g with
    | .tcause => sl.tcause | .tval => sl.tval | .tinst => sl.tinst | .tframe => sl.tframe)
  | .latch u second =>
    if sl.landed u then
      let l := sl.lat.get u
      .val (if second then l.q2 else l.q)
    else if sl.pendingWait u then .park u
    else .stall
  | .imm i => ofWord (word (wrap (sext i.toNat 12) 64))

/-! ## Destinations (R91) -/

/-- R-class modifiers (R88). -/
def modifyR (m : BitVec 3) (v : VWord) : Word :=
  let x := v.toNat
  match m.toNat with
  | 1 => word (wrap (sext x 8) 64)
  | 2 => word (wrap (sext x 16) 64)
  | 3 => word (wrap (sext x 32) 64)
  | 4 => word (x % 2 ^ 8)
  | 5 => word (x % 2 ^ 16)
  | 6 => word (x % 2 ^ 32)
  | _ => word x

/-- k copies of the low b bits of a number. -/
def repeatBits (x b : Nat) : (k : Nat) → Nat
  | 0 => 0
  | k + 1 => x % 2 ^ b + 2 ^ b * repeatBits x b k

/-- V-class modifiers (R88). -/
def modifyV (m : BitVec 3) (v : VWord) : VWord :=
  match m.toNat with
  | 1 => BitVec.ofNat 1024 (repeatBits v.toNat 32 32)
  | 2 => BitVec.ofNat 1024 (repeatBits v.toNat 16 64)
  | _ => v

/-- A handle keeps its fields; the reserved bits read as zero (R7, R39). -/
def handleWord (v : VWord) : Word := word (v.toNat % 2 ^ 36)

/-- Write a value to a destination; a trigger's value goes to `.a` of its unit (R94). -/
def Slot.write (sl : Slot) (d : Dst) (m : BitVec 3) (v : VWord) : Slot :=
  match d with
  | .x i => sl.xSet i (modifyR m v)
  | .v i => { sl with v := sl.v.set i.val (modifyV m v) i.isLt }
  | .p i => sl.pSet i (v != 0)
  | .h i => { sl with h := sl.h.set i.val (handleWord v) i.isLt }
  | .latch u l => { sl with lat := sl.lat.setOperand u l.val v }
  | .trig t => if unitOperands (trigUnit t) = 0 then sl else { sl with lat := sl.lat.setOperand (trigUnit t) 0 v }

/-! ## Triggers (R94) -/

/-- What a trigger means: its own stalls, its acceptance checks (the code and `%tval` of the trap), and its effect when
it fires. The general stalls are in `trigStalls`. -/
structure TrigMeaning where
  trig : Trig
  stall : State → SRef → Bool
  check : State → SRef → Option (Nat × Word)
  fire : State → SRef → State

/-- Does the trigger write memory or send, for rel and fence (R123)? -/
def trigWrites : Trig → Bool
  | .lsu op => (match op with
    | .ld | .ldWf | .feRd | .fence | .rel | .acq => false
    | _ => true)
  | .vec .vst _ => true
  | .cpe .cwait => false
  | .cpe .seal => false
  | .cpe _ => true
  | .msg _ => true
  | .mxq .cmd => true
  | _ => false

/-- Is the trigger an access in the sense of R123? -/
def trigIsAccess (t : Trig) : Bool := trigIsMemory t || trigIsStore t || trigWrites t

/-- Is it a CPE command, an MSG send or MXQ.cmd, which R261 keeps after every earlier event of the field? -/
def trigIsCommand : Trig → Bool
  | .cpe .seal | .cpe .cwait => false
  | .cpe _ | .msg _ | .mxq .cmd => true
  | _ => false

/-- Does what a command reaches lie in the slot's field (R261): a message's or a copy's destination tile, from the latches
as they stand? Rim memory lies in no field. -/
def State.commandInField (s : State) (r : SRef) (t : Trig) : Bool :=
  let sl := s.slot r
  match t with
  | .cpe .store | .cpe .scatter => false
  | .cpe .send | .cpe .rsend =>
    s.rankInField r.vt (bits (s.spReadFwd r sl.nextId sl.lat.cpe.a.toNat 8) 47 24)
  | .msg .svc => s.rankInField r.vt (destRank (s.ctx r.vt.ctx).desc.supdest)
  | .msg _ => s.rankInField r.vt (destRank sl.lat.msg.b)
  | _ => true

/-- Must the slot's store buffer hold no store of an earlier instruction (R125, R170, R199, R223)? -/
def trigWantsDrain : Trig → Bool
  | .cpe _ | .msg _ | .mxq .cmd => true
  | t => trigDrains t

/-- Runs of scratchpad that a trigger reaches by itself, from the latches as they stand: an access, a payload, a copy's
descriptor and a scatter's index list. -/
def State.trigReach (s : State) (r : SRef) (t : Trig) (m : BitVec 3) : List (Nat × Nat) :=
  let l := (s.slot r).lat.get (trigUnit t)
  let a := l.a.toNat % 2 ^ 64
  match t with
  | .lsu op => if trigIsCommons t then [] else (match op with
    | .fence | .rel | .acq | .cSt => []
    | .feRd | .feClr => [(a, 1)]
    | _ => [(a, wWidth m / 8)])
  | .vec .vld _ | .vec .vst _ | .vec .vldWf _ => [(a, vecNB l.c)]
  | .msg .sendv | .msg .sendr => [(a, vecNB l.c)]
  | .cpe .seal | .cpe .cwait => []
  | .cpe .scatter =>
    let d := s.spReadFwd r (s.slot r).nextId a 32
    [(a, 32), (bits d 85 64, 4 * bits d 239 224)]
  | .cpe _ => [(a, 32)]
  | _ => []

/-- The stalls that belong to every trigger: at most 32 operations that have not landed, four of them VEC long ones
(R346); fences (R123); a full store buffer (R124); a store buffer that is to drain; a scratchpad unit that is not
restored (R284); what R261 keeps before a command of the field, an earlier message among it for one of CPE or MXQ (R267); a seal or cwait that a CPE trigger waits behind
(R220). -/
def State.trigStalls (s : State) (r : SRef) (t : Trig) (m : BitVec 3) : Bool :=
  let sl := s.slot r
  (decide (32 ≤ sl.ops.length))
    || (trigVecLong t && decide (4 ≤ (sl.ops.filter (fun f => trigVecLong f.trig)).length))
    || (trigIsAccess t && s.heldBack r (trigWrites t))
    || (trigIsCommand t && (s.keptBefore r sl.nextId || (trigUnit t != .msg && s.fieldSends r sl.nextId))
      && s.commandInField r t)
    || (trigIsStore t && decide (8 ≤ sl.sb.length))
    || (trigWantsDrain t && !sl.sb.isEmpty)
    || (s.trigReach r t m).any (fun x => s.spOutRange r.vt x.1 x.2)
    || (trigUnit t == .cpe && sl.ops.any (fun f => trigIsBatch f.trig && !f.performed))

/-- Run one trigger of the current slot by itself: stall, trap or fire. -/
def runTrigger (k : TrigMeaning) (m : BitVec 3) (s : State) : Host.Outcome State Fault Refusal :=
  let r := s.cur
  if s.trigStalls r k.trig m || k.stall s r then .next s
  else match k.check s r with
    | some (code, tval) => .next (s.trapHere r code tval 0)
    | none => .next (k.fire s r)

/-- No stall of its own; no check. -/
def noStall (_ : State) (_ : SRef) : Bool := false
def noCheck (_ : State) (_ : SRef) : Option (Nat × Word) := none

/-- A trigger of a unit that computes its result at once from its latches and its previous result (R24, R107). -/
def computeMeaning (t : Trig) (m : BitVec 3) (check : Latches 1024 → Option (Nat × Word))
    (f : (a b c : VWord) → (qprev : Word) → Landing) : TrigMeaning :=
  { trig := t
    stall := noStall
    check := fun s r => check ((s.slot r).lat.get (trigUnit t))
    fire := fun s r => s.modSlot r (fun sl =>
      let l := sl.lat.get (trigUnit t)
      sl.fire t m (f l.a l.b l.c (sl.qPrev (trigUnit t)))) }

/-- The low 64 bits of a latch, as a number. -/
def lo64 (v : VWord) : Nat := v.toNat % 2 ^ 64

end Sys2Proof.Machine
end

