-- ==== Sys2Proof/Machine/Agu.lean ====
section
/-!
DEFINITION. AGU (R115 to R117): address arithmetic on unsigned 64-bit values, bounds checks, and the ring operations.
-/
namespace Sys2Proof.Machine

/-- An address operation without side effects. -/
def aguMeaning (op : AguOp) (m : BitVec 3) (check : (a b c : Nat) → Bool) (f : (a b c : Nat) → Nat) : TrigMeaning :=
  computeMeaning (.agu op) m
    (fun l => if check (lo64 l.a) (lo64 l.b) (lo64 l.c) then none else some (0x0B, l.a.setWidth 64))
    (fun a b c _ => landQ (word (f (lo64 a) (lo64 b) (lo64 c))))

/-- R115 add. -/
def aguAddMeaning (m : BitVec 3) : TrigMeaning := aguMeaning .add m (fun _ _ _ => true) (fun a b _ => a + b)
def execAguAdd (m : BitVec 3) (s : State) : Host.Outcome State Fault Refusal := runTrigger (aguAddMeaning m) m s

/-- R115 idx. -/
def aguIdxMeaning (m : BitVec 3) : TrigMeaning :=
  aguMeaning .idx m (fun _ _ _ => true) (fun a b c => b + a * 2 ^ bits c 2 0)
def execAguIdx (m : BitVec 3) (s : State) : Host.Outcome State Fault Refusal := runTrigger (aguIdxMeaning m) m s

/-- R115 idx2. -/
def aguIdx2Meaning (m : BitVec 3) : TrigMeaning :=
  aguMeaning .idx2 m (fun _ _ _ => true) (fun a b c => b + bits a 63 32 * bits c 31 0 + bits a 31 0 * 2 ^ bits c 34 32)
def execAguIdx2 (m : BitVec 3) (s : State) : Host.Outcome State Fault Refusal := runTrigger (aguIdx2Meaning m) m s

/-- R115 chk: `b <= a < c`, else AGU_BOUNDS. -/
def aguChkMeaning (m : BitVec 3) : TrigMeaning :=
  aguMeaning .chk m (fun a b c => decide (b ≤ a) && decide (a < c)) (fun a _ _ => a)
def execAguChk (m : BitVec 3) (s : State) : Host.Outcome State Fault Refusal := runTrigger (aguChkMeaning m) m s

/-- R115 wrap: a zero modulus is AGU_BOUNDS. -/
def aguWrapMeaning (m : BitVec 3) : TrigMeaning :=
  aguMeaning .wrap m (fun _ _ c => c != 0) (fun a b c => b + (((a : Int) - b) % (c : Int)).toNat)
def execAguWrap (m : BitVec 3) (s : State) : Host.Outcome State Fault Refusal := runTrigger (aguWrapMeaning m) m s

/-! ## Ring operations (R116, R117) -/

/-- The handle in `.a` of the AGU. -/
def aguHandle (s : State) (r : SRef) : Word := (s.slot r).lat.agu.a

/-- A handle with another cursor. -/
def handleWithCur (h : Word) (cur : Nat) : Word := word (setBits h.toNat 35 4 cur)

/-- hmk: a handle on an existing ring. -/
def aguHmkMeaning (m : BitVec 3) : TrigMeaning :=
  { trig := .agu .hmk
    stall := noStall
    check := fun s r =>
      let h := aguHandle s r
      if (vget (s.vt r.vt).rings (handleRing h) Ring.blank).logsz = 0 then some (0x0C, h) else none
    fire := fun s r => s.modSlot r (fun sl =>
      sl.fire (.agu .hmk) m (landQ (word (handleRing sl.lat.agu.a + 2 ^ 3 + bits sl.lat.agu.b.toNat 31 0 * 2 ^ 4)))) }
def execAguHmk (m : BitVec 3) (s : State) : Host.Outcome State Fault Refusal := runTrigger (aguHmkMeaning m) m s

/-- hadv: the cursor moves on by `.b`, never past FILL. -/
def aguHadvMeaning (m : BitVec 3) : TrigMeaning :=
  { trig := .agu .hadv
    stall := noStall
    check := fun s r =>
      let h := aguHandle s r
      match (s.vt r.vt).ringOf h with
      | none => some (0x0C, h)
      | some g =>
        let b := (s.slot r).lat.agu.b
        if b.toNat ≤ wrap ((g.fill : Int) - handleCur h) 32 then none else some (0x0D, b)
    fire := fun s r => s.modSlot r (fun sl =>
      let h := sl.lat.agu.a
      sl.fire (.agu .hadv) m (landQ (handleWithCur h ((handleCur h + sl.lat.agu.b.toNat) % 2 ^ 32)))) }
def execAguHadv (m : BitVec 3) (s : State) : Host.Outcome State Fault Refusal := runTrigger (aguHadvMeaning m) m s

/-- DRAIN after a release at a cursor (R117): forward to the cursor, never past FILL. -/
def Ring.release (g : Ring) (cur : Nat) : Ring :=
  if wrap ((cur : Int) - g.drain) 32 ≤ wrap ((g.fill : Int) - g.drain) 32 then { g with drain := cur } else g

/-- hrel: indivisible with the two reads. -/
def aguHrelMeaning (m : BitVec 3) : TrigMeaning :=
  { trig := .agu .hrel
    stall := noStall
    check := fun s r =>
      let h := aguHandle s r
      match (s.vt r.vt).ringOf h with
      | none => some (0x0C, h)
      | some _ => none
    fire := fun s r =>
      let h := aguHandle s r
      let s := s.modVt r.vt (fun t => { t with rings := vmod t.rings (handleRing h) (fun g => g.release (handleCur h)) })
      let d := (vget (s.vt r.vt).rings (handleRing h) Ring.blank).drain
      s.modSlot r (fun sl => sl.fire (.agu .hrel) m (landQ (word d))) }
def execAguHrel (m : BitVec 3) (s : State) : Host.Outcome State Fault Refusal := runTrigger (aguHrelMeaning m) m s

end Sys2Proof.Machine
end

