-- ==== Sys2Proof/Machine/Alu.lean ====
section
/-!
DEFINITION. ALU0 and ALU1 (R110 to R112): each trigger's result from `.a`, `.b` and the previous result, as R107 reads
them. `n` is false for ALU0 and true for ALU1.
-/
namespace Sys2Proof.Machine

/-- An ALU trigger: no acceptance check, a result in `.q`. -/
def aluMeaning (n : Bool) (op : AluOp) (m : BitVec 3) (f : (a b : Nat) → (qprev : Word) → Landing) : TrigMeaning :=
  computeMeaning (.alu n op) m (fun _ => none) (fun a b _ q => f (lo64 a) (lo64 b) q)

/-- Shift amount `sh` of R110. -/
def aluShift (m : BitVec 3) (b : Nat) : Nat := bits b 5 0 % wWidth m

/-- x rotated left by k within w bits. -/
def rotLeft (w x k : Nat) : Nat := (x <<< k ||| x >>> (w - k)) % 2 ^ w

/-- Leading zeros of x within w bits. -/
def leadingZeros (w x : Nat) : Nat := if x = 0 then w else w - 1 - x.log2

/-- Trailing zeros of x within w bits. -/
def trailingZeros : (w x : Nat) → Nat
  | 0, _ => 0
  | w + 1, x => if x % 2 = 1 then 0 else 1 + trailingZeros w (x / 2)

/-- Bytes reversed. -/
def reverseBytes (n x : Nat) : Nat := ofBytes (toBytes n x).reverse

/-- bfx of R111. -/
def aluBfxVal (m : BitVec 3) (a b : Nat) : Word :=
  let pos := bits b 5 0
  let len := bits b 12 6
  let n := min len (64 - pos)
  let f := if n = 0 then 0 else (a >>> pos) % 2 ^ n
  if wSigned m && 0 < n then word (wrap (sext f n) 64) else word f

/-- bfi of R111. -/
def aluBfiVal (a b : Nat) (q : Word) : Word :=
  let pos := bits b 5 0
  let len := bits b 12 6
  let n := min len (64 - pos)
  if n = 0 then q else word (setBits q.toNat (pos + n - 1) pos a)

/-- R110 add. -/
def aluAddMeaning (n : Bool) (m : BitVec 3) : TrigMeaning :=
  aluMeaning n .add m (fun a b _ => landQ (resVal m (opVal m a + opVal m b)))

def execAluAdd (n : Bool) (m : BitVec 3) (s : State) : Host.Outcome State Fault Refusal :=
  runTrigger (aluAddMeaning n m) m s

/-- R110 sub. -/
def aluSubMeaning (n : Bool) (m : BitVec 3) : TrigMeaning :=
  aluMeaning n .sub m (fun a b _ => landQ (resVal m (opVal m a - opVal m b)))

def execAluSub (n : Bool) (m : BitVec 3) (s : State) : Host.Outcome State Fault Refusal :=
  runTrigger (aluSubMeaning n m) m s

/-- R110 and. -/
def aluAndMeaning (n : Bool) (m : BitVec 3) : TrigMeaning :=
  aluMeaning n .and m (fun a b _ => landQ (resBits m (a &&& b)))

def execAluAnd (n : Bool) (m : BitVec 3) (s : State) : Host.Outcome State Fault Refusal :=
  runTrigger (aluAndMeaning n m) m s

/-- R110 or. -/
def aluOrMeaning (n : Bool) (m : BitVec 3) : TrigMeaning :=
  aluMeaning n .or m (fun a b _ => landQ (resBits m (a ||| b)))

def execAluOr (n : Bool) (m : BitVec 3) (s : State) : Host.Outcome State Fault Refusal :=
  runTrigger (aluOrMeaning n m) m s

/-- R110 xor. -/
def aluXorMeaning (n : Bool) (m : BitVec 3) : TrigMeaning :=
  aluMeaning n .xor m (fun a b _ => landQ (resBits m (a ^^^ b)))

def execAluXor (n : Bool) (m : BitVec 3) (s : State) : Host.Outcome State Fault Refusal :=
  runTrigger (aluXorMeaning n m) m s

/-- R110 andn. -/
def aluAndnMeaning (n : Bool) (m : BitVec 3) : TrigMeaning :=
  aluMeaning n .andn m (fun a b _ => landQ (resBits m (a &&& (2 ^ 64 - 1 - b))))

def execAluAndn (n : Bool) (m : BitVec 3) (s : State) : Host.Outcome State Fault Refusal :=
  runTrigger (aluAndnMeaning n m) m s

/-- R110 shl. -/
def aluShlMeaning (n : Bool) (m : BitVec 3) : TrigMeaning :=
  aluMeaning n .shl m (fun a b _ => landQ (resBits m (a % 2 ^ wWidth m * 2 ^ aluShift m b)))

def execAluShl (n : Bool) (m : BitVec 3) (s : State) : Host.Outcome State Fault Refusal :=
  runTrigger (aluShlMeaning n m) m s

/-- R110 shr: logical within w bits. -/
def aluShrMeaning (n : Bool) (m : BitVec 3) : TrigMeaning :=
  aluMeaning n .shr m (fun a b _ => landQ (resBits m (a % 2 ^ wWidth m / 2 ^ aluShift m b)))

def execAluShr (n : Bool) (m : BitVec 3) (s : State) : Host.Outcome State Fault Refusal :=
  runTrigger (aluShrMeaning n m) m s

/-- R110 sra: arithmetic within w bits, for either signedness. -/
def aluSraMeaning (n : Bool) (m : BitVec 3) : TrigMeaning :=
  aluMeaning n .sra m (fun a b _ => landQ (resVal m ((sext a (wWidth m)).fdiv ((2 : Int) ^ aluShift m b))))

def execAluSra (n : Bool) (m : BitVec 3) (s : State) : Host.Outcome State Fault Refusal :=
  runTrigger (aluSraMeaning n m) m s

/-- R110 rol. -/
def aluRolMeaning (n : Bool) (m : BitVec 3) : TrigMeaning :=
  aluMeaning n .rol m (fun a b _ => landQ (resBits m (rotLeft (wWidth m) (a % 2 ^ wWidth m) (aluShift m b))))

def execAluRol (n : Bool) (m : BitVec 3) (s : State) : Host.Outcome State Fault Refusal :=
  runTrigger (aluRolMeaning n m) m s

/-- R110 ror. -/
def aluRorMeaning (n : Bool) (m : BitVec 3) : TrigMeaning :=
  aluMeaning n .ror m (fun a b _ => landQ (resBits m (rotLeft (wWidth m) (a % 2 ^ wWidth m) (wWidth m - aluShift m b))))

def execAluRor (n : Bool) (m : BitVec 3) (s : State) : Host.Outcome State Fault Refusal :=
  runTrigger (aluRorMeaning n m) m s

/-- R110 min. -/
def aluMinMeaning (n : Bool) (m : BitVec 3) : TrigMeaning :=
  aluMeaning n .min m (fun a b _ => landQ (resVal m (min (opVal m a) (opVal m b))))

def execAluMin (n : Bool) (m : BitVec 3) (s : State) : Host.Outcome State Fault Refusal :=
  runTrigger (aluMinMeaning n m) m s

/-- R110 max. -/
def aluMaxMeaning (n : Bool) (m : BitVec 3) : TrigMeaning :=
  aluMeaning n .max m (fun a b _ => landQ (resVal m (max (opVal m a) (opVal m b))))

def execAluMax (n : Bool) (m : BitVec 3) (s : State) : Host.Outcome State Fault Refusal :=
  runTrigger (aluMaxMeaning n m) m s

/-- R110 eq. -/
def aluEqMeaning (n : Bool) (m : BitVec 3) : TrigMeaning :=
  aluMeaning n .eq m (fun a b _ => landQ (truth (opVal m a == opVal m b)))

def execAluEq (n : Bool) (m : BitVec 3) (s : State) : Host.Outcome State Fault Refusal :=
  runTrigger (aluEqMeaning n m) m s

/-- R110 ne. -/
def aluNeMeaning (n : Bool) (m : BitVec 3) : TrigMeaning :=
  aluMeaning n .ne m (fun a b _ => landQ (truth (opVal m a != opVal m b)))

def execAluNe (n : Bool) (m : BitVec 3) (s : State) : Host.Outcome State Fault Refusal :=
  runTrigger (aluNeMeaning n m) m s

/-- R110 lt. -/
def aluLtMeaning (n : Bool) (m : BitVec 3) : TrigMeaning :=
  aluMeaning n .lt m (fun a b _ => landQ (truth (opVal m a < opVal m b)))

def execAluLt (n : Bool) (m : BitVec 3) (s : State) : Host.Outcome State Fault Refusal :=
  runTrigger (aluLtMeaning n m) m s

/-- R110 le. -/
def aluLeMeaning (n : Bool) (m : BitVec 3) : TrigMeaning :=
  aluMeaning n .le m (fun a b _ => landQ (truth (opVal m a ≤ opVal m b)))

def execAluLe (n : Bool) (m : BitVec 3) (s : State) : Host.Outcome State Fault Refusal :=
  runTrigger (aluLeMeaning n m) m s

/-- R110 sel: chained on the previous result. -/
def aluSelMeaning (n : Bool) (m : BitVec 3) : TrigMeaning :=
  aluMeaning n .sel m (fun a b q => landQ (if a % 2 ^ wWidth m != 0 then resVal m (opVal m b) else q))

def execAluSel (n : Bool) (m : BitVec 3) (s : State) : Host.Outcome State Fault Refusal :=
  runTrigger (aluSelMeaning n m) m s

/-- R111 bfx. -/
def aluBfxMeaning (n : Bool) (m : BitVec 3) : TrigMeaning :=
  aluMeaning n .bfx m (fun a b _ => landQ (aluBfxVal m a b))

def execAluBfx (n : Bool) (m : BitVec 3) (s : State) : Host.Outcome State Fault Refusal :=
  runTrigger (aluBfxMeaning n m) m s

/-- R111 bfi: chained on the previous result. -/
def aluBfiMeaning (n : Bool) (m : BitVec 3) : TrigMeaning :=
  aluMeaning n .bfi m (fun a b q => landQ (aluBfiVal a b q))

def execAluBfi (n : Bool) (m : BitVec 3) (s : State) : Host.Outcome State Fault Refusal :=
  runTrigger (aluBfiMeaning n m) m s

/-- R110 clz. -/
def aluClzMeaning (n : Bool) (m : BitVec 3) : TrigMeaning :=
  aluMeaning n .clz m (fun a _ _ => landQ (word (leadingZeros (wWidth m) (a % 2 ^ wWidth m))))

def execAluClz (n : Bool) (m : BitVec 3) (s : State) : Host.Outcome State Fault Refusal :=
  runTrigger (aluClzMeaning n m) m s

/-- R110 ctz. -/
def aluCtzMeaning (n : Bool) (m : BitVec 3) : TrigMeaning :=
  aluMeaning n .ctz m (fun a _ _ => landQ (word (trailingZeros (wWidth m) (a % 2 ^ wWidth m))))

def execAluCtz (n : Bool) (m : BitVec 3) (s : State) : Host.Outcome State Fault Refusal :=
  runTrigger (aluCtzMeaning n m) m s

/-- R110 popc. -/
def aluPopcMeaning (n : Bool) (m : BitVec 3) : TrigMeaning :=
  aluMeaning n .popc m (fun a _ _ => landQ (word (popCount (wWidth m) (a % 2 ^ wWidth m))))

def execAluPopc (n : Bool) (m : BitVec 3) (s : State) : Host.Outcome State Fault Refusal :=
  runTrigger (aluPopcMeaning n m) m s

/-- R110 bswap. -/
def aluBswapMeaning (n : Bool) (m : BitVec 3) : TrigMeaning :=
  aluMeaning n .bswap m (fun a _ _ => landQ (resBits m (reverseBytes (wWidth m / 8) (a % 2 ^ wWidth m))))

def execAluBswap (n : Bool) (m : BitVec 3) (s : State) : Host.Outcome State Fault Refusal :=
  runTrigger (aluBswapMeaning n m) m s

/-- R112 adds: clamped, with SAT, NX and the count. -/
def aluAddsMeaning (n : Bool) (m : BitVec 3) : TrigMeaning :=
  aluMeaning n .adds m (fun a b _ => (let (x, e) := clampW m (opVal m a + opVal m b); { landQ x with ev := e }))

def execAluAdds (n : Bool) (m : BitVec 3) (s : State) : Host.Outcome State Fault Refusal :=
  runTrigger (aluAddsMeaning n m) m s

/-- R112 subs: clamped, with SAT, NX and the count. -/
def aluSubsMeaning (n : Bool) (m : BitVec 3) : TrigMeaning :=
  aluMeaning n .subs m (fun a b _ => (let (x, e) := clampW m (opVal m a - opVal m b); { landQ x with ev := e }))

def execAluSubs (n : Bool) (m : BitVec 3) (s : State) : Host.Outcome State Fault Refusal :=
  runTrigger (aluSubsMeaning n m) m s

/-- R110 abs. -/
def aluAbsMeaning (n : Bool) (m : BitVec 3) : TrigMeaning :=
  aluMeaning n .abs m (fun a _ _ => landQ (resVal m ((opVal m a).natAbs : Int)))

def execAluAbs (n : Bool) (m : BitVec 3) (s : State) : Host.Outcome State Fault Refusal :=
  runTrigger (aluAbsMeaning n m) m s

/-- R110 neg. -/
def aluNegMeaning (n : Bool) (m : BitVec 3) : TrigMeaning :=
  aluMeaning n .neg m (fun a _ _ => landQ (resVal m (-opVal m a)))

def execAluNeg (n : Bool) (m : BitVec 3) (s : State) : Host.Outcome State Fault Refusal :=
  runTrigger (aluNegMeaning n m) m s

end Sys2Proof.Machine
end

