-- ==== Sys2Proof/Machine/Keccak.lean ====
section
/-!
DEFINITION. The SHAKE256 function of FIPS 202, which R164 names for the random blocks and chapters 13 and 14 name for
digests. The sponge's state is a list of 25 lanes of 64 bits: lane 5 y + x stands at column x of plane y. Rotations and
round constants are computed as the standard defines them: the rotations by the walk that also moves the lanes, the
constants by a shift register.
-/
namespace Sys2Proof.Machine

/-- A 64-bit lane rotated towards its most significant bit. -/
def rotl64 (x k : Nat) : Nat := (x <<< k) % 2 ^ 64 + x >>> (64 - k)

/-- A lane of the state. -/
def spongeLane (a : List Nat) (x y : Nat) : Nat := a.getD (5 * (y % 5) + x % 5) 0

/-- The parity of a column. -/
def columnParity (a : List Nat) (x : Nat) : Nat := (List.range 5).foldl (fun p y => p ^^^ spongeLane a x y) 0

/-- θ: each lane takes the parities of the column before it and of the one after it, the latter turned by one. -/
def mixColumns (a : List Nat) : List Nat :=
  let par := (List.range 5).map (columnParity a)
  let near (x : Nat) : Nat := spongeLane par (x + 4) 0 ^^^ rotl64 (spongeLane par (x + 1) 0) 1
  let turn := (List.range 5).map near
  (List.range 25).map (fun i => a.getD i 0 ^^^ spongeLane turn i 0)

/-- ρ and π: from (1, 0) on, the lane at (x, y) goes to (y, 2 x + 3 y), and the lane that makes move t is turned by the t-th
triangular number on its way. -/
def walkLanes (a : List Nat) : List Nat :=
  ((List.range 24).foldl (fun (p : List Nat × Nat × Nat) t =>
    let (b, x, y) := p
    let z := (2 * x + 3 * y) % 5
    (b.set (5 * z + y) (rotl64 (spongeLane a x y) ((t + 1) * (t + 2) / 2 % 64)), y, z)) (a, 1, 0)).1

/-- χ: a lane changes where its right neighbour is clear and the one after that is set. -/
def stepRows (a : List Nat) : List Nat :=
  (List.range 25).map (fun i =>
    let (x, y) := (i % 5, i / 5)
    spongeLane a x y ^^^ (spongeLane a (x + 2) y - (spongeLane a (x + 2) y &&& spongeLane a (x + 1) y)))

/-- The shift register of the round constants, with the feedback x^8 + x^6 + x^5 + x^4 + 1. -/
def shiftRc (r : Nat) : Nat := if 128 ≤ r then (2 * r - 256) ^^^ 0x71 else 2 * r

/-- The next round constant, and the register after it: seven bits, at the places 2^j - 1. -/
def roundConst (r : Nat) : Nat × Nat :=
  (List.range 7).foldl (fun p j => (p.1 + p.2 % 2 * 2 ^ (2 ^ j - 1), shiftRc p.2)) (0, r)

/-- A round: θ, ρ and π, χ, and ι with the next constant. -/
def keccakRound (p : List Nat × Nat) : List Nat × Nat :=
  let (rc, r) := roundConst p.2
  ((stepRows (walkLanes (mixColumns p.1))).modify 0 (fun l => l ^^^ rc), r)

/-- The permutation of 24 rounds. -/
def keccakF (a : List Nat) : List Nat := ((List.range 24).foldl (fun p _ => keccakRound p) (a, 1)).1

/-- The bytes of a block that the sponge takes in or gives out at once. -/
def shakeRate : Nat := 136

/-- Take in one block. -/
def takeBlock (a : List Nat) (block : List Byte) : List Nat :=
  keccakF ((List.range 25).map (fun i => a.getD i 0 ^^^ ofBytes ((block.drop (8 * i)).take 8)))

/-- Take in n blocks of a message. -/
def takeBlocks : (n : Nat) → List Nat → List Byte → List Nat
  | 0, a, _ => a
  | n + 1, a, m => takeBlocks n (takeBlock a (m.take shakeRate)) (m.drop shakeRate)

/-- Give out n blocks. -/
def giveBlocks : (n : Nat) → List Nat → List Byte
  | 0, _ => []
  | n + 1, a => (a.flatMap (toBytes 8)).take shakeRate ++ giveBlocks n (keccakF a)

/-- A message with SHAKE's suffix 1111 and the padding to whole blocks: a one bit, zeros and a last one bit. -/
def shakePad (m : List Byte) : List Byte :=
  let blocks := m.length / shakeRate + 1
  let whole := m ++ 0x1F :: List.replicate (blocks * shakeRate - m.length - 1) 0
  whole.modify (blocks * shakeRate - 1) (fun b => b ||| 0x80)

/-- The first n bytes of SHAKE256. -/
def shake256 (m : List Byte) (n : Nat) : List Byte :=
  (giveBlocks (n / shakeRate + 1) (takeBlocks (m.length / shakeRate + 1) (List.replicate 25 0) (shakePad m))).take n

end Sys2Proof.Machine
end

