-- ==== Sys2Proof/Machine/Ed448.lean ====
section
/-!
DEFINITION. Ed448 signatures as RFC 8032 defines them, with an empty context: R405 names them for firmware images and R407
for attestation reports. The field and the curve are computed on numbers.
-/
namespace Sys2Proof.Machine

/-- The field's prime, the order of the base point, and the curve's constant -39081. -/
def edP : Nat := 2 ^ 448 - 2 ^ 224 - 1
def edL : Nat := 2 ^ 446 - 13818066809895115352007386748515426880336692474882178609894547503885
def edD : Nat := edP - 39081

/-- A point in projective coordinates: x / z and y / z. -/
structure EdPoint where
  x : Nat
  y : Nat
  z : Nat
  deriving DecidableEq, Repr, Inhabited

/-- The neutral point. -/
def EdPoint.zero : EdPoint := ⟨0, 1, 1⟩

/-- The base point. -/
def EdPoint.base : EdPoint :=
  ⟨224580040295924300187604334099896036246789641632564134246125461686950415467406032909029192869357953282578032075146446173674602635247710,
   298819210078481492676017930443930673437544040154080242095928241372331506189835876003536878655418784733982303233503462500531545062832660,
   1⟩

/-- The sum of two points of x^2 + y^2 = 1 + d x^2 y^2. -/
def EdPoint.add (p q : EdPoint) : EdPoint :=
  let zz := p.z * q.z % edP
  let xx := p.x * q.x % edP
  let yy := p.y * q.y % edP
  let sq := zz * zz % edP
  let cross := edD * xx % edP * yy % edP
  let lo := sq + edP - cross
  let hi := sq + cross
  let mixed := (p.x + p.y) * (q.x + q.y) % edP
  { x := zz * lo % edP * ((mixed + 2 * edP - xx - yy) % edP) % edP
    y := zz * hi % edP * ((yy + edP - xx) % edP) % edP
    z := lo * hi % edP }

/-- A multiple of a point, by the bits of the factor from the top. -/
def EdPoint.mul (k : Nat) (p : EdPoint) : EdPoint :=
  (List.range 456).foldl (fun r i => let r := r.add r; if k.testBit (455 - i) then r.add p else r) .zero

/-- Do two points agree? -/
def EdPoint.same (p q : EdPoint) : Bool := p.x * q.z % edP == q.x * p.z % edP && p.y * q.z % edP == q.y * p.z % edP

/-- A power in the field, for exponents below 2^448. -/
def edPow (b e : Nat) : Nat :=
  (List.range 448).foldl (fun r i => let r := r * r % edP; if e.testBit (447 - i) then r * b % edP else r) 1

/-- The 57 bytes of a point: y, and the low bit of x as the last bit. -/
def EdPoint.encode (p : EdPoint) : List Byte :=
  let w := edPow p.z (edP - 2)
  toBytes 57 (p.y * w % edP + p.x * w % edP % 2 * 2 ^ 455)

/-- The point that 57 bytes encode, if they do. -/
def edDecode (b : List Byte) : Option EdPoint :=
  let n := ofBytes b
  let sign := n / 2 ^ 455
  let y := n % 2 ^ 455
  let u := (y * y + edP - 1) % edP
  let v := (edD * (y * y % edP) + edP - 1) % edP
  let x := u * u % edP * u % edP * v % edP * edPow (u * u % edP * (u * u % edP) % edP * u % edP * (v * v % edP * v % edP) % edP) ((edP - 3) / 4)
    % edP
  if b.length != 57 || edP ≤ y || v * (x * x % edP) % edP != u || (x = 0 && sign != 0) then none
  else some ⟨if x % 2 = sign then x else edP - x, y, 1⟩

/-- The hash of Ed448 without a context: 114 bytes as a number. -/
def edHash (m : List Byte) : Nat :=
  ofBytes (shake256 ([0x53, 0x69, 0x67, 0x45, 0x64, 0x34, 0x34, 0x38, 0, 0] ++ m) 114)

/-- Does a signature of 114 bytes over a message hold under a public key of 57? -/
def ed448Holds (key message signature : List Byte) : Bool :=
  let s := ofBytes (signature.drop 57)
  match edDecode key, edDecode (signature.take 57) with
  | some a, some r =>
    let k := edHash (signature.take 57 ++ key ++ message) % edL
    signature.length == 114 && s < edL
      && (EdPoint.base.mul (4 * s % (4 * edL))).same ((r.add (a.mul k)).mul 4)
  | _, _ => false

/-- The secret factor and the prefix of a private key of 57 bytes. -/
def edSecret (secret : List Byte) : Nat × List Byte :=
  let h := shake256 secret 114
  (ofBytes (h.take 57) % 2 ^ 447 / 4 * 4 + 2 ^ 447, h.drop 57)

/-- The public key of a private one. -/
def edPublic (secret : List Byte) : List Byte := (EdPoint.base.mul (edSecret secret).1).encode

/-- The signature over a message with a private key. -/
def ed448Sign (secret message : List Byte) : List Byte :=
  let (a, pre) := edSecret secret
  let key := edPublic secret
  let r := edHash (pre ++ message) % edL
  let point := (EdPoint.base.mul r).encode
  let k := edHash (point ++ key ++ message) % edL
  point ++ toBytes 57 ((r + k * a) % edL)

end Sys2Proof.Machine
end

