-- ==== Sys2Proof/Machine/Aes.lean ====
section
/-!
DEFINITION. AES-256 of FIPS 197 and the counter mode by which the lines of the B-store are encrypted (R286, R294). A state of
the cipher is a list of 16 bytes, byte r + 4 c standing in row r of column c.
-/
namespace Sys2Proof.Machine

/-- The product in the field of 256 elements, modulo x^8 + x^4 + x^3 + x + 1. -/
def aesMul (a b : Nat) : Nat :=
  ((List.range 8).foldl (fun (p : Nat × Nat) i =>
    (if bit b i then p.1 ^^^ p.2 else p.1, if 128 ≤ p.2 then (2 * p.2) ^^^ 0x11B else 2 * p.2)) (0, a)).1

/-- The inverse, 0 for 0: the power 254 = 2 + 4 + … + 128. -/
def aesInv (a : Nat) : Nat :=
  ((List.range 7).foldl (fun (p : Nat × Nat) _ => (aesMul p.1 (aesMul p.2 p.2), aesMul p.2 p.2)) (1, a)).1

/-- The substitution of a byte: the inverse, and its sum with itself turned by 1 to 4 places and 0x63. -/
def aesSub (x : Nat) : Nat :=
  (List.range 5).foldl (fun r i => r ^^^ ((aesInv x <<< i) % 256 ||| aesInv x >>> (8 - i))) 0x63

/-- The sum of two lists of bytes. -/
def aesXor (a b : List Nat) : List Nat := (a.zip b).map (fun p => p.1 ^^^ p.2)

/-- The word that the key schedule adds at word i. -/
def aesTurn (i : Nat) (w : List Nat) : List Nat :=
  if i % 8 = 0 then aesXor ((w.drop 1 ++ w.take 1).map aesSub) [2 ^ (i / 8 - 1), 0, 0, 0]
  else if i % 8 = 4 then w.map aesSub
  else w

/-- The 60 words of the key schedule. -/
def aesSchedule (key : List Nat) : List (List Nat) :=
  (List.range 52).foldl (fun ws k =>
    let i := 8 + k
    ws ++ [aesXor (ws.getD (i - 8) []) (aesTurn i (ws.getD (i - 1) []))])
    ((List.range 8).map (fun i => (key.drop (4 * i)).take 4))

/-- Each row is turned by its number. -/
def aesRows (st : List Nat) : List Nat := (List.range 16).map (fun i => st.getD ((i + 4 * (i % 4)) % 16) 0)

/-- Each column is multiplied by 2, 3, 1, 1 in turn. -/
def aesColumns (st : List Nat) : List Nat :=
  (List.range 16).map (fun i =>
    let at_ (k : Nat) : Nat := st.getD (i / 4 * 4 + (i + k) % 4) 0
    aesMul (at_ 0) 2 ^^^ aesMul (at_ 1) 3 ^^^ at_ 2 ^^^ at_ 3)

/-- Encrypt one block of 16 bytes under a key of 32. -/
def aes256 (key block : List Nat) : List Nat :=
  let ws := aesSchedule key
  let rk (r : Nat) : List Nat := ((ws.drop (4 * r)).take 4).flatten
  let mid := (List.range 13).foldl (fun st r => aesXor (aesColumns (aesRows (st.map aesSub))) (rk (r + 1))) (aesXor block (rk 0))
  aesXor (aesRows (mid.map aesSub)) (rk 14)

/-- The keystream of the 64 bytes of a B-store line at a version: the counter blocks of the GCM mode, from 2 on, after an
initialisation vector of the line, the version and 0x02 (R294). The bytes of the key and of the vector lie little-endian
(log 12). -/
def bsStream (key : BitVec 256) (line version : Nat) : List Nat :=
  let bytes (n x : Nat) : List Nat := (toBytes n x).map BitVec.toNat
  (List.range 4).flatMap (fun i =>
    aes256 (bytes 32 key.toNat) (bytes 4 line ++ bytes 7 version ++ [0x02] ++ (bytes 4 (i + 2)).reverse))

end Sys2Proof.Machine
end

