-- ==== Sys2Proof/WellFormed.lean ====
section
/-!
DEFINITION. Which terms of `Instr` stand for something the part can hold: what an encoding can carry (R82 to R92), and
operands in range. One Bool per check, so that a test can show an ill-formed term that each refuses.
-/
namespace Sys2Proof
open Sys2Proof.Machine

/-- A short immediate has no inverted guard (R87). -/
def Move.guardOk (mv : Move) : Bool :=
  match mv.src with
  | .imm _ => !mv.g.inv
  | _ => true

/-- `MXQ.cmd` takes a v register only (R92). -/
def Move.cmdSourceOk (mv : Move) : Bool :=
  match mv.dst, mv.src with
  | .trig (.mxq .cmd), .v _ => true
  | .trig (.mxq .cmd), _ => false
  | _, _ => true

/-- A move that an instruction can hold. -/
def Move.wf (mv : Move) : Bool :=
  mv.guardOk && srcExists mv.src && dstExists mv.dst && modAccepts (dstClass mv.dst) mv.mod && mv.cmdSourceOk

/-- The unit a move triggers. -/
def Move.unit? (mv : Move) : Option FUnit :=
  match mv.dst with
  | .trig t => some (trigUnit t)
  | _ => none

/-- No two moves of one instruction trigger the same unit (R93 step 7). -/
def unitsDistinct : List Move → Bool
  | [] => true
  | mv :: l => (match mv.unit? with
    | some u => l.all (fun o => o.unit? != some u)
    | none => true) && unitsDistinct l

/-- `rep`: OFF32 is 1 or more, and exactly one of CREG and CIMM gives the count (R84, R128). -/
def repOk (off : Word32) (r : Fin 32) (count : BitVec 16) : Bool :=
  1 ≤ off.toNat && off.toNat < 2 ^ 31 && ((r.val == 0) != (count.toNat == 0))

/-- An image unit that exists: 512 of the scratchpad, 16 of each of the 64 column slices (R284, R197). -/
def UnitId.ok : UnitId → Bool
  | .sp n => n < 512
  | .bs col n => col < 64 && n < 16

/-- A rank of 24 bits in one of 256 contexts (R20, R9). -/
def VRef.ok (v : VRef) : Bool := v.ctx < 256 && v.rank < 2 ^ 24

/-- Accesses of a croft hart are of 1, 2, 4 or 8 bytes. -/
def CroftOp.ok : CroftOp → Bool
  | .load _ n => n == 1 || n == 2 || n == 4 || n == 8
  | .store _ n _ => n == 1 || n == 2 || n == 4 || n == 8
  | .fence _ _ _ _ | .outside _ _ _ => true

/-- Well-formed terms. -/
def Instr.wf : Instr → Bool
  | .m3 a b c => a.wf && b.wf && c.wf && unitsDistinct [a, b, c]
  | .mh a b _ _ _ => a.wf && b.wf && unitsDistinct [a, b]
  | .mw a _ _ => a.wf
  | .br m _ _ => m.wf
  | .call m _ _ _ => m.wf
  | .ret m _ _ => m.wf
  | .jmp m _ _ => m.wf
  | .calli m _ _ _ => m.wf
  | .rep m _ off r count => m.wf && repOk off r count
  | .endF m _ => m.wf
  | .park m _ _ _ => m.wf
  | .harr m _ _ => m.wf
  | .hwait m _ _ => m.wf
  | .trap m _ _ => m.wf
  | .aluBfx _ m | .aluBfi _ m => modAccepts .wBf m
  | .aguAdd m | .aguIdx m | .aguIdx2 m | .aguChk m | .aguWrap m | .aguHmk m | .aguHadv m | .aguHrel m =>
    modAccepts .n m
  | .lsuFeRd m | .lsuFeClr m | .lsuCDecq m => modAccepts .n m
  | .lsuAAdd m | .lsuAAnd m | .lsuAOr m | .lsuAXor m | .lsuAMin m | .lsuAMax m | .lsuACas m | .lsuASwap m
  | .lsuCCasO m | .lsuCCasU m | .lsuCSwapO m | .lsuCSwapU m => modAccepts .w4 m
  | .lsuFence m | .lsuRel m | .lsuAcq m => modAccepts .s m
  | .lsuCAddO m | .lsuCAddU m | .lsuCMinO m | .lsuCMinU m | .lsuCMaxO m | .lsuCMaxU m => modAccepts .c m
  | .fpuAdd m _ | .fpuSub m _ | .fpuMul m _ | .fpuFma m _ | .fpuDiv m _ | .fpuSqrt m _ => modAccepts .f3 m
  | .fpuCvt m _ => modAccepts .f5 m
  | .fpuMin m | .fpuMax m | .fpuEq m | .fpuLt m | .fpuLe m | .fpuUn m | .fpuAbs m | .fpuNeg m | .fpuClass m =>
    modAccepts .f3 m
  | .vecAdd m _ | .vecSub m _ | .vecMul m _ | .vecFma m _ | .vecRedaddO m _ | .vecRedaddU m _ => modAccepts .f3 m
  | .vecCvt m _ | .vecBfdec m _ => modAccepts .f5 m
  | .vecCvti m _ | .vecCvtf m _ => modAccepts .wPrime m
  | .vecMin m | .vecMax m | .vecEq m | .vecLt m | .vecLe m | .vecSel m | .vecAbs m | .vecNeg m | .vecRedmax m
  | .vecRedmin m | .vecBfenc m | .vecExp m | .vecLog m | .vecRcp m | .vecRsqrt m | .vecTanh m | .vecSigm m =>
    modAccepts .f3 m
  | .vecBfalign m | .vecVld m | .vecVst m | .vecVldWf m => modAccepts .n m
  | .vecPerm m | .vecBcast m | .vecRotl m | .vecIadd m | .vecIsub m | .vecImul m | .vecIand m | .vecIor m
  | .vecIxor m | .vecIshl m | .vecIshr m | .vecImin m | .vecImax m => modAccepts .wPrime m
  | .rngSeed m | .rngDraw m => modAccepts .n m
  | .rngUnif m | .rngNorm m => modAccepts .f3 m
  | .mxqPoll m => modAccepts .n m
  | .cpeSend m | .cpeRead m | .cpeStore m | .cpeMuster m | .cpeScatter m | .cpeRsend m | .cpeSeal m | .cpeCwait m =>
    modAccepts .n m
  | .msgSend m | .msgSendv m | .msgSendr m | .msgSvc m => modAccepts .n m
  | .patPcfg m | .patPrd m | .patPset m | .patPget m | .patHset m | .patHget m | .patPen m | .patPdis m =>
    modAccepts .n m
  | .sysFsr m | .sysCfgrd m | .sysCfgwr m => modAccepts .n m
  | .unitSpill v u | .unitRestore v u => v.ok && u.ok
  | .croftMemoryAccess _ op => op.ok
  | _ => true

end Sys2Proof
end

