-- ==== Sys2Proof/Decode.lean ====
section
/-!
DEFINITION. The decoder of R81 to R98, total on any 96 bits, in the order of checks of R93, and after it the encoder
written from the same tables. A refusal says which trap the issue of the word takes and at which move.
-/
namespace Sys2Proof
open Sys2Proof.Machine

/-- Why a word does not decode: the trap its issue takes (R93), and the move for the checks of steps 6 and 7. -/
inductive Reject where
  | illegalInsn
  | privilegeInsn
  | illegalMove (k : Nat)
  | privilegeMove (k : Nat)
  deriving DecidableEq, Repr, Inhabited

/-- A guard code (R86). -/
def decodeGuard (g : BitVec 4) : Guard := ⟨g.getLsbD 3, Fin.ofNat 8 g.toNat⟩

/-- One move, number k, in a slot that may or may not use privileged codes, on a stepping (R87 to R92, R98): source,
then destination, then modifier. -/
def decodeMove (sup b1 : Bool) (k : Nat) (w : BitVec 31) : Except Reject Move := do
  let g := w.extractLsb' 27 4
  let sc := w.extractLsb' 15 12
  let dc := w.extractLsb' 3 12
  let md := w.extractLsb' 0 3
  let isImm := sc.getLsbD 11
  let src ← (if isImm then .ok (Src.imm (g.extractLsb' 3 1 ++ sc.extractLsb' 0 11))
    else match srcOfCode sc.toNat with
      | some s => .ok s
      | none => .error (.illegalMove k) : Except Reject Src)
  if !sup && srcPrivileged src then .error (.privilegeMove k) else
  let dst ← (match dstOfCode dc.toNat with
    | some d => .ok d
    | none => .error (.illegalMove k) : Except Reject Dst)
  if !b1 && dst == .trig (.rng .norm) then .error (.illegalMove k) else
  if !sup && dstPrivileged dst then .error (.privilegeMove k) else
  if !modAccepts (dstClass dst) md then .error (.illegalMove k) else
  let gd := if isImm then { decodeGuard g with inv := false } else decodeGuard g
  let mv : Move := ⟨gd, src, dst, md⟩
  if !mv.cmdSourceOk then .error (.illegalMove k) else
  .ok mv

/-- R93 step 7: the second of two moves that trigger one unit. -/
def decodeUnits (mvs : List Move) : Option Nat :=
  ((List.range mvs.length).find? (fun k =>
    match (mvs[k]?).bind Move.unit? with
    | some u => (mvs.take k).any (fun o => o.unit? == some u)
    | none => false))

def unitsChecked (mvs : List Move) (i : Instr) : Except Reject Instr :=
  match decodeUnits mvs with
  | some k => .error (.illegalMove k)
  | none => .ok i

/-- The CT format (R82, R84): the control operation, then its move. -/
def decodeCT (sup b1 : Bool) (w : BitVec 96) : Except Reject Instr := do
  let off := w.extractLsb' 30 32
  let ctop := w.extractLsb' 25 5
  let cg := decodeGuard (w.extractLsb' 21 4)
  let creg : Fin 32 := Fin.ofNat 32 (w.extractLsb' 16 5).toNat
  let cimm := w.extractLsb' 0 16
  let noOff := off == 0
  let noReg := creg.val == 0
  let noImm := cimm == 0
  let hOk := cimm.toNat < 16
  let ok : Bool := match ctop.toNat with
    | 0x00 => noReg && noImm
    | 0x01 => noImm
    | 0x02 => noOff && noImm
    | 0x03 => noOff && noImm
    | 0x04 => noOff && cimm.toNat < 32
    | 0x05 => repOk off creg cimm
    | 0x06 => noOff && noReg && noImm
    | 0x07 => noOff && cimm.toNat < 4
    | 0x08 => noOff && noReg && hOk
    | 0x09 => noOff && noReg && hOk
    | 0x0A => noOff && noReg
    | _ => false
  if !ok then .error .illegalInsn else
  let m ← decodeMove sup b1 3 (w.extractLsb' 62 31)
  let h : Fin 16 := Fin.ofNat 16 cimm.toNat
  .ok (match ctop.toNat with
    | 0x00 => .br m cg off
    | 0x01 => .call m cg off creg
    | 0x02 => .ret m cg creg
    | 0x03 => .jmp m cg creg
    | 0x04 => .calli m cg creg (Fin.ofNat 32 cimm.toNat)
    | 0x05 => .rep m cg off creg cimm
    | 0x06 => .endF m cg
    | 0x07 => .park m cg (Fin.ofNat 4 cimm.toNat) creg
    | 0x08 => .harr m cg h
    | 0x09 => .hwait m cg h
    | _ => .trap m cg cimm)

/-- The SY format (R82, R85). -/
def decodeSY (sup : Bool) (w : BitVec 96) : Except Reject Instr :=
  let syop := w.extractLsb' 85 8
  let xa : Fin 32 := Fin.ofNat 32 (w.extractLsb' 80 5).toNat
  let imm := (w.extractLsb' 64 16).toNat
  let rest := w.extractLsb' 0 64
  let noImm := imm == 0
  let noReg := xa.val == 0
  let i? : Option Instr := if rest != 0 then none else match syop.toNat with
    | 0x00 => if noImm then some (.stclr xa) else none
    | 0x01 => if noImm then some (.satwr xa) else none
    | 0x02 => if imm < 8 then some (.rset xa (Fin.ofNat 8 imm)) else none
    | 0x03 => (trapRegOfCode imm).map (fun r => .mtsr r xa)
    | 0x04 => if noReg && imm < 64 then some (.halt (Fin.ofNat 64 imm)) else none
    | 0x05 => if noImm then some (.hgrp xa) else none
    | 0x06 => if imm < 6 then some (.einj xa (Fin.ofNat 6 imm)) else none
    | 0x07 => if noImm && noReg then some .tret else none
    | _ => none
  match i? with
  | none => .error .illegalInsn
  | some i => if sup then .ok i else .error .privilegeInsn

/-- Decode in a user or supervisor slot, on a stepping (R93 steps 4 to 7). -/
def decodeIn (sup b1 : Bool) (w : BitVec 96) : Except Reject Instr :=
  match (w.extractLsb' 93 3).toNat with
  | 0 => do
    let a ← decodeMove sup b1 0 (w.extractLsb' 62 31)
    let b ← decodeMove sup b1 1 (w.extractLsb' 31 31)
    let c ← decodeMove sup b1 2 (w.extractLsb' 0 31)
    unitsChecked [a, b, c] (.m3 a b c)
  | 1 =>
    if w.extractLsb' 0 2 != 0 then .error .illegalInsn else do
    let a ← decodeMove sup b1 0 (w.extractLsb' 62 31)
    let b ← decodeMove sup b1 1 (w.extractLsb' 31 31)
    unitsChecked [a, b] (.mh a b (w.extractLsb' 11 20) (Fin.ofNat 32 (w.extractLsb' 6 5).toNat)
      (decodeGuard (w.extractLsb' 2 4)))
  | 2 =>
    if w.extractLsb' 0 1 != 0 then .error .illegalInsn else do
    let a ← decodeMove sup b1 0 (w.extractLsb' 62 31)
    .ok (.mw a (w.extractLsb' 6 56) (Fin.ofNat 32 (w.extractLsb' 1 5).toNat))
  | 3 => decodeCT sup b1 w
  | 4 => decodeSY sup w
  | _ => .error .illegalInsn

/-- Decode a word as a supervisor slot of a B1 part does: every word that is an instruction anywhere. -/
def decode (w : BitVec 96) : Except Reject Instr := decodeIn true true w

/-! ## The encoder -/

def encodeGuard (g : Guard) : BitVec 4 := BitVec.ofNat 4 (g.p.val + 8 * b2n g.inv)

def encodeMove (mv : Move) : BitVec 31 :=
  let g : BitVec 4 := match mv.src with
    | .imm i => BitVec.ofNat 4 (mv.g.p.val + 8 * (i.toNat / 2 ^ 11))
    | _ => encodeGuard mv.g
  g ++ BitVec.ofNat 12 (srcCode mv.src) ++ BitVec.ofNat 12 (dstCode mv.dst) ++ mv.mod

def encodeCT (ctop : Nat) (m : Move) (cg : Guard) (off : Word32) (creg : Fin 32) (cimm : BitVec 16) : BitVec 96 :=
  3#3 ++ encodeMove m ++ off ++ BitVec.ofNat 5 ctop ++ encodeGuard cg ++ BitVec.ofNat 5 creg.val ++ cimm

def encodeSY (syop : Nat) (xa : Fin 32) (imm : Nat) : BitVec 96 :=
  4#3 ++ BitVec.ofNat 8 syop ++ BitVec.ofNat 5 xa.val ++ BitVec.ofNat 16 imm ++ 0#64

/-- The word of an instruction of R81; none for the steps that are no instruction words. -/
def encode : Instr → Option (BitVec 96)
  | .m3 a b c => some (0#3 ++ encodeMove a ++ encodeMove b ++ encodeMove c)
  | .mh a b imm xd ig => some (1#3 ++ encodeMove a ++ encodeMove b ++ imm ++ BitVec.ofNat 5 xd.val ++ encodeGuard ig ++ 0#2)
  | .mw a imm xd => some (2#3 ++ encodeMove a ++ imm ++ BitVec.ofNat 5 xd.val ++ 0#1)
  | .br m cg off => some (encodeCT 0x00 m cg off 0 0)
  | .call m cg off link => some (encodeCT 0x01 m cg off link 0)
  | .ret m cg r => some (encodeCT 0x02 m cg 0 r 0)
  | .jmp m cg r => some (encodeCT 0x03 m cg 0 r 0)
  | .calli m cg r link => some (encodeCT 0x04 m cg 0 r (BitVec.ofNat 16 link.val))
  | .rep m cg off r count => some (encodeCT 0x05 m cg off r count)
  | .endF m cg => some (encodeCT 0x06 m cg 0 0 0)
  | .park m cg kind r => some (encodeCT 0x07 m cg 0 r (BitVec.ofNat 16 kind.val))
  | .harr m cg h => some (encodeCT 0x08 m cg 0 0 (BitVec.ofNat 16 h.val))
  | .hwait m cg h => some (encodeCT 0x09 m cg 0 0 (BitVec.ofNat 16 h.val))
  | .trap m cg code => some (encodeCT 0x0A m cg 0 0 code)
  | .stclr xa => some (encodeSY 0x00 xa 0)
  | .satwr xa => some (encodeSY 0x01 xa 0)
  | .rset xa ring => some (encodeSY 0x02 xa ring.val)
  | .mtsr reg xa => some (encodeSY 0x03 xa (trapRegCode reg))
  | .halt group => some (encodeSY 0x04 0 group.val)
  | .hgrp xa => some (encodeSY 0x05 xa 0)
  | .einj xa kind => some (encodeSY 0x06 xa kind.val)
  | .tret => some (encodeSY 0x07 0 0)
  | _ => none

/-- What the decoder reads from a word numbered as the table numbers bits: the table gives no row any bits, so every
bit above `nbits` is 0 and the instruction is the 96 bits of w. -/
def decodeTableWord (nbits w : Nat) : Option Instr :=
  match decode (BitVec.ofNat 96 (w % 2 ^ nbits)) with
  | .ok i => some i
  | .error _ => none

end Sys2Proof
end

