-- ==== Sys2Proof/Machine/Real.lean ====
section
/-!
DEFINITION. The transcendental functions of R157 and the Box-Muller transform of R167, correctly rounded. Each value is
enclosed between two numbers of a fixed-point scale 2^p; where both ends round alike, that is the rounded value, and
where they do not, the precision grows. Exact cases are answered before. The functions take irrational values
everywhere else, so no value lies on a rounding boundary and the growth ends.
-/
namespace Sys2Proof.Machine

/-- An enclosure: lo / 2^p ≤ v ≤ hi / 2^p for the scale p it is used with. -/
structure Enc where
  lo : Int
  hi : Int
  deriving DecidableEq, Repr, Inhabited

/-- Division rounding toward minus infinity. -/
def fdiv (a b : Int) : Int := a.fdiv b

/-- Division rounding toward plus infinity. -/
def cdiv (a b : Int) : Int := -((-a).fdiv b)

def encInt (p : Nat) (n : Int) : Enc := ⟨n * (2 : Int) ^ p, n * (2 : Int) ^ p⟩

/-- The rational n / d, d > 0. -/
def encRat (p : Nat) (n d : Int) : Enc := ⟨fdiv (n * (2 : Int) ^ p) d, cdiv (n * (2 : Int) ^ p) d⟩

def encAdd (a b : Enc) : Enc := ⟨a.lo + b.lo, a.hi + b.hi⟩

def encNeg (a : Enc) : Enc := ⟨-a.hi, -a.lo⟩

def encSub (a b : Enc) : Enc := encAdd a (encNeg b)

/-- Product of enclosures of values that are not negative. -/
def encMul (p : Nat) (a b : Enc) : Enc := ⟨fdiv (a.lo * b.lo) ((2 : Int) ^ p), cdiv (a.hi * b.hi) ((2 : Int) ^ p)⟩

/-- Product with an integer. -/
def encScale (k : Int) (a : Enc) : Enc := if 0 ≤ k then ⟨k * a.lo, k * a.hi⟩ else ⟨k * a.hi, k * a.lo⟩

/-- Quotient of enclosures, dividend not negative, divisor positive. -/
def encDiv (p : Nat) (a b : Enc) : Enc := ⟨fdiv (a.lo * (2 : Int) ^ p) b.hi, cdiv (a.hi * (2 : Int) ^ p) b.lo⟩

/-- Quotient by a positive integer. -/
def encDivInt (a : Enc) (d : Int) : Enc := ⟨fdiv a.lo d, cdiv a.hi d⟩

/-- Square root of an enclosure of a value that is not negative. -/
def encSqrt (p : Nat) (a : Enc) : Enc :=
  ⟨isqrt ((if a.lo < 0 then 0 else a.lo).toNat * 2 ^ p), (isqrt (a.hi.toNat * 2 ^ p) + 1 : Nat)⟩

/-- n-th power of two of an enclosure: squared k times. -/
def encSquares (p : Nat) : (k : Nat) → Enc → Enc
  | 0, a => a
  | k + 1, a => encSquares p k (encMul p a a)

/-- Sum of x^i / i! from the term `t` = x^i / i! on, n terms, 0 ≤ x ≤ 1/2; the rest is below the last term. -/
def expSeries (p : Nat) (x : Enc) : (n i : Nat) → (t acc : Enc) → Enc
  | 0, _, t, acc => ⟨acc.lo, acc.hi + t.hi + 1⟩
  | n + 1, i, t, acc =>
    expSeries p x n (i + 1) (encDivInt (encMul p t x) ((i : Int) + 1)) (encAdd acc t)

/-- e^x for 0 ≤ x < 2^9. -/
def encExp (p : Nat) (x : Enc) : Enc :=
  let k := 10
  let y : Enc := ⟨fdiv x.lo ((2 : Int) ^ k), cdiv x.hi ((2 : Int) ^ k)⟩
  encSquares p k (expSeries p y (p / 8 + 8) 0 (encInt p 1) (encInt p 0))

/-- Sum of z^(2i+1) / (2i+1) from the power `t` on, 0 ≤ z ≤ 1/3; z2 is z squared. -/
def atanhSeries (p : Nat) (z2 : Enc) : (n i : Nat) → (t acc : Enc) → Enc
  | 0, _, t, acc => ⟨acc.lo, acc.hi + t.hi + 1⟩
  | n + 1, i, t, acc =>
    atanhSeries p z2 n (i + 1) (encMul p t z2) (encAdd acc (encDivInt t (2 * (i : Int) + 1)))

/-- 2 * atanh(n / d) = ln((d + n) / (d - n)), for 0 ≤ n / d ≤ 1/3. -/
def encAtanh2 (p : Nat) (n d : Int) : Enc :=
  let z := encRat p n d
  encScale 2 (atanhSeries p (encMul p z z) (p / 3 + 4) 0 z (encInt p 0))

/-- ln 2. -/
def encLn2 (p : Nat) : Enc := encAtanh2 p 1 3

/-- ln(m * 2^e), m > 0: m is brought to 2^k * t with 1 ≤ t < 2, and t to [1, 1.5] or [0.75, 1]. -/
def encLn (p : Nat) (m : Nat) (e : Int) : Enc :=
  let k := m.log2
  -- t = m / 2^k
  if 2 * m ≤ 3 * 2 ^ k then
    encAdd (encAtanh2 p ((m : Int) - (2 : Int) ^ k) ((m : Int) + (2 : Int) ^ k)) (encScale ((k : Int) + e) (encLn2 p))
  else
    -- t / 2 lies in (3/4, 1): ln = -2 atanh((2^(k+1) - m) / (2^(k+1) + m)) + (k + 1 + e) ln 2
    encAdd (encNeg (encAtanh2 p ((2 : Int) ^ (k + 1) - m) ((2 : Int) ^ (k + 1) + m)))
      (encScale ((k : Int) + 1 + e) (encLn2 p))

/-- Sum of (-1)^i z^(2i+1) / (2i+1), for 0 ≤ z ≤ 1/5: an alternating series. -/
def atanSeries (p : Nat) (z2 : Enc) : (n i : Nat) → (t acc : Enc) → Enc
  | 0, _, t, acc => ⟨acc.lo - t.hi - 1, acc.hi + t.hi + 1⟩
  | n + 1, i, t, acc =>
    let term := encDivInt t (2 * (i : Int) + 1)
    atanSeries p z2 n (i + 1) (encMul p t z2) (if i % 2 = 0 then encAdd acc term else encSub acc term)

def encAtanInv (p : Nat) (d : Int) : Enc :=
  let z := encRat p 1 d
  atanSeries p (encMul p z z) (p / 4 + 4) 0 z (encInt p 0)

/-- π = 16 atan(1/5) - 4 atan(1/239). -/
def encPi (p : Nat) : Enc := encSub (encScale 16 (encAtanInv p 5)) (encScale 4 (encAtanInv p 239))

/-- The alternating series of sin (first term x, i = 1) or cos (first term 1, i = 0), for 0 ≤ x ≤ 2. -/
def trigSeries (p : Nat) (x2 : Enc) : (n i : Nat) → (t acc : Enc) → (plus : Bool) → Enc
  | 0, _, t, acc, _ => ⟨acc.lo - t.hi - 1, acc.hi + t.hi + 1⟩
  | n + 1, i, t, acc, plus =>
    let next := encDivInt (encMul p t x2) (((i : Int) + 1) * ((i : Int) + 2))
    trigSeries p x2 n (i + 2) next (if plus then encAdd acc t else encSub acc t) (!plus)

/-- sin x and cos x for 0 ≤ x ≤ 2. -/
def encSin (p : Nat) (x : Enc) : Enc := trigSeries p (encMul p x x) (p / 6 + 12) 1 x (encInt p 0) true
def encCos (p : Nat) (x : Enc) : Enc := trigSeries p (encMul p x x) (p / 6 + 12) 0 (encInt p 1) (encInt p 0) true

/-! ## Rounding an enclosure -/

/-- What one end of an enclosure rounds to in FP32 at nearest-even, and whether its magnitude lies below the
smallest normal of the lane format. -/
def roundEnd (lane : Fmt) (p : Nat) (v : Int) : Nat × Bool :=
  let neg := decide (v < 0)
  let x := (roundFin .fp32 .rn neg v.natAbs (-(p : Int)) true).1
  (x, magLt v.natAbs (-(p : Int)) 1 (1 - (expBias lane : Int)))

/-- The FP32 value of an enclosure when both ends agree. -/
def decideEnc (lane : Fmt) (p : Nat) (a : Enc) : Option (Nat × Bool) :=
  if (decide (a.lo < 0)) != decide (a.hi < 0) then none
  else
    let l := roundEnd lane p a.lo
    let h := roundEnd lane p a.hi
    if l = h then some l else none

/-- Grow the precision until the enclosure decides. -/
def decideReal (lane : Fmt) (f : Nat → Enc) : (fuel p : Nat) → Nat × Bool
  | 0, p => roundEnd lane p (f p).lo
  | k + 1, p =>
    match decideEnc lane p (f p) with
    | some r => r
    | none => decideReal lane f k (2 * p)

/-- First scale and number of doublings. -/
def realScale : Nat := 320
def realFuel : Nat := 6

/-! ## The functions of R157 -/

/-- What a lane of a transcendental delivers: a special result with the flags its table row names, an exact value, or
an inexact FP32 value with the Bool that says that the exact value lies below the smallest normal of the lane. -/
inductive LaneRes where
  | special (v : FVal) (flags : BitVec 8)
  | exact (neg : Bool) (m : Nat) (e : Int)
  | inexact (fp32 : Nat) (small : Bool)
  deriving DecidableEq, Repr, Inhabited

/-- Deliver a lane in its format (R157): FP32 first, then the lane format; NX, OF and UF compare the delivered lane
with the exact value. -/
def deliverLane (f : Fmt) : LaneRes → Nat × Ev
  | .special v fl => ((roundVal f .rn v).1, evFlags fl)
  | .exact neg m e =>
    let x := (roundFin .fp32 .rn neg m e false).1
    let y := if f = .fp32 then x else (roundVal f .rn (ieeeDecode .fp32 x)).1
    let d := ieeeDecode f y
    let same := match d with
      | .fin _ m' e' => magEq m e m' e'
      | _ => false
    let small := m != 0 && magLt m e 1 (1 - (expBias f : Int))
    (y, evAnd (evIf (!same) flagNX) (evAnd (evIf d.isInf flagOF) (evIf (small && !same) flagUF)))
  | .inexact x small =>
    let y := if f = .fp32 then x else (roundVal f .rn (ieeeDecode .fp32 x)).1
    (y, evAnd (evFlags flagNX) (evAnd (evIf (ieeeDecode f y).isInf flagOF) (evIf small flagUF)))

/-- An inexact value given by its enclosures. -/
def laneReal (f : Fmt) (g : Nat → Enc) : LaneRes :=
  let (x, small) := decideReal f g realFuel realScale
  .inexact x small

/-- An inexact value just above m * 2^e: for results so far out that the enclosure is not needed. -/
def laneFar (f : Fmt) (e : Int) : LaneRes :=
  .inexact (roundFin .fp32 .rn false (2 ^ 40) (e - 40) true).1 (e < 1 - (expBias f : Int))

/-- The exact value m * 2^e as an enclosure. -/
def encFin (p : Nat) (m : Nat) (e : Int) : Enc :=
  if 0 ≤ e then encInt p ((m : Int) * (2 : Int) ^ e.toNat) else encRat p m ((2 : Int) ^ (-e).toNat)

/-- e^A. -/
def laneExp (f : Fmt) : FVal → LaneRes
  | .nan s => .special (.nan false) (if s then flagNV else 0)
  | .inf true => .special (.fin false 0 0) 0
  | .inf false => .special (.inf false) 0
  | .fin n m e =>
    if m = 0 then .special (.fin false 1 0) 0
    else if magLt 256 0 m e then laneFar f (if n then -1000 else 1000)
    else laneReal f (fun p =>
      let x := encExp p (encFin p m e)
      if n then encDiv p (encInt p 1) x else x)

/-- ln A. -/
def laneLog (f : Fmt) : FVal → LaneRes
  | .nan s => .special (.nan false) (if s then flagNV else 0)
  | .inf true => .special (.nan false) (flagNV ||| flagNANP)
  | .inf false => .special (.inf false) 0
  | .fin n m e =>
    if m = 0 then .special (.inf true) flagDZ
    else if n then .special (.nan false) (flagNV ||| flagNANP)
    else if magEq m e 1 0 then .special (.fin false 0 0) 0
    else laneReal f (fun p => encLn p m e)

/-- 1 / A: exact when m is a power of two. -/
def laneRcp (f : Fmt) : FVal → LaneRes
  | .nan s => .special (.nan false) (if s then flagNV else 0)
  | .inf n => .special (.fin n 0 0) 0
  | .fin n m e =>
    if m = 0 then .special (.inf n) flagDZ
    else if m = 2 ^ m.log2 then .exact n 1 (-e - m.log2)
    else
      let k := 64 + m.log2
      let q := 2 ^ k / m
      let x := (roundFin .fp32 .rn n q (-e - k) true).1
      .inexact x (magLt q (-e - k) 1 (1 - (expBias f : Int)))

/-- 1 / √A: exact when A is a power of four. -/
def laneRsqrt (f : Fmt) : FVal → LaneRes
  | .nan s => .special (.nan false) (if s then flagNV else 0)
  | .inf true => .special (.nan false) (flagNV ||| flagNANP)
  | .inf false => .special (.fin false 0 0) 0
  | .fin n m e =>
    if m = 0 then .special (.inf n) flagDZ
    else if n then .special (.nan false) (flagNV ||| flagNANP)
    else
      let t := e + m.log2
      if m = 2 ^ m.log2 && t % 2 == 0 then .exact false 1 (-(t / 2))
      else
        -- 2^(2k) / (m * 2^e') with e' even
        let (m, e) := if e % 2 = 0 then (m, e) else (2 * m, e - 1)
        let k := 64 + m.log2
        let r := isqrt (2 ^ (2 * k) / m)
        let x := (roundFin .fp32 .rn false r (-(e / 2) - k) true).1
        .inexact x (magLt r (-(e / 2) - k) 1 (1 - (expBias f : Int)))

/-- tanh A. -/
def laneTanh (f : Fmt) : FVal → LaneRes
  | .nan s => .special (.nan false) (if s then flagNV else 0)
  | .inf n => .special (.fin n 1 0) 0
  | .fin n m e =>
    if m = 0 then .special (.fin n 0 0) 0
    else
      let sgn (r : LaneRes) : LaneRes := match r with
        | .inexact x small => .inexact (if n then x + 2 ^ 31 else x) small
        | r => r
      if magLt 64 0 m e then sgn (.inexact 0x3F800000 false)
      else sgn (laneReal f (fun p =>
        let y := encExp p (encScale 2 (encFin p m e))
        encDiv p (encSub y (encInt p 1)) (encAdd y (encInt p 1))))

/-- 1 / (1 + e^-A). -/
def laneSigm (f : Fmt) : FVal → LaneRes
  | .nan s => .special (.nan false) (if s then flagNV else 0)
  | .inf true => .special (.fin false 0 0) 0
  | .inf false => .special (.fin false 1 0) 0
  | .fin n m e =>
    if m = 0 then .special (.fin false 1 (-1)) 0
    else if magLt 256 0 m e then (if n then laneFar f (-1000) else .inexact 0x3F800000 false)
    else laneReal f (fun p =>
      let y := encExp p (encFin p m e)
      -- A < 0: 1 / (1 + y); A > 0: y / (1 + y)
      encDiv p (if n then encInt p 1 else y) (encAdd (encInt p 1) y))

/-! ## Box-Muller (R167) -/

/-- The FP32 value of rad * |trig|: `x` is 4 * ub reduced to [0, 1] times π / 2. -/
def normMag (useCos : Bool) (ca red b : Nat) : Nat :=
  (decideReal .fp32 (fun p =>
    let lnua := encLn p (ca + 1) (-(b : Int))
    let rad := encSqrt p (encScale (-2) lnua)
    let ang := encDivInt (encScale red (encPi p)) ((2 : Int) ^ (b - 1))
    encMul p rad (if useCos then encCos p ang else encSin p ang)) realFuel realScale).1

/-- One lane of norm from chunks c_i and c_(i+1) of b bits: rad cos(2π ub), or rad sin(2π ub). Angles are reduced to
the first quadrant, where neither is negative; an exact zero is +0. -/
def normLane (useCos : Bool) (ca cb b : Nat) : Nat :=
  let quarter := 2 ^ (b - 2)
  let q := cb / quarter
  let r := cb % quarter
  if ca + 1 = 2 ^ b then 0
  else
    -- quadrant q with offset r: cos is cos, -sin, -cos, sin of the offset; sin is sin, cos, -sin, -cos
    let cosLike := if q % 2 = 0 then useCos else !useCos
    let neg := if useCos then q = 1 || q = 2 else q = 2 || q = 3
    if r = 0 && !cosLike then 0
    else normMag cosLike ca r b + (if neg then 2 ^ 31 else 0)

end Sys2Proof.Machine
end

