-- ==== Sys2Proof/Machine/Lanes.lean ====
section
/-!
DEFINITION. The values of FPU, VEC and RNG operations (R142 to R167): element by element, and over lanes.
-/
namespace Sys2Proof.Machine

/-! ## Lanes (R143) -/

/-- Element i of b bits. -/
def lane (b x i : Nat) : Nat := (x >>> (b * i)) % 2 ^ b

/-- The first n elements of b bits. -/
def lanes (b n x : Nat) : List Nat := (List.range n).map (lane b x)

/-- Elements packed again, element 0 lowest. -/
def packLanes (b : Nat) : List Nat → Nat
  | [] => 0
  | x :: xs => x % 2 ^ b + 2 ^ b * packLanes b xs

/-- Elements of a format that a VEC latch holds (R143). -/
def laneCount : Fmt → Nat
  | .fp32 | .int32 => 32
  | .bf16 | .fp16 => 64
  | .int64 => 16
  | _ => 128

/-- Lane width of an F code on sel and of the IEEE formats. -/
def laneBits (m : BitVec 3) : Nat := if m.toNat = 0 then 32 else 16

/-- A VEC result of lanes with events. -/
def landLanes (b : Nat) (l : List (Nat × Ev)) : Landing :=
  landV (BitVec.ofNat 1024 (packLanes b (l.map (·.1)))) (evAll (l.map (·.2)))

/-! ## One element (R147 to R150) -/

/-- A one- or two- or three-operand operation on encodings of a format. -/
abbrev ElemOp := Fmt → RM → (a b c : Nat) → Nat × Ev

def elemAdd : ElemOp := fun f rm a b _ => finish f rm (fAdd rm (ieeeDecode f a) (ieeeDecode f b))
def elemSub : ElemOp := fun f rm a b _ => finish f rm (fAdd rm (ieeeDecode f a) (ieeeDecode f b).negate)
def elemMul : ElemOp := fun f rm a b _ => finish f rm (fMul (ieeeDecode f a) (ieeeDecode f b))
def elemFma : ElemOp := fun f rm a b c => finish f rm (fFma rm (ieeeDecode f a) (ieeeDecode f b) (ieeeDecode f c))
def elemDiv : ElemOp := fun f rm a b _ => fDiv f rm (ieeeDecode f a) (ieeeDecode f b)
def elemSqrt : ElemOp := fun f rm a _ _ => fSqrt f rm (ieeeDecode f a)
def elemMin : ElemOp := fun f _ a b _ => ieeeMinMax f false (a % 2 ^ fmtBits f) (b % 2 ^ fmtBits f)
def elemMax : ElemOp := fun f _ a b _ => ieeeMinMax f true (a % 2 ^ fmtBits f) (b % 2 ^ fmtBits f)

/-- NV of eq and un: a signalling operand; of lt and le: any NaN (R148). -/
def cmpNv (quiet : Bool) (x y : FVal) : Ev :=
  evIf (if quiet then x.isSig || y.isSig else x.isNan || y.isNan) flagNV

def cmpEq (f : Fmt) (a b : Nat) : Bool × Ev :=
  let x := ieeeDecode f a; let y := ieeeDecode f b
  (fvalEq x y, cmpNv true x y)
def cmpLt (f : Fmt) (a b : Nat) : Bool × Ev :=
  let x := ieeeDecode f a; let y := ieeeDecode f b
  (fvalLt x y, cmpNv false x y)
def cmpLe (f : Fmt) (a b : Nat) : Bool × Ev :=
  let x := ieeeDecode f a; let y := ieeeDecode f b
  (!x.isNan && !y.isNan && !fvalLt y x, cmpNv false x y)
def cmpUn (f : Fmt) (a b : Nat) : Bool × Ev :=
  let x := ieeeDecode f a; let y := ieeeDecode f b
  (x.isNan || y.isNan, cmpNv true x y)

/-- abs and neg set no flag; a NaN gives the default NaN (R148). -/
def elemAbs : ElemOp := fun f _ a _ _ =>
  (if (ieeeDecode f a).isNan then defaultNaN f else a % 2 ^ (fmtBits f - 1), evNone)
def elemNeg : ElemOp := fun f _ a _ _ =>
  (if (ieeeDecode f a).isNan then defaultNaN f else (a % 2 ^ fmtBits f) ^^^ 2 ^ (fmtBits f - 1), evNone)

/-- FPU class (R150). -/
def elemClass : ElemOp := fun f _ a _ _ =>
  let k : Nat := match ieeeDecode f a with
    | .nan true => 8
    | .nan false => 9
    | .inf true => 0
    | .inf false => 7
    | .fin n m e =>
      let normal : Bool := !(magLt m e 1 (1 - (expBias f : Int)))
      if m = 0 then (if n then 3 else 4)
      else if n then (if normal then 1 else 2) else (if normal then 6 else 5)
  (2 ^ k, evNone)

/-! ## Conversions (R151, R152) -/

/-- May a record name this format in a conversion? -/
def convFmtOk (f : Fmt) : Bool := fmtIsIeee f || fmtIsTapered f

/-- Does a conversion's record raise FORMAT? `plain`: SCALED must be 0 (cvtf). -/
def convRecordBad (rec : Nat) (plain : Bool) : Bool :=
  recordIllFormed rec || !convFmtOk (recordFmt rec) || (plain && bit rec 4)

/-- The exact value of a source element under its record, and the events of meeting it. -/
def convSource (rec : Nat) (x scale : Nat) : FVal × Ev :=
  let v := fmtDecode (recordFmt rec) false x
  let nv := evIf v.isSig flagNV
  if bit rec 4 then
    let (w, bad) := scaleE8 scale v
    (w, evAnd nv (evIf bad (flagNV ||| flagNANP)))
  else (v, nv)

def convCvt (d : Fmt) (rm : RM) (rec x scale : Nat) : Nat × Ev :=
  let (v, e) := convSource rec x scale
  let (y, e') := narrow d rm v
  (y, evAnd e e')

/-- The integer of cvti, before it is put into its element. -/
def convCvti (m : BitVec 3) (rm : RM) (rec x scale : Nat) : Int × Ev :=
  let (v, e) := convSource rec x scale
  let (lo, hi) := intRange (wWidth m) (wSigned m)
  let (y, e') := toInt v lo hi rm
  (y, evAnd e e')

def convCvtf (m : BitVec 3) (rm : RM) (rec x : Nat) : Nat × Ev := narrow (recordFmt rec) rm (fvalOfInt (opVal m x))

/-- A VEC conversion: f takes the source element and its index over the whole register. -/
def convLanes (bs ls bd ld p : Nat) (src : Nat) (f : (x e : Nat) → Nat × Ev) : Landing :=
  let n := min ls ld
  let from_ := if n < ls then p * n else 0
  let skip := if n < ld then p * n else 0
  let rs := (List.range n).map (fun i => f (lane bs src (from_ + i)) (from_ + i))
  landLanes bd (List.replicate skip (0, evNone) ++ rs)

/-! ## Reductions (R154, R155) -/

/-- FP32 sum of two FP32 encodings. -/
def addF32 (rm : RM) (a b : Nat) : Nat × Ev := finish .fp32 rm (fAdd rm (ieeeDecode .fp32 a) (ieeeDecode .fp32 b))

/-- A lane widened to FP32, exactly; a NaN keeps being signalling. -/
def toF32 (f : Fmt) (x : Nat) : Nat :=
  match ieeeDecode f x with
  | .nan true => 0x7F800001
  | v => (roundVal .fp32 .rn v).1

/-- One lane alone: exact, a signalling NaN becoming the default NaN with NV. -/
def oneLane (x : Nat) : Nat × Ev :=
  let v := ieeeDecode .fp32 x
  ((roundVal .fp32 .rn v).1, evIf v.isSig flagNV)

/-- redadd.o: lane 0 first. -/
def sumOrdered (rm : RM) : List Nat → Nat × Ev
  | [] => (0, evNone)
  | [x] => oneLane x
  | x :: xs => xs.foldl (fun (acc : Nat × Ev) y => let (z, e) := addF32 rm acc.1 y; (z, evAnd acc.2 e)) (x, evNone)

/-- redadd.u: two terms of the list at a time, picked by the digits of a free number, until one is left. -/
def sumTree (rm : RM) : (fuel pick : Nat) → List Nat → Ev → Nat × Ev
  | 0, _, l, e => (l.headD 0, e)
  | k + 1, pick, l, e =>
    match l with
    | [] => (0, e)
    | [x] => (x, e)
    | _ =>
      let n := l.length
      let x := l.getD (pick % n) 0
      let l := l.eraseIdx (pick % n)
      let pick := pick / n
      let y := l.getD (pick % (n - 1)) 0
      let l := l.eraseIdx (pick % (n - 1))
      let (z, e') := addF32 rm x y
      sumTree rm k (pick / (n - 1)) (z :: l) (evAnd e e')

def sumUnordered (rm : RM) (pick : Nat) (l : List Nat) : Nat × Ev :=
  match l with
  | [x] => oneLane x
  | _ => sumTree rm l.length pick l evNone

/-- redmax, redmin. -/
def extremum (f : Fmt) (wantMax : Bool) (l : List Nat) : Nat × Ev :=
  let vs := l.map (ieeeDecode f)
  let nv := evIf (vs.any FVal.isSig) flagNV
  if vs.any FVal.isNan then (defaultNaN f, nv)
  else match l with
    | [] => (0, evNone)
    | x :: xs => (xs.foldl (fun acc y => (ieeeMinMax f wantMax acc y).1) x, nv)

/-! ## Block-float pairs in registers (R156) -/

def bfPair (p : Int × Int) : Nat := wrap p.1 64 + wrap p.2 32 * 2 ^ 64
def bfM (x : Nat) : Int := sext x 64
def bfX (x : Nat) : Int := sext (x >>> 64) 32

/-! ## Permutes and integer lanes (R158, R159) -/

/-- A two-operand integer lane. -/
def intLane (m : BitVec 3) (f : (a b : Nat) → Nat) (a b : Nat) : VWord :=
  let w := wWidth m
  let n := 1024 / w
  BitVec.ofNat 1024 (packLanes w ((lanes w n a).zipWith f (lanes w n b)))

def shiftOf (m : BitVec 3) (b : Nat) : Nat := bits b 5 0 % wWidth m

def vecPermVal (m : BitVec 3) (a b : Nat) : VWord :=
  let w := wWidth m
  let n := 1024 / w
  BitVec.ofNat 1024 (packLanes w ((lanes w n a).map (fun x => if bit x 7 then 0 else lane w b (bits x 6 0 % n))))

def vecBcastVal (m : BitVec 3) (a b : Nat) : VWord :=
  let w := wWidth m
  let n := 1024 / w
  BitVec.ofNat 1024 (packLanes w (List.replicate n (lane w b (bits a 6 0 % n))))

def vecRotlVal (m : BitVec 3) (a b : Nat) : VWord :=
  let w := wWidth m
  let n := 1024 / w
  let k := bits a 6 0 % n
  BitVec.ofNat 1024 (packLanes w ((List.range n).map (fun i => lane w b ((i + n - k) % n))))

/-! ## Random blocks (R164, R167) -/

/-- The block of a counter. -/
def rngBlock (seed rank sid ctr : Nat) : Nat :=
  ofBytes (shake256 (toBytes 32 seed ++ toBytes 4 rank ++ toBytes 4 sid ++ toBytes 8 ctr) 128)

/-- unif (R167): every value is exact. -/
def unifLanes (f : Fmt) (block : Nat) : Nat :=
  let b := fmtBits f
  let g (c : Nat) : Nat := match f with
    | .fp32 => (roundFin f .rn false (bits c 31 8) (-24) false).1
    | .bf16 => (roundFin f .rn false (bits c 15 8) (-8) false).1
    | _ => (roundFin f .rn false (bits c 15 5) (-11) false).1
  packLanes b ((lanes b (1024 / b) block).map g)

/-- norm (R167): FP32 first, then the lane format. -/
def normLanes (f : Fmt) (block : Nat) : Nat :=
  let b := fmtBits f
  packLanes b ((List.range (1024 / b)).map (fun i =>
    let x := normLane (i % 2 == 0) (lane b block (i / 2 * 2)) (lane b block (i / 2 * 2 + 1)) b
    if f = .fp32 then x else (roundVal f .rn (ieeeDecode .fp32 x)).1))

end Sys2Proof.Machine
end

