-- ==== Sys2Proof/Machine/Fpu.lean ====
section
/-!
DEFINITION. FPU (R142, R147, R148, R150, R151): one value at a time, results zero-extended.
-/
namespace Sys2Proof.Machine

/-- A FPU trigger on one format. -/
def fpuElem (op : FpuOp) (m : BitVec 3) (rm : BitVec 2) (f : ElemOp) : TrigMeaning :=
  computeMeaning (.fpu op rm) m (fun _ => none) (fun a b c _ =>
    let (x, e) := f (fmtOfF m) (rmOf rm) (lo64 a) (lo64 b) (lo64 c)
    { landQ (word x) with ev := e })

/-- A compare: 1 or 0 (R148). -/
def fpuCmp (op : FpuOp) (m : BitVec 3) (f : Fmt → (a b : Nat) → Bool × Ev) : TrigMeaning :=
  computeMeaning (.fpu op 0) m (fun _ => none) (fun a b _ _ =>
    let (x, e) := f (fmtOfF m) (lo64 a) (lo64 b)
    { landQ (truth x) with ev := e })

/-- A conversion: FORMAT when the record in `.b` is refused (R151). -/
def fpuConv (op : FpuOp) (m : BitVec 3) (rm : BitVec 2) (plain : Bool) (f : (rec x scale : Nat) → Word × Ev) : TrigMeaning :=
  computeMeaning (.fpu op rm) m
    (fun l => if convRecordBad (bits l.b.toNat 31 0) plain then some (0x08, word (bits l.b.toNat 31 0)) else none)
    (fun a b c _ =>
      let (x, e) := f (bits b.toNat 31 0) (lo64 a) (bits c.toNat 7 0)
      { landQ x with ev := e })

/-- R147 add. -/
def fpuAddMeaning (m : BitVec 3) (rm : BitVec 2) : TrigMeaning := fpuElem .add m rm elemAdd
def execFpuAdd (m : BitVec 3) (rm : BitVec 2) (s : State) : Host.Outcome State Fault Refusal :=
  runTrigger (fpuAddMeaning m rm) m s

/-- R147 sub. -/
def fpuSubMeaning (m : BitVec 3) (rm : BitVec 2) : TrigMeaning := fpuElem .sub m rm elemSub
def execFpuSub (m : BitVec 3) (rm : BitVec 2) (s : State) : Host.Outcome State Fault Refusal :=
  runTrigger (fpuSubMeaning m rm) m s

/-- R147 mul. -/
def fpuMulMeaning (m : BitVec 3) (rm : BitVec 2) : TrigMeaning := fpuElem .mul m rm elemMul
def execFpuMul (m : BitVec 3) (rm : BitVec 2) (s : State) : Host.Outcome State Fault Refusal :=
  runTrigger (fpuMulMeaning m rm) m s

/-- R147 fma. -/
def fpuFmaMeaning (m : BitVec 3) (rm : BitVec 2) : TrigMeaning := fpuElem .fma m rm elemFma
def execFpuFma (m : BitVec 3) (rm : BitVec 2) (s : State) : Host.Outcome State Fault Refusal :=
  runTrigger (fpuFmaMeaning m rm) m s

/-- R147 div. -/
def fpuDivMeaning (m : BitVec 3) (rm : BitVec 2) : TrigMeaning := fpuElem .div m rm elemDiv
def execFpuDiv (m : BitVec 3) (rm : BitVec 2) (s : State) : Host.Outcome State Fault Refusal :=
  runTrigger (fpuDivMeaning m rm) m s

/-- R147 sqrt. -/
def fpuSqrtMeaning (m : BitVec 3) (rm : BitVec 2) : TrigMeaning := fpuElem .sqrt m rm elemSqrt
def execFpuSqrt (m : BitVec 3) (rm : BitVec 2) (s : State) : Host.Outcome State Fault Refusal :=
  runTrigger (fpuSqrtMeaning m rm) m s

/-- R151 cvt. -/
def fpuCvtMeaning (m : BitVec 3) (rm : BitVec 2) : TrigMeaning :=
  fpuConv .cvt m rm false (fun rec x scale =>
    let (y, e) := convCvt (fmtOfF m) (rmOf rm) rec x scale
    (word y, e))
def execFpuCvt (m : BitVec 3) (rm : BitVec 2) (s : State) : Host.Outcome State Fault Refusal :=
  runTrigger (fpuCvtMeaning m rm) m s

/-- R151 cvti. -/
def fpuCvtiMeaning (m : BitVec 3) (rm : BitVec 2) : TrigMeaning :=
  fpuConv .cvti m rm false (fun rec x scale =>
    let (y, e) := convCvti m (rmOf rm) rec x scale
    (word (wrap y (wWidth m)), e))
def execFpuCvti (m : BitVec 3) (rm : BitVec 2) (s : State) : Host.Outcome State Fault Refusal :=
  runTrigger (fpuCvtiMeaning m rm) m s

/-- R151 cvtf. -/
def fpuCvtfMeaning (m : BitVec 3) (rm : BitVec 2) : TrigMeaning :=
  fpuConv .cvtf m rm true (fun rec x _ =>
    let (y, e) := convCvtf m (rmOf rm) rec x
    (word y, e))
def execFpuCvtf (m : BitVec 3) (rm : BitVec 2) (s : State) : Host.Outcome State Fault Refusal :=
  runTrigger (fpuCvtfMeaning m rm) m s

/-- R148 min. -/
def fpuMinMeaning (m : BitVec 3) : TrigMeaning := fpuElem .min m 0 elemMin
def execFpuMin (m : BitVec 3) (s : State) : Host.Outcome State Fault Refusal := runTrigger (fpuMinMeaning m) m s

/-- R148 max. -/
def fpuMaxMeaning (m : BitVec 3) : TrigMeaning := fpuElem .max m 0 elemMax
def execFpuMax (m : BitVec 3) (s : State) : Host.Outcome State Fault Refusal := runTrigger (fpuMaxMeaning m) m s

/-- R148 eq. -/
def fpuEqMeaning (m : BitVec 3) : TrigMeaning := fpuCmp .eq m cmpEq
def execFpuEq (m : BitVec 3) (s : State) : Host.Outcome State Fault Refusal := runTrigger (fpuEqMeaning m) m s

/-- R148 lt. -/
def fpuLtMeaning (m : BitVec 3) : TrigMeaning := fpuCmp .lt m cmpLt
def execFpuLt (m : BitVec 3) (s : State) : Host.Outcome State Fault Refusal := runTrigger (fpuLtMeaning m) m s

/-- R148 le. -/
def fpuLeMeaning (m : BitVec 3) : TrigMeaning := fpuCmp .le m cmpLe
def execFpuLe (m : BitVec 3) (s : State) : Host.Outcome State Fault Refusal := runTrigger (fpuLeMeaning m) m s

/-- R148 un. -/
def fpuUnMeaning (m : BitVec 3) : TrigMeaning := fpuCmp .un m cmpUn
def execFpuUn (m : BitVec 3) (s : State) : Host.Outcome State Fault Refusal := runTrigger (fpuUnMeaning m) m s

/-- R148 abs. -/
def fpuAbsMeaning (m : BitVec 3) : TrigMeaning := fpuElem .abs m 0 elemAbs
def execFpuAbs (m : BitVec 3) (s : State) : Host.Outcome State Fault Refusal := runTrigger (fpuAbsMeaning m) m s

/-- R148 neg. -/
def fpuNegMeaning (m : BitVec 3) : TrigMeaning := fpuElem .neg m 0 elemNeg
def execFpuNeg (m : BitVec 3) (s : State) : Host.Outcome State Fault Refusal := runTrigger (fpuNegMeaning m) m s

/-- R150 class. -/
def fpuClassMeaning (m : BitVec 3) : TrigMeaning := fpuElem .cls m 0 elemClass
def execFpuClass (m : BitVec 3) (s : State) : Host.Outcome State Fault Refusal := runTrigger (fpuClassMeaning m) m s

end Sys2Proof.Machine
end

