-- ==== Sys2Proof/Machine/Lsu.lean ====
section
/-!
DEFINITION. LSU: scratchpad loads, stores, full-empty operations and atomics (R118 to R122), fences (R123), and the
commons triggers (R222 to R228).
-/
namespace Sys2Proof.Machine

/-- The effective address in `.a` (R118). -/
def lsuEa (s : State) (r : SRef) : Nat := (s.slot r).lat.lsu.a.toNat

/-- Acceptance checks of a scratchpad access of n bytes (R118, R207): bounds, the port store for a write, alignment. -/
def spCheck (n align : Nat) (writes : Bool) (s : State) (r : SRef) : Option (Nat × Word) :=
  let ea := lsuEa s r
  if !inBounds ea n || (writes && (s.vt r.vt).overlapsPorts ea n) then some (0x09, word ea)
  else if ea % align != 0 then some (0x0A, word ea)
  else none

/-- A load, full-empty operation or atomic: performed in trigger order (R125). -/
def spMeaning (op : LsuOp) (m : BitVec 3) (n align : Nat) (writes : Bool) : TrigMeaning :=
  { trig := .lsu op
    stall := noStall
    check := spCheck n align writes
    fire := fun s r => s.fireSp r (.lsu op) m }

/-- A store: it enters the store buffer and leaves the result latches alone (R119, R124). -/
def storeMeaning (op : LsuOp) (kind : SbKind) (m : BitVec 3) : TrigMeaning :=
  { trig := .lsu op
    stall := noStall
    check := spCheck (wWidth m / 8) (wWidth m / 8) true
    fire := fun s r => s.modSlot r (fun sl =>
      (sl.buffer kind sl.lat.lsu.a.toNat (wWidth m / 8) (sl.lat.lsu.b.setWidth 1024)).fire (.lsu op) m landNothing) }

/-- A fence trigger: its ordering takes effect at acceptance; fence and rel tag the later writes (R123, R263, R266), and
those of scope DOMAIN wait for the slot's copies to memory too (R281). -/
def fenceMeaning (op : LsuOp) (m : BitVec 3) (f : (sl : Slot) → (tag : RelTag) → Slot) : TrigMeaning :=
  { trig := .lsu op
    stall := noStall
    check := noCheck
    fire := fun s r =>
      let tag := s.makeTag r m.toNat
      s.modSlot r (fun sl => (f sl tag).fire (.lsu op) m (landQ 0)) }

/-- Acceptance checks of a commons operation (R222). -/
def commonsCheck (op : LsuOp) (m : BitVec 3) (s : State) (r : SRef) : Option (Nat × Word) :=
  let ea := lsuEa s r
  let n := commonsBytes op m
  if (s.ctx r.vt.ctx).desc.cpsize * 2 ^ 20 < ea + n then some (0x1A, word ea)
  else if ea % n != 0 then some (0x0A, word ea)
  else none

/-- A commons operation other than c.st goes to its bank; an ordered update takes OSEQ (R223, R225). -/
def commonsMeaning (op : LsuOp) (m : BitVec 3) : TrigMeaning :=
  { trig := .lsu op
    stall := noStall
    check := commonsCheck op m
    fire := fun s r =>
      let v := r.vt
      let sl := s.slot r
      let f := sl.newFlight (.lsu op) m false none
      let u : BankOp :=
        { id := (s.ctx v.ctx).nextId, rank := v.rank, slot := r.slot.val, fser := sl.fser, fid := f.id, op := op, mod := m,
          ea := sl.lat.lsu.a.toNat, b := sl.lat.lsu.b, c := sl.lat.lsu.c, oseq := (s.vt v).oseq, ix := sl.ix,
          tag := sl.relTag }
      let s := s.modSlot r (fun sl => sl.launch f)
      let s := if commonsOrdered op then s.modVt v (fun t => { t with oseq := (t.oseq + 1) % 2 ^ 32 }) else s
      s.inCtx v.ctx (fun c => { c with bankOps := c.bankOps ++ [u], nextId := c.nextId + 1 }) }

/-- R119 ld. -/
def lsuLdMeaning (m : BitVec 3) : TrigMeaning := spMeaning .ld m (wWidth m / 8) (wWidth m / 8) false
def execLsuLd (m : BitVec 3) (s : State) : Host.Outcome State Fault Refusal := runTrigger (lsuLdMeaning m) m s

/-- R119 st. -/
def lsuStMeaning (m : BitVec 3) : TrigMeaning := storeMeaning .st .st m
def execLsuSt (m : BitVec 3) (s : State) : Host.Outcome State Fault Refusal := runTrigger (lsuStMeaning m) m s

/-- R119 ld.wf: waits until the word is full. -/
def lsuLdWfMeaning (m : BitVec 3) : TrigMeaning := spMeaning .ldWf m (wWidth m / 8) (wWidth m / 8) false
def execLsuLdWf (m : BitVec 3) (s : State) : Host.Outcome State Fault Refusal := runTrigger (lsuLdWfMeaning m) m s

/-- R119 ld.take: waits, reads and empties. -/
def lsuLdTakeMeaning (m : BitVec 3) : TrigMeaning := spMeaning .ldTake m (wWidth m / 8) (wWidth m / 8) false
def execLsuLdTake (m : BitVec 3) (s : State) : Host.Outcome State Fault Refusal := runTrigger (lsuLdTakeMeaning m) m s

/-- R119 st.fill: the word is set full when the store leaves the buffer. -/
def lsuStFillMeaning (m : BitVec 3) : TrigMeaning := storeMeaning .stFill .stFill m
def execLsuStFill (m : BitVec 3) (s : State) : Host.Outcome State Fault Refusal := runTrigger (lsuStFillMeaning m) m s

/-- R121 fe.rd. -/
def lsuFeRdMeaning (m : BitVec 3) : TrigMeaning := spMeaning .feRd m 1 1 false
def execLsuFeRd (m : BitVec 3) (s : State) : Host.Outcome State Fault Refusal := runTrigger (lsuFeRdMeaning m) m s

/-- R121 fe.clr. -/
def lsuFeClrMeaning (m : BitVec 3) : TrigMeaning := spMeaning .feClr m 1 1 false
def execLsuFeClr (m : BitVec 3) (s : State) : Host.Outcome State Fault Refusal := runTrigger (lsuFeClrMeaning m) m s

/-- R122 a.add. -/
def lsuAAddMeaning (m : BitVec 3) : TrigMeaning := spMeaning .aAdd m (wWidth m / 8) (wWidth m / 8) true
def execLsuAAdd (m : BitVec 3) (s : State) : Host.Outcome State Fault Refusal := runTrigger (lsuAAddMeaning m) m s

/-- R122 a.and. -/
def lsuAAndMeaning (m : BitVec 3) : TrigMeaning := spMeaning .aAnd m (wWidth m / 8) (wWidth m / 8) true
def execLsuAAnd (m : BitVec 3) (s : State) : Host.Outcome State Fault Refusal := runTrigger (lsuAAndMeaning m) m s

/-- R122 a.or. -/
def lsuAOrMeaning (m : BitVec 3) : TrigMeaning := spMeaning .aOr m (wWidth m / 8) (wWidth m / 8) true
def execLsuAOr (m : BitVec 3) (s : State) : Host.Outcome State Fault Refusal := runTrigger (lsuAOrMeaning m) m s

/-- R122 a.xor. -/
def lsuAXorMeaning (m : BitVec 3) : TrigMeaning := spMeaning .aXor m (wWidth m / 8) (wWidth m / 8) true
def execLsuAXor (m : BitVec 3) (s : State) : Host.Outcome State Fault Refusal := runTrigger (lsuAXorMeaning m) m s

/-- R122 a.min. -/
def lsuAMinMeaning (m : BitVec 3) : TrigMeaning := spMeaning .aMin m (wWidth m / 8) (wWidth m / 8) true
def execLsuAMin (m : BitVec 3) (s : State) : Host.Outcome State Fault Refusal := runTrigger (lsuAMinMeaning m) m s

/-- R122 a.max. -/
def lsuAMaxMeaning (m : BitVec 3) : TrigMeaning := spMeaning .aMax m (wWidth m / 8) (wWidth m / 8) true
def execLsuAMax (m : BitVec 3) (s : State) : Host.Outcome State Fault Refusal := runTrigger (lsuAMaxMeaning m) m s

/-- R122 a.cas. -/
def lsuACasMeaning (m : BitVec 3) : TrigMeaning := spMeaning .aCas m (wWidth m / 8) (wWidth m / 8) true
def execLsuACas (m : BitVec 3) (s : State) : Host.Outcome State Fault Refusal := runTrigger (lsuACasMeaning m) m s

/-- R122 a.swap. -/
def lsuASwapMeaning (m : BitVec 3) : TrigMeaning := spMeaning .aSwap m (wWidth m / 8) (wWidth m / 8) true
def execLsuASwap (m : BitVec 3) (s : State) : Host.Outcome State Fault Refusal := runTrigger (lsuASwapMeaning m) m s

/-- R123 fence. -/
def lsuFenceMeaning (m : BitVec 3) : TrigMeaning := fenceMeaning .fence m
  (fun sl tag => { sl with
    barFence := sl.nextId, barRel := sl.nextId, barAcq := sl.nextId, relTag := some tag
    barFenceDo := if tag.scope = 4 then sl.nextId else sl.barFenceDo })
def execLsuFence (m : BitVec 3) (s : State) : Host.Outcome State Fault Refusal := runTrigger (lsuFenceMeaning m) m s

/-- R123 rel. -/
def lsuRelMeaning (m : BitVec 3) : TrigMeaning := fenceMeaning .rel m (fun sl tag => { sl with
    barRel := sl.nextId, relTag := some tag
    barRelDo := if tag.scope = 4 then sl.nextId else sl.barRelDo })
def execLsuRel (m : BitVec 3) (s : State) : Host.Outcome State Fault Refusal := runTrigger (lsuRelMeaning m) m s

/-- R123 acq. -/
def lsuAcqMeaning (m : BitVec 3) : TrigMeaning := fenceMeaning .acq m (fun sl _ => { sl with barAcq := sl.nextId })
def execLsuAcq (m : BitVec 3) (s : State) : Host.Outcome State Fault Refusal := runTrigger (lsuAcqMeaning m) m s

/-- R224 c.ld. -/
def lsuCLdMeaning (m : BitVec 3) : TrigMeaning := commonsMeaning .cLd m
def execLsuCLd (m : BitVec 3) (s : State) : Host.Outcome State Fault Refusal := runTrigger (lsuCLdMeaning m) m s

/-- R223 c.st: it enters the slot's store buffer; `.q` := 0. -/
def lsuCStMeaning (m : BitVec 3) : TrigMeaning :=
  { trig := .lsu .cSt
    stall := noStall
    check := commonsCheck .cSt m
    fire := fun s r => s.modSlot r (fun sl =>
      (sl.buffer .cSt sl.lat.lsu.a.toNat (wWidth m / 8) (sl.lat.lsu.b.setWidth 1024)).fire (.lsu .cSt) m (landQ 0)) }
def execLsuCSt (m : BitVec 3) (s : State) : Host.Outcome State Fault Refusal := runTrigger (lsuCStMeaning m) m s

/-- R224, R225 c.add.o. -/
def lsuCAddOMeaning (m : BitVec 3) : TrigMeaning := commonsMeaning .cAddO m
def execLsuCAddO (m : BitVec 3) (s : State) : Host.Outcome State Fault Refusal := runTrigger (lsuCAddOMeaning m) m s

/-- R224, R225 c.add.u. -/
def lsuCAddUMeaning (m : BitVec 3) : TrigMeaning := commonsMeaning .cAddU m
def execLsuCAddU (m : BitVec 3) (s : State) : Host.Outcome State Fault Refusal := runTrigger (lsuCAddUMeaning m) m s

/-- R224, R225 c.min.o. -/
def lsuCMinOMeaning (m : BitVec 3) : TrigMeaning := commonsMeaning .cMinO m
def execLsuCMinO (m : BitVec 3) (s : State) : Host.Outcome State Fault Refusal := runTrigger (lsuCMinOMeaning m) m s

/-- R224, R225 c.min.u. -/
def lsuCMinUMeaning (m : BitVec 3) : TrigMeaning := commonsMeaning .cMinU m
def execLsuCMinU (m : BitVec 3) (s : State) : Host.Outcome State Fault Refusal := runTrigger (lsuCMinUMeaning m) m s

/-- R224, R225 c.max.o. -/
def lsuCMaxOMeaning (m : BitVec 3) : TrigMeaning := commonsMeaning .cMaxO m
def execLsuCMaxO (m : BitVec 3) (s : State) : Host.Outcome State Fault Refusal := runTrigger (lsuCMaxOMeaning m) m s

/-- R224, R225 c.max.u. -/
def lsuCMaxUMeaning (m : BitVec 3) : TrigMeaning := commonsMeaning .cMaxU m
def execLsuCMaxU (m : BitVec 3) (s : State) : Host.Outcome State Fault Refusal := runTrigger (lsuCMaxUMeaning m) m s

/-- R224, R225 c.cas.o. -/
def lsuCCasOMeaning (m : BitVec 3) : TrigMeaning := commonsMeaning .cCasO m
def execLsuCCasO (m : BitVec 3) (s : State) : Host.Outcome State Fault Refusal := runTrigger (lsuCCasOMeaning m) m s

/-- R224, R225 c.cas.u. -/
def lsuCCasUMeaning (m : BitVec 3) : TrigMeaning := commonsMeaning .cCasU m
def execLsuCCasU (m : BitVec 3) (s : State) : Host.Outcome State Fault Refusal := runTrigger (lsuCCasUMeaning m) m s

/-- R224, R225 c.swap.o. -/
def lsuCSwapOMeaning (m : BitVec 3) : TrigMeaning := commonsMeaning .cSwapO m
def execLsuCSwapO (m : BitVec 3) (s : State) : Host.Outcome State Fault Refusal := runTrigger (lsuCSwapOMeaning m) m s

/-- R224, R225 c.swap.u. -/
def lsuCSwapUMeaning (m : BitVec 3) : TrigMeaning := commonsMeaning .cSwapU m
def execLsuCSwapU (m : BitVec 3) (s : State) : Host.Outcome State Fault Refusal := runTrigger (lsuCSwapUMeaning m) m s

/-- R228 c.decq. -/
def lsuCDecqMeaning (m : BitVec 3) : TrigMeaning := commonsMeaning .cDecq m
def execLsuCDecq (m : BitVec 3) (s : State) : Host.Outcome State Fault Refusal := runTrigger (lsuCDecqMeaning m) m s

end Sys2Proof.Machine
end

