-- ==== Sys2Proof/Machine/Engines.lean ====
section
/-!
DEFINITION. What engines share: where a vtile runs (R284, R318), whether a landing has to wait for a unit (R284, R332),
B-store bytes (R169, R285), rows of packed elements (R54), and the message of a format fault at an engine step (R354).
-/
namespace Sys2Proof.Machine

/-! ## Where a vtile runs -/

/-- Does a cut hold the contexts that take recovery points (R364)? -/
def State.cutHolds (s : State) (ctx : Nat) : Bool := s.recovery.cutting && (s.ctx ctx).regs.rp

/-- Does it run: in the current bank, not halted (R362), and not stopped by a cut (R364)? -/
def State.running (s : State) (v : VRef) : Bool := s.active v && !(s.vt v).halted && !s.cutHolds v.ctx

/-! ## Rows of packed elements (R54) -/

/-- Bytes(F, n) of R177. -/
def rowBytes (f : Fmt) (n : Nat) : Nat := match f with
  | .t6 => 3 * ceilDiv n 4
  | _ => fmtBits f / 8 * n

/-- First bit of element k in its row. -/
def elemBit (f : Fmt) (k : Nat) : Nat := match f with
  | .t6 => 24 * (k / 4) + 6 * (k % 4)
  | _ => fmtBits f * k

/-- The bytes of a row that hold a bit of element k: offset and count. -/
def elemSpan (f : Fmt) (k : Nat) : Nat × Nat :=
  let lo := elemBit f k / 8
  let hi := (elemBit f k + fmtBits f - 1) / 8
  (lo, hi + 1 - lo)

/-- Element k of a row whose bytes a function reads. -/
def elemOf (f : Fmt) (k : Nat) (read : (off n : Nat) → Nat) : Nat :=
  let (off, n) := elemSpan f k
  (read off n >>> (elemBit f k % 8)) % 2 ^ fmtBits f

/-- Pack a row of codes; padding codes are zero (R54). -/
def packRow (f : Fmt) (codes : List Nat) : List Byte :=
  toBytes (rowBytes f codes.length)
    (((List.range codes.length).zip codes).foldl (fun acc p => acc + (p.2 % 2 ^ fmtBits f) * 2 ^ elemBit f p.1) 0)

/-! ## B-store (R169, R285, R197) -/

def bsKey (col off : Nat) : Nat := 131072 * col + off

/-- Does the unit of an offset of a column lie in the image? -/
def Matrix.bsUnitOut (m : Matrix) (col off : Nat) : Bool := setHas m.bsOut (16 * col + off / 8192)

/-- A byte of a slice; bytes at BHWM or above read as zero (R169). -/
def Matrix.bsGet (m : Matrix) (col off : Nat) : Byte := if m.bhwm ≤ off then 0 else memGet m.bstore (bsKey col off)

def Matrix.bsRead (m : Matrix) (col off : Nat) : (n : Nat) → Nat
  | 0 => 0
  | n + 1 => (m.bsGet col off).toNat + 256 * m.bsRead col (off + 1) n

/-- The key of a bit of a slice, by which errors are marked: an element of T6 may lie across bytes (R54). -/
def bsBit (col off bit : Nat) : Nat := 8 * bsKey col off + bit

/-- Do any of w bits from bit lo of a byte of a slice hold an uncorrectable error? -/
def Matrix.bsBad (m : Matrix) (col off lo w : Nat) : Bool :=
  (List.range w).any (fun i => off + (lo + i) / 8 < m.bhwm && Tbl.getD m.bpoison (bsBit col off (lo + i)) false)

/-- Mark bits of the B-store with uncorrectable errors. -/
def markBits (m : Tbl Bool) (k : Nat) (n : Nat) : Tbl Bool := (List.range n).foldl (fun m i => Tbl.put m (k + i) true) m

/-- Mark the 64-byte line that holds a byte of the B-store, given by its key: every element of it reads as zero (R286). -/
def markLine (m : Tbl Bool) (key : Nat) : Tbl Bool := markBits m (8 * (key / 64 * 64)) 512

/-- Move a B-store unit to the image, in plain text (R286), as whole bursts. -/
def State.spillBs (s : State) (v : VRef) (col u : Nat) : State :=
  let lo := bsKey col (8192 * u)
  let img := s.image v + 0x800000
  let cells := memShift (memRange (s.vt v).mx.bstore lo 8192) lo (img + lo)
  ((s.modRim (fun m => memReplace m (img + lo) 8192 cells)).cleanBursts (img + lo) 8192).modVt v (fun t => { t with mx := { t.mx with
    bstore := memReplace t.mx.bstore lo 8192 []
    bsOut := setIns t.mx.bsOut (16 * col + u) } })

/-- Write bits [lo, lo + w) of a byte of a slice, where the byte now lies, with the error mark of its source. A unit of a
vtile that has stopped, or that is out of the tile, lies in the image (R197). -/
def State.bsPutBits (s : State) (v : VRef) (col off lo w val : Nat) (bad : Bool) : State :=
  let s := if (s.vt v).loc == .resident || (s.vt v).mx.bsUnitOut col off then s else s.spillBs v col (off / 8192)
  let out := (s.vt v).mx.bsUnitOut col off
  let at_ := s.image v + 0x800000 + bsKey col off
  let old := if out then memGet s.rim.mem at_ else memGet (s.vt v).mx.bstore (bsKey col off)
  let new := BitVec.ofNat 8 (setBits old.toNat (lo + w - 1) lo val)
  let s := if out then s.modRim (fun m => memPut m at_ new)
    else s.modVt v (fun t => { t with mx := { t.mx with bstore := memPut t.mx.bstore (bsKey col off) new } })
  s.modVt v (fun t => { t with mx := { t.mx with
    bpoison := if bad then markBits t.mx.bpoison (bsBit col off lo) w
      else (List.range w).foldl (fun m i => Tbl.del m (bsBit col off (lo + i))) t.mx.bpoison } })

/-- Land one byte, byte `off` of source row k, of a BLOAD whose rows hold n elements from slice j0 on, at element k from
boff (R181). In T6 the last row clears the padding codes of its group (R54). -/
def State.bloadByte (s : State) (v : VRef) (f : Fmt) (j0 boff k kb n off : Nat) (b : Byte) (bad : Bool) : State :=
  match f with
  | .t6 =>
    (List.range 8).foldl (fun s t =>
      let q := 8 * off + t
      let c := 4 * (q / 24) + q % 24 / 6
      if n ≤ c then s
      else
        let d := 6 * (k % 4) + q % 24 % 6
        let s := s.bsPutBits v (j0 + c) (boff + 3 * (k / 4) + d / 8) (d % 8) 1 (b2n (b.getLsbD t)) bad
        if k + 1 = kb && q % 24 % 6 = 5 then
          (List.range (23 - d)).foldl (fun s e =>
            s.bsPutBits v (j0 + c) (boff + 3 * (k / 4) + (d + 1 + e) / 8) ((d + 1 + e) % 8) 1 0 bad) s
        else s) s
  | _ =>
    let es := fmtBits f / 8
    if n ≤ off / es then s
    else s.bsPutBits v (j0 + off / es) (boff + k * es + off % es) 0 8 b.toNat bad

/-- Land bytes of source row k from byte `off` on, in order. -/
def State.bloadBytes (s : State) (v : VRef) (f : Fmt) (j0 boff k kb n off : Nat) (bad : Nat → Bool) :
    List Byte → State
  | [] => s
  | b :: bs => (s.bloadByte v f j0 boff k kb n off b (bad off)).bloadBytes v f j0 boff k kb n (off + 1) bad bs

/-! ### Lines of the B-store (R286, R294) -/

/-- A line of the tile's B-store, by column and offset (R294). -/
def bsLine (col off : Nat) : Nat := col * 2 ^ 11 + off / 64

/-- Write lines of the B-store of the tile in which a vtile lies: each version rises; with one spent the write is refused
and the context torn down. -/
def State.bsWriteLines (s : State) (v : VRef) (lines : List Nat) (write : State → State) : State :=
  let site := (s.vt v).site
  let ver (t : Tile) (l : Nat) : Nat := Tbl.getD t.bver l 0
  if lines.any (fun l => decide (2 ^ 56 - 1 ≤ ver (s.tile site) l)) then s.startTeardown v.ctx 0x13
  else write (s.modTile site (fun t => { t with bver := lines.foldl (fun m l => Tbl.put m l (Tbl.getD m l 0 + 1)) t.bver }))

/-- The lines that bytes of source row k land in, those of units in the image left out. -/
def State.bloadLines (s : State) (v : VRef) (f : Fmt) (j0 boff k n off len : Nat) : List Nat :=
  let (lo, w) := elemSpan f k
  let bitsIn := 8 * len
  let cols := (List.range n).filter (fun c => runsMeet (elemBit f c) (fmtBits f) (8 * off) bitsIn)
  ((cols.flatMap (fun c => [(j0 + c, boff + lo), (j0 + c, boff + lo + w - 1)])).filter (fun p =>
    (s.vt v).loc == .resident && !(s.vt v).mx.bsUnitOut p.1 p.2)).map (fun p => bsLine p.1 p.2) |>.eraseDups

/-- Land bytes of source row k, as one write of the lines they lie in. -/
def State.bloadLand (s : State) (v : VRef) (f : Fmt) (j0 boff k kb n off : Nat) (bad : Nat → Bool) (bs : List Byte) : State :=
  s.bsWriteLines v (s.bloadLines v f j0 boff k n off bs.length) (fun s => s.bloadBytes v f j0 boff k kb n off bad bs)

/-! ## Reading scratchpad for an engine -/

/-- Bytes of scratchpad, in order. -/
def State.spBytes (s : State) (v : VRef) (a n : Nat) : List Byte := (List.range n).map (fun i => s.spGet v (a + i))

/-! ## A format record met at an engine step (R63, R354) -/

/-- The vtile is format-held and the message names the issuing instruction and slot. -/
def State.formatFault (s : State) (v : VRef) (slot ix record va : Nat) : State :=
  let tc := tcauseWord { code := 0x08, tval := word record, tinst := word ix, move := 7, pair2 := false } true false
  s.holdVtile v true 0x22 [tc, word record, word ix, word slot, word va]

/-! ## Tile faults (R333, R334) -/

/-- Is the condition of a parked slot true, whether or not its vtile is there to act on it? -/
def State.parkTrue (s : State) (r : SRef) : Bool :=
  let sl := s.slot r
  match sl.status, sl.park with
  | .parked, some (.pending u) => sl.ops.any (fun f => f.unit == u && !f.performed &&
      (if f.trig == .cpe .cwait then decide ((s.vt r.vt).unfin ≤ f.ea) else s.feAll r.vt f.ea f.bytes))
  | .parked, some c => s.condHolds r c
  | _, _ => false

/-- An event that demands an absent flock: the first after each rotation out makes it ready and is reported; none for a
halted vtile (R362). -/
def State.tileFault (s : State) (v : VRef) (cause : Nat) : State :=
  let t := s.vt v
  let fl := s.flock v.ctx t.flock
  if fl.st == .rotatedOut && !fl.faultRaised && !t.halted then
    let s := s.modFlock v.ctx t.flock (fun f =>
      { f with faultRaised := true, ready := true, waitStart := (if f.ready then f.waitStart else s.regs.cycle) })
    if bit (s.ctx v.ctx).desc.flags 3 then
      s.postSup v.ctx 0xFFFFFF 0 0 0x28 [destWord v.rank 0 t.inc, word (t.flock + cause * 2 ^ 14)]
    else s
  else s

/-- After a landing in the image of an absent vtile: did it make the condition of a parked slot true? -/
def State.landedAt (s : State) (before : State) (v : VRef) : State :=
  if (s.vt v).loc == .absent && (List.range 8).any (fun i =>
      s.parkTrue ⟨v, Fin.ofNat 8 i⟩ && !before.parkTrue ⟨v, Fin.ofNat 8 i⟩) then s.tileFault v 1
  else s

/-! ## Scope misses (R277 to R279) -/

/-- The check of a tagged write against its reader's place: a stripped one is reported. `loc`, `location` and `seqno` are
the words of the report. Answers whether it was stripped. -/
def State.checkTag (s : State) (ctx : Nat) (tag : RelTag) (need loc : Nat) (location seqno : Word) : State × Bool :=
  if s.tagScope tag < need then
    (s.inCtx ctx (fun c => { c with
      misses := c.misses ++ [{ id := c.nextId, tag := tag, need := need, loc := loc, where_ := location, seqno := seqno }]
      nextId := c.nextId + 1 }), true)
  else (s, false)

/-- Span of a release and a destination vtile. -/
def State.tagNeed (s : State) (tag : RelTag) (v : VRef) : Nat := tagSpan tag v.rank (s.vt v).inc (s.vt v).site?

end Sys2Proof.Machine
end

