-- ==== Sys2Proof/Machine/Matrix.lean ====
section
/-!
DEFINITION. The matrix command port (chapter 06): the triggers MXQ.cmd and MXQ.poll, the acceptance checks of a command
(R177), and the commands one by one, each in the steps at whose boundaries a flip or a halt may stop it (R197).
-/
namespace Sys2Proof.Machine

/-! ## Fields of a command (R173 to R175) -/

def mxF (c : LineWord) (hi lo : Nat) : Nat := bits c.toNat hi lo
def mxOp (c : LineWord) : Nat := mxF c 3 0
def mxNT (c : LineWord) : Bool := bit c.toNat 4
def mxFD (c : LineWord) : Bool := bit c.toNat 5
def mxM (c : LineWord) : Nat := mxF c 13 8 + 1
def mxN (c : LineWord) : Nat := mxF c 19 14 + 1
def mxK (c : LineWord) : Nat := mxF c 28 20
def mxKB (c : LineWord) : Nat := mxF c 49 32
def mxABase (c : LineWord) : Nat := mxF c 85 64
def mxAPitch (c : LineWord) : Nat := mxF c 117 96
def mxAFmt (c : LineWord) : Nat := mxF c 159 128
def mxBFmt (c : LineWord) : Nat := mxF c 191 160
def mxBOff (c : LineWord) : Nat := mxF c 208 192
def mxJ0 (c : LineWord) : Nat := mxF c 214 209
def mxRim (c : LineWord) : Bool := bit c.toNat 215
def mxKOrg (c : LineWord) : Nat := mxF c 255 224
def mxASBase (c : LineWord) : Nat := mxF c 277 256
def mxASPitch (c : LineWord) : Nat := mxF c 299 288
def mxVAddr (c : LineWord) : Nat := mxF c 319 256
def mxBSBase (c : LineWord) : Nat := mxF c 341 320
def mxBSPitch (c : LineWord) : Nat := mxF c 363 352
def mxCBase (c : LineWord) : Nat := mxF c 405 384
def mxCPitch (c : LineWord) : Nat := mxF c 437 416
def mxCFmt (c : LineWord) : Nat := mxF c 479 448
def mxRM (c : LineWord) : RM := rmOf (BitVec.ofNat 2 (mxF c 481 480))
def mxZC (c : LineWord) : Bool := bit c.toNat 482
def mxSC (c : LineWord) : Bool := bit c.toNat 483
def mxAddr (c : LineWord) : Nat := mxF c 85 64
def mxWK (c : LineWord) : Nat := mxF c 97 96
def mxClr (c : LineWord) : Bool := bit c.toNat 96
def mxG (c : LineWord) : Nat := mxF c 159 128

/-- Is it an MMA? -/
def mxIsMma (c : LineWord) : Bool := mxOp c == 3 || mxOp c == 4

/-- Does it drain? -/
def mxDrains (c : LineWord) : Bool := mxOp c == 5 || (mxIsMma c && mxFD c)

/-- Bit ranges that a command uses, its OP included (R174, R175). -/
def mxUsed (c : LineWord) : List (Nat × Nat) :=
  let drain := [(405, 384), (437, 416), (479, 448), (481, 480), (482, 482), (483, 483)]
  (3, 0) :: match mxOp c with
    | 0 => [(13, 8), (19, 14)]
    | 1 => [(13, 8), (19, 14), (85, 64), (117, 96), (159, 128)]
    | 2 => [(19, 14), (49, 32), (117, 96), (159, 128), (208, 192), (214, 209), (215, 215)]
        ++ (if mxRim c then [(319, 256)] else [(85, 64)])
    | 3 | 4 => [(4, 4), (5, 5), (13, 8), (19, 14), (28, 20), (85, 64), (117, 96), (159, 128), (191, 160), (208, 192),
        (255, 224), (277, 256), (299, 288), (341, 320), (363, 352)] ++ (if mxFD c then drain else [])
    | 5 => [(13, 8), (19, 14)] ++ drain
    | 6 => [(97, 96)] ++ (if mxWK c = 1 then [(85, 64), (159, 128)] else if mxWK c = 2 then [(85, 64)] else [])
    | _ => [(85, 64), (96, 96)]

/-- The command with every bit it uses cleared. -/
def mxUnused (c : LineWord) : Nat := (mxUsed c).foldl (fun x r => setBits x r.1 r.2 0) c.toNat

/-! ## Acceptance (R177) -/

/-- Step 1: the number of the condition that fails (R340). -/
def mxCommandBad (c : LineWord) : Option Nat :=
  let op := mxOp c
  let fa := mxAFmt c
  let fb := mxBFmt c
  let last := mxKOrg c + mxK c - 1
  let crosses (s : Nat) : Bool := mxKOrg c / 2 ^ s != last / 2 ^ s
  if 8 ≤ op || (op = 6 && mxWK c = 3) then some 1
  else if mxUnused c != 0 then some 2
  else if mxIsMma c && (mxK c = 0 || 256 < mxK c) then some 3
  else if op = 2 && (mxKB c = 0 || 131072 < mxKB c) then some 4
  else if op = 2 && 64 < mxJ0 c + mxN c then some 5
  else if mxIsMma c && 131072 < mxBOff c + rowBytes (recordFmt fb) (mxK c) then some 6
  else if op = 2 && 131072 < mxBOff c + rowBytes (recordFmt fa) (mxKB c) then some 6
  else if mxIsMma c && ((bit fa 4 && crosses (bits fa 10 8)) || (bit fb 4 && crosses (bits fb 7 5))) then some 7
  else if mxIsMma c && 2 ^ 32 ≤ last then some 8
  else none

/-- Is a format record one that an operand does not take (R62, R176)? -/
def mxRecordBad (rec : Nat) (scaled : Bool) (ok : Fmt → Bool) : Bool :=
  recordIllFormed rec || !ok (recordFmt rec) || (bit rec 4 && !scaled)

/-- Step 2: the first record that is refused, A before B before C: the spec does not say which of several is reported (log
98). -/
def mxFormatBad (c : LineWord) : Option Nat :=
  let all (f : Fmt) : Bool := fmtIsIeee f || fmtIsTapered f
  let a := mxAFmt c
  let b := mxBFmt c
  let aBad : Bool := match mxOp c with
    | 1 => mxRecordBad a false fmtIsIeee
    | 2 => mxRecordBad a false all
    | 3 => mxRecordBad a true all
    | 4 => mxRecordBad a true (· == .t6)
    | _ => false
  let bBad : Bool := match mxOp c with
    | 3 => mxRecordBad b true all
    | 4 => mxRecordBad b true (· == .t6)
    | _ => false
  if aBad then some a
  else if bBad then some b
  else if mxDrains c && mxRecordBad (mxCFmt c) false all then some (mxCFmt c)
  else none

/-- The scratchpad ranges of a command, in the order of R177 step 3: rows of A or of a source, rows of C, scale bytes,
ADDR. -/
def mxRanges (c : LineWord) : List (Nat × Nat) :=
  let rows (base pitch len n : Nat) : List (Nat × Nat) := (List.range n).map (fun i => (base + i * pitch, len))
  let fa := recordFmt (mxAFmt c)
  let a := match mxOp c with
    | 1 => rows (mxABase c) (mxAPitch c) (rowBytes fa (mxN c)) (mxM c)
    | 2 => if mxRim c then [] else rows (mxABase c) (mxAPitch c) (rowBytes fa (mxN c)) (mxKB c)
    | 3 | 4 => rows (mxABase c) (mxAPitch c) (rowBytes fa (mxK c)) (mxM c)
    | _ => []
  let cr := if mxDrains c then rows (mxCBase c) (mxCPitch c) (rowBytes (recordFmt (mxCFmt c)) (mxN c)) (mxM c) else []
  let ra := mxAFmt c
  let rb := mxBFmt c
  let sa := if mxIsMma c && bit ra 4 then
      (List.range (mxM c)).map (fun i =>
        (mxASBase c + (i / 2 ^ bits ra 7 5) * mxASPitch c + mxKOrg c / 2 ^ bits ra 10 8, 1)) else []
  let sb := if mxIsMma c && bit rb 4 then
      (List.range (mxN c)).map (fun j =>
        (mxBSBase c + (mxKOrg c / 2 ^ bits rb 7 5) * mxBSPitch c + j / 2 ^ bits rb 10 8, 1)) else []
  let ad := match mxOp c with
    | 6 => if mxWK c = 1 then [(mxAddr c, 16)] else if mxWK c = 2 then [(mxAddr c, 8)] else []
    | 7 => [(mxAddr c, 64)]
    | _ => []
  a ++ cr ++ sa ++ sb ++ ad

/-- The alignments of R177 step 3: a base, its pitch and what both must be multiples of. -/
def mxAligns (c : LineWord) : List (Nat × Nat × Nat) :=
  let es (rec : Nat) : Nat := match recordFmt rec with
    | .fp32 => 4 | .bf16 | .fp16 => 2
    | _ => 1
  (match mxOp c with
    | 1 | 3 | 4 => [(mxABase c, mxAPitch c, es (mxAFmt c))]
    | 2 => if mxRim c then [] else [(mxABase c, mxAPitch c, es (mxAFmt c))]
    | _ => [])
  ++ (if mxDrains c then [(mxCBase c, mxCPitch c, es (mxCFmt c))] else [])
  ++ (match mxOp c with
    | 6 => if mxWK c = 1 then [(mxAddr c, 0, 16)] else if mxWK c = 2 then [(mxAddr c, 0, 8)] else []
    | 7 => [(mxAddr c, 0, 64)]
    | _ => [])

/-- `CheckCommand` of R177: the trap of the first check that fails. `%tval` of SP_BOUNDS is the start of the row or range
that fails, and that of MISALIGN the base, also where only the pitch is misaligned: the rule does not say which address
(log 98). -/
def mxCheck (c : LineWord) : Option (Nat × Word) :=
  match mxCommandBad c with
  | some n => some (0x13, word n)
  | none => match mxFormatBad c with
    | some rec => some (0x08, word rec)
    | none => match (mxRanges c).find? (fun r => !inBounds r.1 r.2) with
      | some r => some (0x09, word r.1)
      | none => match (mxAligns c).find? (fun a => a.1 % a.2.2 != 0 || a.2.1 % a.2.2 != 0) with
        | some a => some (0x0A, word a.1)
        | none => none

/-! ## The triggers (R170, R172) -/

/-- R170 MXQ.cmd, with the 512 bits of its v-register source. -/
def mxqCmdMeaning (c : LineWord) : TrigMeaning :=
  { trig := .mxq .cmd
    stall := fun s r => 16 ≤ (s.vt r.vt).mx.queue.length
    check := fun _ _ => mxCheck c
    fire := fun s r =>
      let sl := s.slot r
      let f := sl.newFlight (.mxq .cmd) 0 true none
      let e : MxCmd := { c := c, seq := (s.vt r.vt).mx.nextSeq, slot := r.slot.val, fser := sl.fser, fid := f.id,
                         ix := sl.ix, tag := sl.relTag }
      (s.modSlot r (fun sl => sl.launch f)).modVt r.vt (fun t => { t with
        mx := { t.mx with queue := t.mx.queue ++ [e], nextSeq := (t.mx.nextSeq + 1) % 2 ^ 32 } }) }
def execMxqCmd (c : LineWord) (s : State) : Host.Outcome State Fault Refusal := runTrigger (mxqCmdMeaning c) 0 s

/-- Does an access of a command's slot that is older than the command still wait (R170, R261)? -/
def State.mxWaits (s : State) (v : VRef) (e : MxCmd) : Bool :=
  let r : SRef := ⟨v, Fin.ofNat 8 e.slot⟩
  (s.slot r).storesBefore e.fid || s.keptBefore r e.fid || s.fieldSends r e.fid

/-- Does a command run: one that has begun, or a fence that waits at the head (R188)? -/
def State.mxBusy (s : State) (v : VRef) : Bool :=
  let m := (s.vt v).mx
  m.run.started || (match m.queue with
    | [] => false
    | e :: _ => mxOp e.c == 6 && !m.held && !s.mxWaits v e)

/-- The snapshot of R172. -/
def State.mxPoll (s : State) (v : VRef) : Word :=
  let t := s.vt v
  word (t.mx.rseq + t.mx.queue.length * 2 ^ 32 + b2n t.mx.held * 2 ^ 37 + b2n (s.mxBusy v) * 2 ^ 38 + b2n t.bank * 2 ^ 39)

/-- R172 MXQ.poll. -/
def mxqPollMeaning (m : BitVec 3) : TrigMeaning :=
  { trig := .mxq .poll
    stall := noStall
    check := noCheck
    fire := fun s r => s.modSlot r (fun sl => sl.fire (.mxq .poll) m (landQ (s.mxPoll r.vt))) }
def execMxqPoll (m : BitVec 3) (s : State) : Host.Outcome State Fault Refusal := runTrigger (mxqPollMeaning m) m s

/-! ## The sequencer (R179, R191 to R194) -/

def State.modMx (s : State) (v : VRef) (f : Matrix → Matrix) : State := s.modVt v (fun t => { t with mx := f t.mx })
def State.modRun (s : State) (v : VRef) (f : MxRun → MxRun) : State := s.modMx v (fun m => { m with run := f m.run })

/-- Collect events of the running command. -/
def State.mxEv (s : State) (v : VRef) (e : Ev) : State := s.modRun v (fun r => { r with ev := evAnd r.ev e })

/-- The completion word (R171). -/
def mxCompletion (seq status : Nat) (nan ue : Bool) : Word :=
  word (seq + status * 2 ^ 32 + b2n nan * 2 ^ 40 + b2n ue * 2 ^ 41)

/-- Retire commands that DISCARD ended, in SEQ order: STATUS 1 and no other effect (R193). -/
def State.mxDrop (s : State) (v : VRef) (l : List MxCmd) : State :=
  l.foldl (fun s e => (s.modMx v (fun m => { m with rseq := e.seq })).engineResult v e.slot e.fser e.fid
    (landQ (mxCompletion e.seq 1 false false))) s

/-- The discarded commands at the head of the queue retire once nothing runs, then HELD is 0 (R193). -/
def State.mxDropGone (s : State) (v : VRef) : State :=
  let q := (s.vt v).mx.queue
  let l := q.takeWhile MxCmd.gone
  if l.isEmpty then s
  else (s.modMx v (fun m => { m with queue := m.queue.drop l.length, held := false })).mxDrop v l

/-- The head command retires: its flags and count, RSEQ and the completion word (R170, R191). -/
def State.mxRetire (s : State) (v : VRef) : State :=
  let m := (s.vt v).mx
  match m.queue with
  | [] => s
  | e :: q =>
    let r := m.run
    let ue := 0 < r.ueCount
    let s := s.event v (evAnd r.ev (evIf ue flagMXUE))
    let s := s.modMx v (fun m => { m with queue := q, run := .start, rseq := e.seq })
    (s.engineResult v e.slot e.fser e.fid (landQ (mxCompletion e.seq r.status r.nan ue))).mxDropGone v

/-- The first NaN of a command with NT = 1 is recorded, and its held trap raised, in the step that met it; the command runs
on (R192, R193). -/
def State.mxNan (s : State) (v : VRef) (e : MxCmd) : State :=
  match (s.vt v).mx.run.firstNan with
  | some (k, i, j) =>
    let tv := word (e.seq + k * 2 ^ 32 + i * 2 ^ 40 + j * 2 ^ 46 + 2 ^ 53)
    if mxNT e.c then
      (s.modMx v (fun m => { m with nanrec := tv, held := true })).raiseHeld v e.slot e.fser 0x14 tv (word e.ix) e.seq none
    else s
  | none => s

/-- Log an element that was met with an uncorrectable error (R194). -/
def State.mxUe (s : State) (v : VRef) (seq opnd idx kx : Nat) : State :=
  (s.modMx v (fun m => { m with
    uecnt := min (m.uecnt + 1) 0xFFFFFFFF
    uelog := if m.uelog.length < 4 then m.uelog ++ [word (seq + opnd * 2 ^ 32 + 2 ^ 34 + idx * 2 ^ 35 + kx * 2 ^ 41)]
      else m.uelog })).modRun v (fun r => { r with ueCount := r.ueCount + 1 })

/-- The running command reads the scratchpad word w, once for all its uses (R195). -/
def State.mxFetch (s : State) (v : VRef) (w : Nat) : State :=
  if (Tbl.find? (s.vt v).mx.run.words w).isSome then s
  else
    let bad := s.spPoisoned v (8 * w) 8
    let s := if bad then s else s.spCorrect v (8 * w) 8
    s.modRun v (fun r => { r with words := Tbl.put r.words w (s.spRead v (8 * w) 8, bad) })

/-- It reads the words of a range. -/
def State.mxFetchRange (s : State) (v : VRef) (a n : Nat) : State :=
  (List.range (wordsOf a n)).foldl (fun s k => s.mxFetch v (a / 8 + k)) s

/-- A byte of the words that a command has read. -/
def MxRun.byte (r : MxRun) (a : Nat) : Byte := BitVec.ofNat 8 ((Tbl.getD r.words (a / 8) (0, false)).1 >>> (8 * (a % 8)))

/-- Bytes of them, least significant first. -/
def MxRun.read (r : MxRun) (a : Nat) : (n : Nat) → Nat
  | 0 => 0
  | n + 1 => (r.byte a).toNat + 256 * r.read (a + 1) n

/-- Does a range of them hold an uncorrectable error? -/
def MxRun.bad (r : MxRun) (a n : Nat) : Bool :=
  (List.range (wordsOf a n)).any (fun k => (Tbl.getD r.words (a / 8 + k) (0, false)).2)

/-- Read element k of a scratchpad row: zero, and a log entry, where its word holds an uncorrectable error (R194). -/
def State.mxReadSp (s : State) (v : VRef) (f : Fmt) (row k : Nat) (seq opnd idx kx : Nat) : State × Nat :=
  let (off, n) := elemSpan f k
  let s := s.mxFetchRange v (row + off) n
  let r := (s.vt v).mx.run
  if r.bad (row + off) n then (s.mxUe v seq opnd idx kx, 0) else (s, elemOf f k (fun o n => r.read (row + o) n))

/-- Read element k of a B-store slice. -/
def State.mxReadB (s : State) (v : VRef) (f : Fmt) (boff col k seq kx : Nat) : State × Nat :=
  let m := (s.vt v).mx
  if m.bsBad col (boff + elemBit f k / 8) (elemBit f k % 8) (fmtBits f) then (s.mxUe v seq 1 col kx, 0)
  else (s, elemOf f k (fun o n => m.bsRead col (boff + o) n))

/-- Thread a state through a list of reads. -/
def readAll (s : State) (l : List Nat) (f : State → Nat → State × Nat) : State × List Nat :=
  l.foldl (fun (p : State × List Nat) x => let (s, y) := f p.1 x; (s, p.2 ++ [y])) (s, [])

/-! ### Scales (R182) -/

/-- The scale byte at an address: 0xFF where it holds an error, with a log entry unless a row or column before has met the
same byte (R194: each is substituted once). -/
def State.mxScale (s : State) (v : VRef) (met : Bool) (addr seq idx kx : Nat) : State × Nat :=
  let s := s.mxFetch v (addr / 8)
  let r := (s.vt v).mx.run
  if r.bad addr 1 then (if met then s else s.mxUe v seq 3 idx kx, 0xFF) else (s, (r.byte addr).toNat)

/-- The scale bytes of the rows, or of the columns, at an address each; 127 where the operand is unscaled. -/
def State.mxScaleBytes (s : State) (v : VRef) (scaled : Bool) (n seq kx : Nat) (addr : Nat → Nat) : State × List Nat :=
  if !scaled then (s, List.replicate n 127)
  else readAll s (List.range n) (fun s i =>
    s.mxScale v ((List.range i).any (fun j => addr j == addr i)) (addr i) seq i kx)

/-- The first index whose tag conflicts with its scale byte. -/
def scaleConflict (tags : Tbl ScaleTag) (qs : List Nat) : Option Nat :=
  (List.range qs.length).find? (fun i => match Tbl.getD tags i .unset with
    | .set a => qs.getD i 0 != 0xFF && a != ((qs.getD i 0 : Nat) : Int) - 127
    | _ => false)

/-- The tags after the scales are taken. -/
def scaleTags (tags : Tbl ScaleTag) (qs : List Nat) : Tbl ScaleTag :=
  ((List.range qs.length).zip qs).foldl (fun t p =>
    if p.2 = 0xFF then Tbl.put t p.1 .invalid
    else match Tbl.getD t p.1 .unset with
      | .unset => Tbl.put t p.1 (.set ((p.2 : Int) - 127))
      | _ => t) tags

/-- `CollectScales`: the tags are set, or the command retires with STATUS 2 and raises MATRIX_SCALE. Of several conflicts the
lowest row is reported, and with none the lowest column: R182 says `some` (log 98). -/
def State.mxScales (s : State) (v : VRef) (e : MxCmd) : State :=
  let c := e.c
  let ra := mxAFmt c
  let rb := mxBFmt c
  let (s, qa) := s.mxScaleBytes v (bit ra 4) (mxM c) e.seq 0 (fun i =>
    mxASBase c + (i / 2 ^ bits ra 7 5) * mxASPitch c + mxKOrg c / 2 ^ bits ra 10 8)
  let (s, qb) := s.mxScaleBytes v (bit rb 4) (mxN c) e.seq 0x80 (fun j =>
    mxBSBase c + (mxKOrg c / 2 ^ bits rb 7 5) * mxBSPitch c + j / 2 ^ bits rb 10 8)
  let m := (s.vt v).mx
  let bad : Option (Nat × Nat) := match scaleConflict m.atag qa with
    | some i => some (i, 0)
    | none => (scaleConflict m.btag qb).map (fun j => (j, 1))
  match bad with
  | some (i, col) =>
    let tv := word (e.seq + i * 2 ^ 32 + col * 2 ^ 52 + 2 ^ 53)
    ((s.modRun v (fun r => { r with status := 2 })).mxRetire v |>.modMx v (fun m => { m with held := true })).raiseHeld v
      e.slot e.fser 0x15 tv (word e.ix) e.seq none
  | none => s.modMx v (fun m => { m with atag := scaleTags m.atag qa, btag := scaleTags m.btag qb,
                                         run := { m.run with started := true } })

/-! ### Cells -/

def Matrix.cell (m : Matrix) (i j : Nat) : Nat := (Tbl.getD m.acc (64 * i + j) 0).toNat
def Matrix.setCell (m : Matrix) (i j x : Nat) : Matrix :=
  { m with acc := Tbl.putSparse m.acc (64 * i + j) 0 (BitVec.ofNat 32 x) }

/-- Is an FP32 code a NaN? -/
def isNan32 (x : Nat) : Bool := (ieeeDecode .fp32 x).isNan

/-- One step of a cell: the rounded sum, with `NoteNaN` (R183, R185). -/
def MxRun.note (r : MxRun) (old new : Nat) (e : Ev) (k i j : Nat) : MxRun :=
  let r := { r with ev := evAnd r.ev e }
  if isNan32 new && !isNan32 old then
    { r with nan := true, firstNan := match r.firstNan with
        | some x => some x
        | none => some (k, i, j) }
  else r

/-- A step over all cells: `f i j old` gives a cell's new value and its events. -/
def Matrix.sweep (m : Matrix) (M N k : Nat) (f : (i j old : Nat) → Nat × Ev) : Matrix :=
  (List.range M).foldl (fun m i => (List.range N).foldl (fun m j =>
    let old := m.cell i j
    let (new, e) := f i j old
    { m.setCell i j new with run := m.run.note old new e k i j }) m) m

/-- A step of a cell in MMA.o: the exact product and the old value, rounded once (R183). -/
def mmaOCell (fa fb : Fmt) (a b old : Nat) : Nat × Ev :=
  finish .fp32 .rn (fFma .rn (fmtDecode fa true a) (fmtDecode fb true b) (ieeeDecode .fp32 old))

/-- Step k of MMA.o (R183): a fused multiply-add of every cell. -/
def State.mmaOStep (s : State) (v : VRef) (e : MxCmd) (k : Nat) : State :=
  let c := e.c
  let fa := recordFmt (mxAFmt c)
  let fb := recordFmt (mxBFmt c)
  let (s, as_) := readAll s (List.range (mxM c)) (fun s i => s.mxReadSp v fa (mxABase c + i * mxAPitch c) k e.seq 0 i k)
  let (s, bs) := readAll s (List.range (mxN c)) (fun s j => s.mxReadB v fb (mxBOff c) j k e.seq k)
  s.modMx v (fun m => m.sweep (mxM c) (mxN c) k (fun i j old => mmaOCell fa fb (as_.getD i 0) (bs.getD j 0) old))

/-- A group of a cell in MMA.g (R185): the exact sum of at most four T6 products and the old value, rounded once. Where every
addend is a zero the sum's sign is that of adding them two at a time (R69's rule for a sum of two): -0 only where all are
-0, a choice of the model (log 98). -/
def mmaGCell (as_ bs : List Nat) (old : Nat) : Nat × Ev :=
  let sum : FVal × Ev := match (as_.zip bs).map (fun p => fMul (tDecode 6 p.1) (tDecode 6 p.2)) with
    | [] => (.fin false 0 0, evNone)
    | p :: ps => ps.foldl (fun acc p => let (x, ev) := fAdd .rn acc.1 p.1; (x, evAnd (evAnd acc.2 p.2) ev)) p
  let (x, ev) := fAdd .rn (ieeeDecode .fp32 old) sum.1
  finish .fp32 .rn (x, evAnd sum.2 ev)

/-- The group of MMA.g that starts at step g (R185). -/
def State.mmaGStep (s : State) (v : VRef) (e : MxCmd) (g : Nat) : State :=
  let c := e.c
  let n := min 4 (mxK c - g)
  let idx (count : Nat) : List Nat := List.range (count * n)
  let (s, as_) := readAll s (idx (mxM c)) (fun s p =>
    s.mxReadSp v .t6 (mxABase c + p / n * mxAPitch c) (g + p % n) e.seq 0 (p / n) g)
  let (s, bs) := readAll s (idx (mxN c)) (fun s p => s.mxReadB v .t6 (mxBOff c) (p / n) (g + p % n) e.seq g)
  s.modMx v (fun m => m.sweep (mxM c) (mxN c) g (fun i j old =>
    mmaGCell ((as_.drop (i * n)).take n) ((bs.drop (j * n)).take n) old))

/-! ### Draining (R186) -/

/-- The factor of a tag: unset counts as 0 (R66). -/
def tagScale : ScaleTag → Int
  | .set a => a
  | _ => 0

/-- The rows of C, address and length. -/
def drainRowAt (c : LineWord) (i : Nat) : Nat × Nat := (mxCBase c + i * mxCPitch c, rowBytes (recordFmt (mxCFmt c)) (mxN c))

/-- Does a row of C after row i hold a byte of the word w? -/
def laterRow (c : LineWord) (i w : Nat) : Bool :=
  (List.range (mxM c)).any (fun k => i < k && runsMeet (drainRowAt c k).1 (drainRowAt c k).2 (8 * w) 8)

/-- Row i of a drain: convert, write, and clear with ZC. A word is set full with the last row that writes a byte of it. -/
def State.drainRow (s : State) (v : VRef) (c : LineWord) (i : Nat) : State :=
  let m := (s.vt v).mx
  let f := recordFmt (mxCFmt c)
  let ta := Tbl.getD m.atag i .unset
  let outs := (List.range (mxN c)).map (fun j =>
    let tb := Tbl.getD m.btag j .unset
    let x := ieeeDecode .fp32 (m.cell i j)
    let bad := mxSC c && (ta == .invalid || tb == .invalid)
    let x := if bad then FVal.nan false else if mxSC c then x.scale (tagScale ta + tagScale tb) else x
    (narrow f (mxRM c) x, bad))
  let s := s.modMx v (fun m =>
    let m := if mxZC c then (List.range (mxN c)).foldl (fun m j => m.setCell i j 0) m else m
    { m with run := { m.run with
        ev := evAnd m.run.ev (evAll (outs.map (fun o => o.1.2)))
        badScale := m.run.badScale || outs.any (fun o => o.2) } })
  let (a, n) := drainRowAt c i
  (s.spWriteBytes v a (packRow f (outs.map (fun o => o.1.1)))).feSetSome v a (laterRow c i) (wordsOf a n)

/-- The end of a drain: the flags of invalid scales once, and the tags with ZC. -/
def State.drainEnd (s : State) (v : VRef) (c : LineWord) : State :=
  s.modMx v (fun m => { m with
    run := { m.run with ev := evAnd m.run.ev (evIf m.run.badScale (flagNV ||| flagNANP)) }
    atag := if mxZC c then m.atag.filter (fun p => mxM c ≤ p.1) else m.atag
    btag := if mxZC c then m.btag.filter (fun p => mxN c ≤ p.1) else m.btag })

/-- One row of a drain; after the last the command retires. -/
def State.drainStep (s : State) (v : VRef) (c : LineWord) : State :=
  let i := (s.vt v).mx.run.pos
  let s := s.drainRow v c i
  if i + 1 < mxM c then s.modRun v (fun r => { r with started := true, draining := true, pos := i + 1 })
  else (s.drainEnd v c).mxRetire v

/-! ## When the head command may take its next step -/

/-- Columns and offsets that source row k of a BLOAD lands in. -/
def bloadCells (c : LineWord) (k : Nat) : List (Nat × Nat) :=
  let f := recordFmt (mxAFmt c)
  let off := mxBOff c + elemBit f k / 8
  (List.range (mxN c)).flatMap (fun j => [(mxJ0 c + j, off), (mxJ0 c + j, off + (elemSpan f k).2 - 1)])

/-- The scratchpad ranges and B-store columns (with an offset) that the next step touches. -/
def mxTouches (e : MxCmd) (r : MxRun) : List (Nat × Nat) × List (Nat × Nat) :=
  let c := e.c
  let fa := recordFmt (mxAFmt c)
  let cols (j0 n off len : Nat) : List (Nat × Nat) :=
    (List.range n).flatMap (fun j => [(j0 + j, off), (j0 + j, off + len - 1)])
  let drainRow := (mxCBase c + r.pos * mxCPitch c, rowBytes (recordFmt (mxCFmt c)) (mxN c))
  match mxOp c with
  | 0 => ([], [])
  | 1 => ([(mxABase c + r.pos * mxAPitch c, rowBytes fa (mxN c))], [])
  | 2 => if mxRim c then ([], [])
    else ([(mxABase c + r.pos * mxAPitch c, rowBytes fa (mxN c))],
          bloadCells c r.pos)
  | 3 | 4 =>
    if r.draining then ([drainRow], [])
    else
      let fb := recordFmt (mxBFmt c)
      ((mxRanges c).filter (fun p => p.2 == 1 || !r.started)
        ++ (List.range (mxM c)).map (fun i => (mxABase c + i * mxAPitch c, rowBytes fa (mxK c))),
       cols 0 (mxN c) (mxBOff c) (rowBytes fb (mxK c)))
  | 5 => ([drainRow], [])
  | 6 => if mxWK c = 0 then ([], []) else ([(mxAddr c, 16)], [])
  | _ => ([(mxAddr c, 64)], [])

/-- The condition of an MXFENCE (R188). -/
def State.mxFenceHolds (s : State) (v : VRef) (c : LineWord) : Bool :=
  match mxWK c with
  | 1 => s.spRead v (mxAddr c + 8) 4 != mxG c
  | 2 => s.feGet v (mxAddr c)
  | _ => true

/-- May the head command of the vtile take a step of OP `op` now: the vtile runs (R196), no trap is held before a start
(R193) nor an earlier access of its slot unperformed (R170, R261), what it touches is in the tile (R197), and its own condition
holds? -/
def State.mxReady (s : State) (v : VRef) (op : Nat) : Option MxCmd :=
  let m := (s.vt v).mx
  match m.queue with
  | [] => none
  | e :: _ =>
    let (sps, bss) := mxTouches e m.run
    let own : Bool := match op with
      | 2 => !mxRim e.c || !m.run.started || m.run.segs.all (fun g => g.st == .done)
      | 6 => s.mxFenceHolds v e.c
      | _ => true
    if mxOp e.c = op && s.running v && (m.run.started || (!m.held && !s.mxWaits v e))
        && sps.all (fun p => !s.spOutRange v p.1 p.2) && bss.all (fun p => !m.bsUnitOut p.1 p.2) && own
    then some e else none

/-- A step of the head command where it is due. -/
def mxStep (op : Nat) (name : String) (v : VRef) (s : State) (f : MxCmd → State) : Host.Outcome State Fault Refusal :=
  match s.mxReady v op with
  | some e => .next (f e)
  | none => .refused (.notEnabled name)

/-! ## The commands -/

/-- Cells and tags of the commands of R180. -/
def Matrix.clearTags (m : Matrix) (M N : Nat) : Matrix :=
  { m with atag := m.atag.filter (fun p => M ≤ p.1), btag := m.btag.filter (fun p => N ≤ p.1) }

/-- R180 ACCZ. -/
def execAccz (v : VRef) (s : State) : Host.Outcome State Fault Refusal :=
  mxStep 0 "ACCZ" v s (fun e =>
    (s.modMx v (fun m => ((List.range (mxM e.c)).foldl (fun m i =>
      (List.range (mxN e.c)).foldl (fun m j => m.setCell i j 0) m) m).clearTags (mxM e.c) (mxN e.c))).mxRetire v)

/-- R180 ACCLD: one row a step. -/
def execAccld (v : VRef) (s : State) : Host.Outcome State Fault Refusal :=
  mxStep 1 "ACCLD" v s (fun e =>
    let c := e.c
    let f := recordFmt (mxAFmt c)
    let i := (s.vt v).mx.run.pos
    let (s, xs) := readAll s (List.range (mxN c)) (fun s j =>
      s.mxReadSp v f (mxABase c + i * mxAPitch c) j e.seq 2 i j)
    let vals := xs.map (fun x => ieeeDecode f x)
    let s := s.modMx v (fun m => ((List.range (mxN c)).zip vals).foldl (fun m p =>
      m.setCell i p.1 (roundVal .fp32 .rn p.2).1) m)
    let s := s.mxEv v (evIf (vals.any FVal.isSig) flagNV)
    if i + 1 < mxM c then s.modRun v (fun r => { r with started := true, pos := i + 1 })
    else (s.modMx v (fun m => m.clearTags (mxM c) (mxN c))).mxRetire v)

/-- The segments of a rim BLOAD: its source rows split at page boundaries (R181). -/
def bloadSegs (c : LineWord) : List Seg :=
  let len := rowBytes (recordFmt (mxAFmt c)) (mxN c)
  (List.range (mxKB c)).flatMap (fun k =>
    let va := (mxVAddr c + k * mxAPitch c) % 2 ^ 64
    let pieces := (va % 8192 + len - 1) / 8192 + 1
    (List.range pieces).map (fun p =>
      let lo := if p = 0 then va else (va / 8192 + p) * 8192
      let hi := min (va + len) ((va / 8192 + p + 1) * 8192)
      { addr := lo, loc := lo - va, len := hi - lo, row := k, st := .untranslated, landed := none }))

/-- The end of a BLOAD (R181): BHWM rises, also where a format fault has abandoned some of it (log 98). -/
def State.bloadEnd (s : State) (v : VRef) (c : LineWord) : State :=
  (s.modMx v (fun m => { m with
    bhwm := max m.bhwm (8192 * ceilDiv (mxBOff c + rowBytes (recordFmt (mxAFmt c)) (mxKB c)) 8192) })).mxRetire v

/-- R181 BLOAD. From scratchpad, one source row a step; from rim memory, a first step that splits the source and a last
one when every segment has landed or been dropped (SEGMENT_TRANSLATION and COPY_LANDING take the steps between). -/
def execBload (v : VRef) (s : State) : Host.Outcome State Fault Refusal :=
  mxStep 2 "BLOAD" v s (fun e =>
    let c := e.c
    let r := (s.vt v).mx.run
    if mxRim c then
      if r.started then s.bloadEnd v c
      else s.modRun v (fun r => { r with started := true, segs := bloadSegs c })
    else
      let f := recordFmt (mxAFmt c)
      let k := r.pos
      let row := mxABase c + k * mxAPitch c
      let len := rowBytes f (mxN c)
      let s := s.mxFetchRange v row len
      let r := (s.vt v).mx.run
      let s := s.bloadLand v f (mxJ0 c) (mxBOff c) k (mxKB c) (mxN c) 0 (fun off => r.bad (row + off) 1)
        ((List.range len).map (fun o => r.byte (row + o)))
      if k + 1 < mxKB c then s.modRun v (fun r => { r with started := true, pos := k + 1 }) else s.bloadEnd v c)

/-- One step of an MMA: scales first, then its steps, then the fused drain (R182, R187). -/
def State.mmaNext (s : State) (v : VRef) (e : MxCmd) (width : Nat) (step : State → Nat → State) : State :=
  let r := (s.vt v).mx.run
  if !r.started then s.mxScales v e
  else if r.draining then s.drainStep v e.c
  else
    let s := step s r.pos
    let s := if r.firstNan.isNone then s.mxNan v e else s
    if r.pos + width < mxK e.c then s.modRun v (fun r => { r with pos := r.pos + width })
    else if mxFD e.c then s.modRun v (fun r => { r with pos := 0, draining := true })
    else s.mxRetire v

/-- R183 MMA.o. -/
def execMmaO (v : VRef) (s : State) : Host.Outcome State Fault Refusal :=
  mxStep 3 "MMA_O" v s (fun e => s.mmaNext v e 1 (fun s k => s.mmaOStep v e k))

/-- R185 MMA.g. -/
def execMmaG (v : VRef) (s : State) : Host.Outcome State Fault Refusal :=
  mxStep 4 "MMA_G" v s (fun e => s.mmaNext v e 4 (fun s g => s.mmaGStep v e g))

/-- R186 DRAIN. -/
def execDrain (v : VRef) (s : State) : Host.Outcome State Fault Refusal :=
  mxStep 5 "DRAIN" v s (fun e => s.drainStep v e.c)

/-- Reading the condition of an MXFENCE corrects the word that holds it (R140). -/
def State.mxFenceRead (s : State) (v : VRef) (c : LineWord) : State :=
  match mxWK c with
  | 1 => s.spCorrect v (mxAddr c + 8) 4
  | 2 => s.spCorrect v (mxAddr c) 1
  | _ => s

/-- R188 MXFENCE: it retires when its condition holds. -/
def execMxfence (v : VRef) (s : State) : Host.Outcome State Fault Refusal :=
  mxStep 6 "MXFENCE" v s (fun e => (s.mxFenceRead v e.c).mxRetire v)

/-- The status record of R189. -/
def Matrix.statusRecord (m : Matrix) : List Byte :=
  toBytes 4 m.rseq ++ toBytes 4 m.uecnt ++ (List.range 4).flatMap (fun i => toBytes 8 (m.uelog.getD i 0).toNat)
    ++ toBytes 8 m.nanrec.toNat ++ List.replicate 16 0

/-- R189 MXSTAT. -/
def execMxstat (v : VRef) (s : State) : Host.Outcome State Fault Refusal :=
  mxStep 7 "MXSTAT" v s (fun e =>
    let s := s.engineWrite v (mxAddr e.c) (s.vt v).mx.statusRecord
    (if mxClr e.c then s.modMx v (fun m => { m with uecnt := 0, uelog := [] }) else s).mxRetire v)

/-! ## MXCTL (R193) -/

/-- R193 RELEASE: the queue resumes. -/
def State.mxRelease (s : State) (v : VRef) : State := s.modMx v (fun m => { m with held := false })

/-- R193 DISCARD: every queued command retires in SEQ order with STATUS 1 and no other effect, then HELD is 0. One that runs
is not queued: it runs on to retirement (R192), and those behind it retire right after it (log 32). -/
def State.mxDiscard (s : State) (v : VRef) : State :=
  let m := (s.vt v).mx
  if !m.held then s
  else if m.run.started && 1 < m.queue.length then
    s.modMx v (fun m => { m with queue := (m.queue.take 1) ++ (m.queue.drop 1).map (fun e => { e with gone := true }) })
  else if m.run.started then s.modMx v (fun m => { m with held := false })
  else (s.modMx v (fun m => { m with queue := [], run := .start, held := false })).mxDrop v m.queue

/-- MXCTL as it reads. -/
def Matrix.mxctl (m : Matrix) : Word := word (b2n m.held * 4)

/-- A write of MXCTL; DISCARD wins over RELEASE. -/
def State.mxctlWrite (s : State) (v : VRef) (val : Word) : State :=
  if bit val.toNat 1 then s.mxDiscard v else if bit val.toNat 0 then s.mxRelease v else s

/-- R193: the write of RELEASE. -/
def execMxctlRelease (v : VRef) (s : State) : Host.Outcome State Fault Refusal := .next (s.mxctlWrite v 1)

/-- R193: the write of DISCARD. -/
def execMxctlDiscard (v : VRef) (s : State) : Host.Outcome State Fault Refusal := .next (s.mxctlWrite v 2)

end Sys2Proof.Machine
end

