-- ==== Sys2Proof/Machine/Translate.lean ====
section
/-!
DEFINITION. Address translation: page tables (R299), the two stages and their checks in order (R300), the fold
translation unit (R301, R304), homes (R296, R297, R395), and the instruction space (R305).
-/
namespace Sys2Proof.Machine

/-! ## Homes -/

/-- Where a physical address lies: in local rim memory, in another module's behind a route, by the port that its requests
leave on, or nowhere. -/
inductive Home where
  | rim (a : Nat)
  | remote (port : Nat)
  | none
  deriving DecidableEq, Repr, Inhabited

/-- Is there a route to a module (R408)? -/
def State.routed (s : State) (m : Nat) : Bool :=
  m < 768 && bit (Tbl.getD s.fabric.routes (2 * m + 1) 0).toNat 0
    && (Tbl.getD s.fabric.routes (2 * m) 0 &&& s.fabric.portUp) != 0

/-- The port of a request (R408): the hash of the module and the 8,192-byte unit picks one of those that its route names and
whose links are up. -/
def State.portTo (s : State) (m a : Nat) : Nat :=
  let set := Tbl.getD s.fabric.routes (2 * m) 0 &&& s.fabric.portUp
  let ports := (List.range 64).filter set.getLsbD
  ports.getD (Config.portHash m (a / 8192) % ports.length) 0

/-- R296, R297, R395: register space is no home of a copy. -/
def State.home (s : State) (pa : Nat) : Home :=
  let m := bits pa 63 54
  let a := pa % 2 ^ 54
  if rimSize ≤ a then .none
  else if m = s.modId then .rim a
  else if s.routed m then .remote (s.portTo m a)
  else .none

/-! ## Entries (R299) -/

def pteV (e : Nat) : Bool := bit e 0
def pteLeaf (e : Nat) : Bool := bit e 1
def pteRD (e : Nat) : Bool := bit e 2
def pteWR (e : Nat) : Bool := bit e 3
def pteSZ (e : Nat) : Bool := bit e 4
def pteFidx (e : Nat) : Nat := bits e 8 5
def pteD (e : Nat) : Bool := bit e 9
def pteAddr (e : Nat) : Nat := e / 8192 * 8192

/-- Bits below an index at a level: what a leaf there maps. -/
def levelShift : Nat → Nat
  | 0 => 43 | 1 => 33 | 2 => 23
  | _ => 13

/-- Which table an entry stands in. -/
inductive Stage where
  | one (s2en : Bool)
  | two
  | insn (s2en : Bool)
  deriving DecidableEq, Repr, Inhabited

/-- The code of an entry that is not valid (R300). -/
def Stage.notMapped : Stage → Nat
  | .two => 3
  | _ => 1

/-- Does an entry with V = 1 break R299 (or R305) at a level? The agreement of large pages apart. -/
def entryBad (st : Stage) (lvl e : Nat) : Bool :=
  let size := 2 ^ levelShift lvl
  let reserved := bits e 12 10 != 0
  if !pteLeaf e then
    reserved || lvl = 3 || bits e 9 2 != 0 || (match st with | .insn _ => lvl = 2 | _ => false)
  else
    let shape := lvl = 0 || (pteSZ e && lvl < 2)
    let align := pteAddr e % size != 0
    let fields := match st with
      | .one s2 => s2 && (pteD e || bits e 63 53 != 0)
      | .two => pteFidx e != 0
      | .insn s2 => !pteRD e || pteWR e || pteFidx e != 0 || pteD e || lvl = 3 || (s2 && bits e 63 53 != 0)
    reserved || shape || align || fields

/-- A page that a walk found: its base, where it maps to, its size, permissions, format index, the D of the leaf that was
walked, and the addresses of the entries that carry D. -/
structure Page where
  va : Nat
  out : Nat
  size : Nat
  rd : Bool
  wr : Bool
  fidx : Nat
  d : Bool
  leaves : List Nat
  deriving DecidableEq, Repr, Inhabited

/-- Read a table entry at its home: WALK_UE for an uncorrectable error, HOME where it has none. -/
def State.readEntry (s : State) (pa : Nat) : Except Nat Nat :=
  match s.home pa with
  | .rim a => if s.rimPoisoned a 8 then .error 8 else .ok (s.rimRead a 8)
  | .remote _ => .ok (openAt s.tick 4 pa).toNat
  | .none => .error 6

/-- Read the other entries of a large page. -/
def State.readEntries (s : State) (pa : Nat) : (k : Nat) → Except Nat (List Nat)
  | 0 => .ok []
  | k + 1 => do
    let e ← s.readEntry pa
    let es ← s.readEntries (pa + 8) k
    .ok (e :: es)

/-- Do the 32 entries of a large page agree: the same attributes but for D, addresses rising by the base size, and an
output aligned to the large size (R299)? -/
def largeAgrees (size : Nat) (es : List Nat) : Bool :=
  let attr (e : Nat) : Nat := setBits (e % 8192) 9 9 0
  let e0 := es.headD 0
  pteAddr e0 % (32 * size) == 0
    && ((List.range es.length).zip es).all (fun p => attr p.2 == attr e0 && pteAddr p.2 == pteAddr e0 + p.1 * size)

/-- A walk from a level down. `table` turns the address of an entry into a system physical one. -/
def State.walk (s : State) (st : Stage) (table : Nat → Except Nat Nat) (va : Nat) :
    (fuel lvl at_ : Nat) → Except Nat Page
  | 0, _, _ => .error 5
  | k + 1, lvl, at_ => do
    let width := match st, lvl with
      | .insn _, 0 => 2 ^ 11
      | _, _ => 2 ^ 10
    let sh := levelShift lvl
    let idx := va / 2 ^ sh % width
    let pte ← table (at_ + 8 * idx)
    let e ← s.readEntry pte
    if !pteV e then .error st.notMapped
    else if entryBad st lvl e then .error 5
    else if !pteLeaf e then s.walk st table va k (lvl + 1) (pteAddr e)
    else if pteSZ e then
      let first := pte - 8 * (idx % 32)
      let es ← s.readEntries first 32
      if !largeAgrees (2 ^ sh) es then .error 5
      else
        .ok { va := va / (32 * 2 ^ sh) * (32 * 2 ^ sh), out := pteAddr (es.headD 0), size := 32 * 2 ^ sh, rd := pteRD e,
              wr := pteWR e, fidx := pteFidx e, d := pteD e,
              leaves := (List.range 32).map (fun i => first + 8 * i) }
    else
      .ok { va := va / 2 ^ sh * 2 ^ sh, out := pteAddr e, size := 2 ^ sh, rd := pteRD e, wr := pteWR e, fidx := pteFidx e,
            d := pteD e, leaves := [pte] }

/-- Stage 2 of a guest physical address (R300 step 4): identity with S2EN = 0. -/
def State.stage2 (s : State) (d : CtxDesc) (gpa : Nat) (needWr : Bool) : Except Nat Page :=
  if !d.s2en then
    .ok { va := 0, out := 0, size := 2 ^ 64, rd := true, wr := true, fidx := 0, d := true, leaves := [] }
  else if 2 ^ 53 ≤ gpa then .error 3
  else do
    let p ← s.walk .two .ok gpa 4 0 d.s2root
    if (if needWr then p.wr else p.rd) then .ok p else .error 4

/-- The system physical address that a page gives an address. -/
def Page.at (p : Page) (a : Nat) : Nat := p.out + (a - p.va)

/-- An entry's address through stage 2 (R300 step 2). -/
def State.tableAt (s : State) (d : CtxDesc) (a : Nat) : Except Nat Nat := do
  let p ← s.stage2 d a false
  .ok (p.at a)

/-- What the two stages give an address: the system physical address, the stage-1 page, and the final-stage page. -/
def State.translate (s : State) (d : CtxDesc) (va : Nat) (isWrite : Bool) : Except Nat (Nat × Page × Page) :=
  if 2 ^ 53 ≤ va then .error 1
  else do
    let p1 ← s.walk (.one d.s2en) (s.tableAt d) va 4 0 d.s1root
    if !(if isWrite then p1.wr else p1.rd) then .error 2
    else
      let gpa := p1.at va
      let p2 ← s.stage2 d gpa isWrite
      let pa := p2.at gpa
      match s.home pa with
      | .none => .error 6
      | _ => .ok (pa, p1, if d.s2en then p2 else p1)

/-- The instruction space (R305): a fetch address of 54 bits. -/
def State.translateInsn (s : State) (d : CtxDesc) (va : Nat) : Except Nat (Nat × Page) := do
  let p1 ← s.walk (.insn d.s2en) (s.tableAt d) va 3 0 d.iroot
  let gpa := p1.at va
  let p2 ← s.stage2 d gpa false
  let pa := p2.at gpa
  match s.home pa with
  | .none => .error 6
  | _ => .ok (pa, { p1 with size := min p1.size p2.size })

/-! ## The fold translation unit (R301) -/

/-- Does a held entry translate an address, of the data or of the instruction space? -/
def TlbEntry.covers (e : TlbEntry) (insn : Bool) (ctx vmid s1 s2 va : Nat) : Bool :=
  e.insn == insn && e.ctx == ctx && e.vmid == vmid && e.s1gen == s1 && e.s2gen == s2 && e.va ≤ va && va < e.va + e.size

/-- The page of an entry. -/
def TlbEntry.page (e : TlbEntry) : PageRun := ⟨e.va, e.gpa, e.size⟩

/-- May a held data entry serve an access? An entry of an old generation is never used (R303); one walked with D = 0 serves no
write here: the unit walks again and sets D. -/
def TlbEntry.serves (e : TlbEntry) (ctx vmid s1 s2 va : Nat) (isWrite : Bool) : Bool :=
  e.covers false ctx vmid s1 s2 va && (if isWrite then e.wr && e.d else e.rd)

/-- Set D in the entries of a page (R299). -/
def State.setD (s : State) (leaves : List Nat) : State :=
  leaves.foldl (fun s a => match s.home a with
    | .rim a => s.rimWrite a 8 (setBits (s.rimRead a 8) 9 9 1)
    | _ => s) s

/-- The FORMAT check (R300 step 6): the record of the page, when it is ill-formed or a BLOAD refuses it. -/
def formatRefused (d : CtxDesc) (fidx : Nat) (need : Option Nat) : Option Nat :=
  let rec_ := (vget d.fmttab fidx 0).toNat
  if recordIllFormed rec_ then some rec_
  else match need with
    | some f => if bits rec_ 3 0 != 0 && bits rec_ 3 0 != f then some rec_ else none
    | none => none

/-- What a segment's translation gives. -/
inductive SegXlat where
  | ok (pa : Nat) (page : PageRun)
  | fault (reason : Nat)
  | format (record : Nat)
  deriving DecidableEq, Repr, Inhabited

/-- A unit installs an entry: 4,096 are held. -/
def State.tlbPut (s : State) (fold : Nat) (e : TlbEntry) : State :=
  s.modFold fold (fun f => { f with tlb := (e :: f.tlb).take 4096 })

/-- Walk for a segment, set D before a first write, and install the entry. -/
def State.xlatWalk (s : State) (v : VRef) (va : Nat) (isWrite : Bool) (need : Option Nat) (fold s2g : Nat) :
    State × SegXlat :=
  let c := s.ctx v.ctx
  let d := c.desc
  match s.translate d va isWrite with
  | .error r => (s, .fault r)
  | .ok (pa, p1, pf) =>
    match formatRefused d p1.fidx need with
    | some r => (s, .format r)
    | none =>
      let s := if isWrite && !pf.d then s.setD pf.leaves else s
      let size := min p1.size (if d.s2en then pf.size else p1.size)
      let base := va / size * size
      let e : TlbEntry :=
        { ctx := v.ctx, vmid := d.vmid, va := base, gpa := p1.at base, pa := pa - (va - base), size := size,
          rd := p1.rd && pf.rd, wr := p1.wr && pf.wr, fidx := p1.fidx, d := pf.d, s1gen := c.s1gen, s2gen := s2g }
      (s.tlbPut fold e, .ok pa e.page)

/-- Translate a segment for the engine of a vtile (R300, R301): from the TLB of its fold while an entry is held, else by
a walk, whose entry is installed when it passes. Steps 5 and 6 are met for every segment: a held entry does not carry the
route of its page (R297, R408). -/
def State.xlatSegment (s : State) (v : VRef) (va : Nat) (isWrite : Bool) (need : Option Nat) : State × SegXlat :=
  let c := s.ctx v.ctx
  let d := c.desc
  let fold := foldOfSite (s.vt v).site
  let s2g := Tbl.getD s.s2gen d.vmid 0
  match (s.fold fold).tlb.find? (fun e => e.serves v.ctx d.vmid c.s1gen s2g va isWrite) with
  | some e =>
    if Config.stillCached s.tick then
      if s.home (e.pa + (va - e.va)) = .none then (s, .fault 6)
      else match formatRefused d e.fidx need with
        | some r => (s, .format r)
        | none => (s, .ok (e.pa + (va - e.va)) e.page)
    else s.xlatWalk v va isWrite need fold s2g
  | none => s.xlatWalk v va isWrite need fold s2g

/-- Translate a fetch address for the instruction TLB of a tile (R306): by an instruction entry of its fold while one is held,
else by a walk, whose entry is installed when it passes. Answers the address and the page. -/
def State.xlatInsn (s : State) (ctx site va : Nat) : State × Except Nat (Nat × PageRun) :=
  let c := s.ctx ctx
  let d := c.desc
  let fold := foldOfSite site
  let s2g := Tbl.getD s.s2gen d.vmid 0
  match (s.fold fold).tlb.find? (fun e => e.covers true ctx d.vmid c.s1gen s2g va), Config.stillCached s.tick with
  | some e, true =>
    if s.home (e.pa + (va - e.va)) = .none then (s, .error 6) else (s, .ok (e.pa + (va - e.va), e.page))
  | _, _ => match s.translateInsn d va with
    | .error r => (s, .error r)
    | .ok (pa, p) =>
      let base := va / p.size * p.size
      let e : TlbEntry :=
        { ctx := ctx, vmid := d.vmid, va := base, gpa := p.at base, pa := pa - (va - base), size := p.size, rd := true,
          wr := false, fidx := 0, d := false, s1gen := c.s1gen, s2gen := s2g, insn := true }
      (s.tlbPut fold e, .ok (pa, e.page))

end Sys2Proof.Machine
end

