-- ==== Sys2Proof/Machine/Copy.lean ====
section
/-!
DEFINITION. The copy engine (R210 to R221): descriptors and their checks, the CPE triggers, segments and their
translation, faults and restarts (R215, R352), landings (R214, R283, R332), ring transfers (R219) and batches (R220).
-/
namespace Sys2Proof.Machine

/-! ## Descriptors (R211) -/

def dRmt (d : Nat) : Nat := bits d 63 0
def dAux (d : Nat) : Nat := bits d 127 64
def dLocal (d : Nat) : Nat := bits d 149 128
def dLen (d : Nat) : Nat := bits d 182 160
def dAw (d : Nat) : Nat := bits d 213 192
def dAwen (d : Nat) : Bool := bit d 223
def dNidx (d : Nat) : Nat := bits d 239 224
def dPort (d : Nat) : Nat := bits d 244 240
def dCen (d : Nat) : Bool := bit d 247
def dRank (d : Nat) : Nat := bits d 47 24
def dInc (d : Nat) : Nat := bits d 87 64

/-- Bits that a trigger's descriptor names. -/
def dNamed (op : CpeOp) : List (Nat × Nat) :=
  let common := [(149, 128), (182, 160), (213, 192), (223, 223)]
  match op with
  | .send => [(21, 0), (47, 24), (87, 64)] ++ common
  | .rsend => [(2, 0), (47, 24), (87, 64)] ++ common
  | .read => [(63, 0), (244, 240), (247, 247)] ++ common
  | .store => [(63, 0)] ++ common
  | .muster => [(63, 0), (127, 64), (239, 224), (244, 240), (247, 247)] ++ common
  | .scatter => [(63, 0), (85, 64), (239, 224)] ++ common
  | _ => []

def cpeRows (op : CpeOp) : Bool := op == .muster || op == .scatter
def cpeRemote (op : CpeOp) : Bool := op == .send || op == .rsend
def cpeWritesLocal (op : CpeOp) : Bool := op == .read || op == .muster
def cpeWritesMemory (op : CpeOp) : Bool := op == .store || op == .scatter

/-- Bytes of the local range. -/
def dTotal (op : CpeOp) (d : Nat) : Nat := if cpeRows op then dNidx d * dLen d else dLen d

/-- R212 step 2. -/
def dCommandBad (op : CpeOp) (ranks d : Nat) : Bool :=
  ((dNamed op).foldl (fun x p => setBits x p.1 p.2 0) d != 0)
    || dLen d = 0 || 0x400000 < dLen d
    || (cpeRows op && dNidx d = 0)
    || (dAwen d && dAw d % 16 != 0)
    || (cpeRemote op && ranks ≤ dRank d)
    || (op == .send && 0x400000 < bits d 21 0 + dLen d)

/-- The descriptor at `.a`, with the bytes of the instruction's own stores (R94). -/
def State.readDesc (s : State) (r : SRef) : Nat := s.spReadFwd r (s.slot r).nextId ((s.slot r).lat.cpe.a.toNat) 32

/-- The checks of R212, in order. -/
def cpeCheck (op : CpeOp) (s : State) (r : SRef) : Option (Nat × Word) :=
  let a := (s.slot r).lat.cpe.a.toNat
  let t := s.vt r.vt
  if !inBounds a 32 then some (0x09, word a)
  else if a % 32 != 0 then some (0x0A, word a)
  else
    let d := s.readDesc r
    let own := op == .send && dRank d = r.vt.rank
    if dCommandBad op (s.ctx r.vt.ctx).ranks d then some (0x17, word a)
    else if !inBounds (dLocal d) (dTotal op d) then some (0x09, word (dLocal d))
    else if op == .scatter && !inBounds (bits d 85 64) (4 * dNidx d) then some (0x09, word (bits d 85 64))
    else if dAwen d && !cpeRemote op && !inBounds (dAw d) 16 then some (0x09, word (dAw d))
    else if cpeWritesLocal op && t.overlapsPorts (dLocal d) (dTotal op d) then some (0x09, word (dLocal d))
    else if own && t.overlapsPorts (bits d 21 0) (dLen d) then some (0x09, word (bits d 21 0))
    else none

/-! ## Segments (R213) -/

/-- Split a run at the 8,192-byte boundaries of its address. -/
def splitRun (addr loc len row : Nat) (st : Nat → SegState) : List Seg :=
  if len = 0 then []
  else
    let n := (addr + len - 1) / 8192 - addr / 8192 + 1
    (List.range n).map (fun p =>
      let lo := if p = 0 then addr else (addr / 8192 + p) * 8192
      let hi := min (addr + len) ((addr / 8192 + p + 1) * 8192)
      { addr := lo, loc := loc + (lo - addr), len := hi - lo, row := row, st := st lo, landed := none })

def untranslated (_ : Nat) : SegState := .untranslated
def readyAt (a : Nat) : SegState := .ready a

/-- The segments of row t of a muster or scatter. -/
def rowSegs (d t idx : Nat) : List Seg := splitRun (dRmt d + idx * dLen d) (dLocal d + t * dLen d) (dLen d) t untranslated

/-! ## Triggers -/

/-- Accept a copy (R210, R217): read the descriptor, take CSEQ, an SSEQ for a completion message, and join the open
batch. -/
def State.acceptCopy (s : State) (r : SRef) (op : CpeOp) (m : BitVec 3) : State :=
  let v := r.vt
  let sl := s.slot r
  let t := s.vt v
  let d := s.readDesc r
  let a := sl.lat.cpe.a.toNat
  let takesSeq := cpeWritesLocal op && dCen d
  let idxs := if op == .scatter then
      (List.range (dNidx d)).map (fun i => s.spReadFwd r sl.nextId (bits d 85 64 + 4 * i) 4) else []
  let segs := match op with
    | .send => splitRun (bits d 21 0) (dLocal d) (dLen d) 0 readyAt
    | .read | .store => splitRun (dRmt d) (dLocal d) (dLen d) 0 untranslated
    | .scatter => ((List.range idxs.length).zip idxs).flatMap (fun p => rowSegs d p.1 p.2)
    | _ => []
  let c : Copy :=
    { cseq := t.cseq, op := op, desc := d, descAddr := a, batch := t.bopen, slot := r.slot.val, fid := sl.nextId, ix := sl.ix,
      mseq := t.mseq, tag := sl.relTag, idxBytes := [],
      idxSegs := if op == .muster then splitRun (dAux d) 0 (4 * dNidx d) 0 untranslated else [],
      segs := segs, spoiled := [], cutRow := none, status := 0, finished := false, missSent := false, dlSent := false }
  let s := s.spCorrect v a 32
  let s := if op == .scatter then s.spCorrect v (bits d 85 64) (4 * dNidx d) else s
  let s := s.modVt v (fun t => { t with
    copies := t.copies ++ [c]
    cseq := (t.cseq + 1) % 2 ^ 32
    mseq := if takesSeq then (t.mseq + 1) % 2 ^ 32 else t.mseq })
  s.modSlot r (fun sl => sl.fire (.cpe op) m (landQ (word (t.bopen % 2 ^ 16 + t.cseq * 2 ^ 32))))

/-- A copy trigger: it waits while 64 copies have not finished (R210). -/
def copyMeaning (op : CpeOp) (m : BitVec 3) : TrigMeaning :=
  { trig := .cpe op
    stall := fun s r => 64 ≤ ((s.vt r.vt).copies.filter (fun c => !c.finished)).length
    check := cpeCheck op
    fire := fun s r => s.acceptCopy r op m }

/-- R213 send. -/
def cpeSendMeaning (m : BitVec 3) : TrigMeaning := copyMeaning .send m
def execCpeSend (m : BitVec 3) (s : State) : Host.Outcome State Fault Refusal := runTrigger (cpeSendMeaning m) m s

/-- R213 read. -/
def cpeReadMeaning (m : BitVec 3) : TrigMeaning := copyMeaning .read m
def execCpeRead (m : BitVec 3) (s : State) : Host.Outcome State Fault Refusal := runTrigger (cpeReadMeaning m) m s

/-- R213 store. -/
def cpeStoreMeaning (m : BitVec 3) : TrigMeaning := copyMeaning .store m
def execCpeStore (m : BitVec 3) (s : State) : Host.Outcome State Fault Refusal := runTrigger (cpeStoreMeaning m) m s

/-- R216 muster. -/
def cpeMusterMeaning (m : BitVec 3) : TrigMeaning := copyMeaning .muster m
def execCpeMuster (m : BitVec 3) (s : State) : Host.Outcome State Fault Refusal := runTrigger (cpeMusterMeaning m) m s

/-- R217 scatter. -/
def cpeScatterMeaning (m : BitVec 3) : TrigMeaning := copyMeaning .scatter m
def execCpeScatter (m : BitVec 3) (s : State) : Host.Outcome State Fault Refusal := runTrigger (cpeScatterMeaning m) m s

/-- R213, R219 rsend. -/
def cpeRsendMeaning (m : BitVec 3) : TrigMeaning := copyMeaning .rsend m
def execCpeRsend (m : BitVec 3) (s : State) : Host.Outcome State Fault Refusal := runTrigger (cpeRsendMeaning m) m s

/-- A seal or cwait: a pending record until it may be performed, which it is at once when it may. -/
def batchMeaning (op : CpeOp) (m : BitVec 3) (stall : State → SRef → Bool) : TrigMeaning :=
  { trig := .cpe op
    stall := stall
    check := noCheck
    fire := fun s r =>
      let f := (s.slot r).newFlight (.cpe op) m false none
      let s := s.modSlot r (fun sl => sl.launch f)
      if s.batchReady r f then s.performBatch r f else s }

/-- R220 seal. -/
def cpeSealMeaning (m : BitVec 3) : TrigMeaning := batchMeaning .seal m (fun s r => (s.vt r.vt).sealFull)
def execCpeSeal (m : BitVec 3) (s : State) : Host.Outcome State Fault Refusal := runTrigger (cpeSealMeaning m) m s

/-- R220 cwait: a pending record until UNFIN <= n; then `%batch`. -/
def cpeCwaitMeaning (m : BitVec 3) : TrigMeaning := batchMeaning .cwait m noStall
def execCpeCwait (m : BitVec 3) (s : State) : Host.Outcome State Fault Refusal := runTrigger (cpeCwaitMeaning m) m s

/-! ## Copies of a vtile -/

def Vtile.copy? (t : Vtile) (cseq : Nat) : Option Copy := t.copies.find? (fun c => c.cseq == cseq && !c.finished)

def State.modCopy (s : State) (v : VRef) (cseq : Nat) (f : Copy → Copy) : State :=
  s.modVt v (fun t => { t with copies := modifyFirst (fun c => c.cseq == cseq && !c.finished) f t.copies })

/-- Have the slot's stores before the trigger been performed (R94), and what R261 keeps before it? -/
def State.copyStarted (s : State) (v : VRef) (c : Copy) : Bool :=
  let r : SRef := ⟨v, Fin.ofNat 8 c.slot⟩
  let near := cpeWritesLocal c.op || (cpeRemote c.op && s.rankInField v (dRank c.desc))
  !(s.slot r).storesBefore c.fid && !(near && (s.keptBefore r c.fid || s.fieldSends r c.fid))

/-- A copy finishes (R218): its batch may finish (R220), and its completion message goes to the own port. -/
def State.finishCopy (s : State) (v : VRef) (cseq status : Nat) : State :=
  match (s.vt v).copy? cseq with
  | none => s
  | some c =>
    let s := s.modVt v (fun t =>
      let left := t.copies.any (fun o => o.batch == c.batch && !o.finished && o.cseq != cseq)
      { t with
        copies := if c.batch = t.bopen then
            modifyFirst (fun o => o.cseq == cseq && !o.finished) (fun o => { o with finished := true, segs := [], idxSegs := [] }) t.copies
          else removeFirst (fun o => o.cseq == cseq && !o.finished) t.copies
        sealed := if left then t.sealed else t.sealed.filter (fun b => b != c.batch) })
    if cpeWritesLocal c.op && dCen c.desc then
      let inc := (s.vt v).inc
      s.post v.ctx { id := 0, drank := v.rank, dport := dPort c.desc, dinc := inc, srank := v.rank, sinc := inc,
                     sseq := c.mseq, kind := 3, reason := 0,
                     payload := [word (c.descAddr % 2 ^ 22 + status * 2 ^ 32), word cseq], poison := 0, tags := [],
                     ring := none, aw := none, toCtxPort := false, after := none }
    else s

/-- Has every segment been dealt with? A ring transfer has segments only after its reservation. -/
def Copy.complete (c : Copy) : Bool :=
  c.idxSegs.all (fun g => g.st == .done) && c.segs.all (fun g => g.st == .done)
    && !(c.op == .rsend && c.segs.isEmpty)

/-- Finish the copy when nothing of it is left. -/
def State.copyCheck (s : State) (v : VRef) (cseq : Nat) : State :=
  match (s.vt v).copy? cseq with
  | some c => if c.complete then s.finishCopy v cseq c.status else s
  | none => s

/-- A copy is dead-lettered (R214, R248). -/
def State.deadCopy (s : State) (v : VRef) (c : Copy) (reason : Nat) : State :=
  let d := c.desc
  let w (i : Nat) : Word := word (bits d (64 * i + 63) (64 * i))
  s.postDead v.ctx v.rank (s.vt v).inc 0 reason [destWord (dRank d) 0 (dInc d), word c.cseq, w 0, w 1, w 2, w 3] 0

/-- The destination of a send or rsend, when its incarnation is current (R214, R249). -/
def State.copyDest (s : State) (v : VRef) (c : Copy) : Option VRef :=
  let u : VRef := ⟨v.ctx, dRank c.desc⟩
  if s.hasVt u && (s.vt u).inc == dInc c.desc then some u else none

/-! ## Segments: by number over the index list's and then the data's -/

def Copy.seg? (c : Copy) (k : Nat) : Option Seg :=
  if k < c.idxSegs.length then c.idxSegs[k]? else c.segs[k - c.idxSegs.length]?

def Copy.modSeg (c : Copy) (k : Nat) (f : Seg → Seg) : Copy :=
  if k < c.idxSegs.length then { c with idxSegs := listModify c.idxSegs k f }
  else { c with segs := listModify c.segs (k - c.idxSegs.length) f }

def Copy.setSeg (c : Copy) (k : Nat) (st : SegState) : Copy := c.modSeg k (fun g => { g with st := st })

/-- A format fault at segment k: that segment and every later one of the command are abandoned (R63); the earlier ones
land and count (R215). A row comes after the index segments that give its index, and before the later ones (log 94). -/
def Copy.abandonFrom (c : Copy) (k : Nat) : Copy :=
  let drop (g : Seg) : Seg := { g with st := .done }
  let cut := if k < c.idxSegs.length then
      match c.idxSegs[k]? with
      | some g => (g.loc / 4, 0)
      | none => (0, 0)
    else match c.segs[k - c.idxSegs.length]? with
      | some g => (g.row, g.addr)
      | none => (0, 0)
  let late (g : Seg) : Bool := cut.1 < g.row || (g.row == cut.1 && decide (cut.2 ≤ g.addr))
  { c with
    status := 1
    cutRow := some (match c.cutRow with | some t => min t cut.1 | none => cut.1)
    spoiled := c.spoiled ++ [cut.1]
    idxSegs := if k < c.idxSegs.length then c.idxSegs.take k ++ (c.idxSegs.drop k).map drop
      else c.idxSegs.map (fun g => if 4 * cut.1 < g.loc then drop g else g)
    segs := c.segs.map (fun g => if late g then drop g else g) }

/-- The fault message of a segment (R215). Its SSEQ is 0: R202 numbers a vtile's messages and copies, and no rule gives this one a
number (log 98). -/
def State.segFault (s : State) (v : VRef) (va reason point num : Nat) : State :=
  s.postSup v.ctx v.rank (s.vt v).inc 0 0x23 [word va, word (reason + point * 2 ^ 8 + num * 2 ^ 16)]

/-- A rim BLOAD that runs, by its SEQ. -/
def Vtile.bload? (t : Vtile) (seq : Nat) : Option MxCmd :=
  match t.mx.queue with
  | e :: _ => if e.seq == seq && mxOp e.c == 2 && mxRim e.c && t.mx.run.started then some e else none
  | [] => none

/-- The segment of an owner that waits for its translation. -/
def State.toTranslate (s : State) (v : VRef) (o : SegOwner) (k : Nat) : Option Seg :=
  let t := s.vt v
  match o with
  | .copy q => match t.copy? q.toNat with
    | some c => match c.seg? k with
      | some g => if g.st == .untranslated && s.copyStarted v c then some g else none
      | none => none
    | none => none
  | .bload q => match t.bload? q.toNat with
    | some _ => match t.mx.run.segs[k]? with
      | some g => if g.st == .untranslated && s.running v then some g else none
      | none => none
    | none => none

/-- R215, R300 SEGMENT_TRANSLATION: the segment is ready, waits on a fault, or abandons its command (R63). -/
def execSegmentTranslation (v : VRef) (o : SegOwner) (k : Nat) (s : State) : Host.Outcome State Fault Refusal :=
  match s.toTranslate v o k with
  | none => .refused (.notEnabled "SEGMENT_TRANSLATION")
  | some g =>
    match o with
    | .copy q =>
      let q := q.toNat
      match (s.vt v).copy? q with
      | none => .refused (.notEnabled "SEGMENT_TRANSLATION")
      | some c =>
        let isIdx := k < c.idxSegs.length
        let (s, x) := s.xlatSegment v g.addr (cpeWritesMemory c.op) none
        .next (match x with
          | .ok pa page => s.modCopy v q (fun c => c.modSeg k (fun g => { g with st := .ready pa, page := page, dying := false }))
          | .fault r => (s.modCopy v q (fun c => c.setSeg k (.fault r))).segFault v g.addr r (if isIdx then 1 else 0) q
          | .format rec => ((s.formatFault v c.slot c.ix rec g.addr).modCopy v q (fun c => c.abandonFrom k)).copyCheck v q)
    | .bload q =>
      let q := q.toNat
      match (s.vt v).bload? q with
      | none => .refused (.notEnabled "SEGMENT_TRANSLATION")
      | some e =>
        let (s, x) := s.xlatSegment v g.addr false (some (bits (mxAFmt e.c) 3 0))
        let set (f : Seg → Seg) (s : State) : State := s.modRun v (fun r => { r with segs := listModify r.segs k f })
        .next (match x with
          | .ok pa page => set (fun g => { g with st := .ready pa, page := page, dying := false }) s
          | .fault r => (set (fun g => { g with st := .fault r }) s).segFault v g.addr r 2 q
          | .format rec => (s.modRun v (fun r => { r with
              status := 3, segs := r.segs.take k ++ (r.segs.drop k).map (fun g => { g with st := .done }) })).formatFault
                v e.slot e.ix rec g.addr)

/-! ## Bytes of memory for an engine -/

/-- Bytes at a home: rim memory, or another module's, whose bytes are open to this model. -/
def State.homeBytes (s : State) (pa n : Nat) : List Byte :=
  match s.home pa with
  | .rim a => (List.range n).map (fun i => memGet s.rim.mem (a + i))
  | _ => (List.range n).map (fun i => (openAt s.tick 3 (pa + i)).setWidth 8)

/-- Is byte i from pa poisoned (R296)? -/
def State.homeBad (s : State) (pa i : Nat) : Bool :=
  match s.home pa with
  | .rim a => s.rimPoisoned (a + i) 1
  | _ => false

/-- Write bytes at a home as one write; poisoned source bytes poison their bursts (R283, R296). -/
def State.homeWrite (s : State) (pa : Nat) (bs : List Byte) (bad : Nat → Bool) : State :=
  match s.home pa with
  | .rim a =>
    let s := s.rimWriteBytes a bs
    { s with rim := { s.rim with poison :=
        (List.range bs.length).foldl (fun p i => if bad i then setIns p ((a + i) / 64) else p) s.rim.poison } }
  | _ => s

/-- Land bytes in a scratchpad; poisoned source bytes poison their words (R283). -/
def State.landBytes (s : State) (v : VRef) (a : Nat) (bs : List Byte) (bad : Nat → Bool) : State :=
  let s := s.engineWrite v a bs
  (List.range bs.length).foldl (fun s i => if bad i then s.spPoison v (a + i) 1 else s) s

/-! ## R216 MUSTER_INDEX_READ -/

/-- The index of row t, when all its bytes have been read. -/
def Copy.index? (c : Copy) (t : Nat) : Option Nat :=
  match Tbl.find? c.idxBytes (4 * t), Tbl.find? c.idxBytes (4 * t + 1), Tbl.find? c.idxBytes (4 * t + 2),
      Tbl.find? c.idxBytes (4 * t + 3) with
  | some a, some b, some d, some e => some (ofBytes [a, b, d, e])
  | _, _, _, _ => none

/-- The number of the first index segment that is translated and not read. -/
def Copy.idxReady (c : Copy) : Option (Nat × Seg × Nat) :=
  ((List.range c.idxSegs.length).zip c.idxSegs).findSome? (fun p => match p.2.st with
    | .ready pa => some (p.1, p.2, pa)
    | _ => none)

/-- R216 MUSTER_INDEX_READ: one segment of the index list is read, and the rows whose indices are then known may start. A
poisoned index word has no stated value: its bytes are open. -/
def execMusterIndexRead (v : VRef) (cseq : Word32) (s : State) : Host.Outcome State Fault Refusal :=
  match (s.vt v).copy? cseq.toNat with
  | none => .refused (.notEnabled "MUSTER_INDEX_READ")
  | some c => match c.idxReady with
    | none => .refused (.notEnabled "MUSTER_INDEX_READ")
    | some (k, g, pa) =>
      let bs := ((List.range g.len).zip (s.homeBytes pa g.len)).map (fun p =>
        if s.homeBad pa p.1 then (openAt s.tick 3 (pa + p.1)).setWidth 8 else p.2)
      let c := c.setSeg k .done
      let c := { c with idxBytes := ((List.range g.len).zip bs).foldl (fun m (p : Nat × Byte) => Tbl.put m (g.loc + p.1) p.2) c.idxBytes }
      let rows := (List.range (dNidx c.desc)).filter (fun t => g.loc < 4 * t + 4 && 4 * t < g.loc + g.len)
      let new := (rows.filter (fun t => match c.cutRow with
        | some k => t < k
        | none => true)).flatMap (fun t => match c.index? t with
        | some i => rowSegs c.desc t i
        | none => [])
      .next ((s.modCopy v cseq.toNat (fun _ => { c with segs := c.segs ++ new })).copyCheck v cseq.toNat)

/-! ## R219 RING_RESERVATION -/

/-- Is the ring usable for a transfer of n bytes? -/
def Vtile.ringUsable (t : Vtile) (g : Ring) (n : Nat) : Bool :=
  g.logsz != 0 && n ≤ 2 ^ g.logsz && !t.overlapsPorts g.base (2 ^ g.logsz)

/-- Is there room for n bytes? -/
def Ring.room (g : Ring) (n : Nat) : Bool := wrap ((g.res : Int) + n - g.drain) 32 ≤ 2 ^ g.logsz

/-- Pieces of a transfer in the ring's area: they end at its end and at 8,192-byte boundaries. -/
def ringSegs (g : Ring) (start loc len : Nat) : List Seg :=
  let size := 2 ^ g.logsz
  let at_ := start % size
  let first := min len (size - at_)
  splitRun (g.base + at_) loc first 0 readyAt ++ splitRun g.base (loc + first) (len - first) 0 readyAt

/-- FILL advances over the transfers that have wholly landed, in the order of their reservations. -/
def Ring.advance (g : Ring) : Ring :=
  go g.xfers.length g
where
  /-- Over at most k transfers. -/
  go : Nat → Ring → Ring
    | 0, g => g
    | k + 1, g => match g.xfers with
      | x :: xs => (match x.done, x.start with
        | true, some st => go k { g with fill := (st + x.len) % 2 ^ 32, xfers := xs }
        | _, _ => g)
      | [] => g

/-- The rsend that may reserve now: the first of its vtile to that ring, with room for it, or one that cannot land. -/
def State.toReserve (s : State) (v : VRef) (cseq : Nat) : Option Copy :=
  let t := s.vt v
  match t.copy? cseq with
  | none => none
  | some c =>
    let same (o : Copy) : Bool := o.op == .rsend && !o.finished && o.segs.isEmpty && dRank o.desc == dRank c.desc
      && bits o.desc 2 0 == bits c.desc 2 0
    if c.op == .rsend && c.segs.isEmpty && s.copyStarted v c && (t.copies.find? same).map Copy.cseq == some cseq then
      match s.copyDest v c with
      | none => some c
      | some u =>
        let g := vget (s.vt u).rings (bits c.desc 2 0) Ring.blank
        if !(s.vt u).ringUsable g (dLen c.desc) || g.room (dLen c.desc) then some c else none
    else none

/-- R219 RING_RESERVATION: the first bytes of an rsend arrive. -/
def execRingReservation (v : VRef) (cseq : Word32) (s : State) : Host.Outcome State Fault Refusal :=
  let q := cseq.toNat
  match s.toReserve v q with
  | none => .refused (.notEnabled "RING_RESERVATION")
  | some c => match s.copyDest v c with
    | none => .next ((s.deadCopy v c 0x06).finishCopy v q 0)
    | some u =>
      let i := bits c.desc 2 0
      let g := vget (s.vt u).rings i Ring.blank
      let n := dLen c.desc
      if !(s.vt u).ringUsable g n then .next ((s.deadCopy v c 0x07).finishCopy v q 0)
      else
        let s := s.modVt u (fun t => { t with rings := vmod t.rings i (fun g => { g with
          res := (g.res + n) % 2 ^ 32
          xfers := g.xfers ++ [{ src := v.rank, cseq := q, isMsg := false, len := n, start := some g.res, done := false }] }) })
        .next (s.modCopy v q (fun c => { c with segs := ringSegs g g.res (dLocal c.desc) n }))

/-! ## R214 COPY_LANDING -/

/-- Where the bytes of a copy's segment go, when that is a scratchpad. -/
def State.segTarget (s : State) (v : VRef) (c : Copy) : Option VRef :=
  if cpeRemote c.op then s.copyDest v c else some v

/-- The segment of an owner that may land now: translated, and nothing it touches in a running vtile waits to be restored
(R284). -/
def State.toLand (s : State) (v : VRef) (o : SegOwner) (k : Nat) : Option (Seg × Nat) :=
  let t := s.vt v
  match o with
  | .bload q => match t.bload? q.toNat with
    | none => none
    | some e => match t.mx.run.segs[k]? with
      | some g => (match g.st with
        | .ready pa =>
          if s.active v && (bloadCells e.c g.row).any (fun p => t.mx.bsUnitOut p.1 p.2) then none else some (g, pa)
        | _ => none)
      | none => none
  | .copy q => match t.copy? q.toNat with
    | none => none
    | some c =>
      if k < c.idxSegs.length then none else
      match c.seg? k with
      | none => none
      | some g => match g.st with
        | .ready pa =>
          let blocked := match s.segTarget v c with
            | none => false
            | some u =>
              let dst := if cpeRemote c.op then s.landWaits u g.addr g.len else false
              let own := s.landWaits v g.loc g.len
              let aw := dAwen c.desc && s.landWaits u (dAw c.desc) 16
              dst || own || aw
          if s.copyStarted v c && !blocked then some (g, pa) else none
        | _ => none

/-- Count a landing on the copy's arrival word (R31). -/
def State.countLanding (s : State) (u : VRef) (c : Copy) (n : Nat) : State :=
  if dAwen c.desc then s.arrive u (dAw c.desc) n else s

/-- The routers' check of a tagged landing (R277): one report a copy. -/
def State.checkCopy (s : State) (v : VRef) (c : Copy) (need loc : Nat) (location : Word) (seqno : Nat) : State :=
  match c.tag with
  | some g =>
    if c.missSent then s
    else
      let (s, missed) := s.checkTag v.ctx g need loc location (word seqno)
      if missed then s.modCopy v c.cseq (fun c => { c with missSent := true }) else s
  | none => s

/-- A send or rsend segment reaches its destination. -/
def State.landSend (s : State) (v : VRef) (c : Copy) (k : Nat) (g : Seg) : State :=
  match s.copyDest v c with
  | none => (s.deadCopy v c 0x06).finishCopy v c.cseq 0
  | some u =>
    if c.op == .send && (s.vt u).overlapsPorts g.addr g.len then
      let s := if c.dlSent then s else s.deadCopy v c 0x08
      (s.modCopy v c.cseq (fun c => { (c.setSeg k .done) with dlSent := true })).copyCheck v c.cseq
    else
      let before := s
      let s := match c.tag with
        | some tag => s.checkCopy v c (s.tagNeed tag u) 2 (destWord u.rank 0 (s.vt u).inc) c.cseq
        | none => s
      let s := s.spCorrect v g.loc g.len
      let s := s.landBytes u g.addr (s.spBytes v g.loc g.len) (fun i => s.spPoisoned v (g.loc + i) 1)
      let s := s.countLanding u c g.len
      let s := s.modCopy v c.cseq (fun c => c.setSeg k .done)
      let whole := match (s.vt v).copy? c.cseq with
        | some c => c.complete
        | none => true
      let s := if c.op == .rsend && whole then
          s.modVt u (fun t => { t with rings := vmod t.rings (bits c.desc 2 0) (fun g =>
            ({ g with xfers := g.xfers.map (fun x =>
                if x.src == v.rank && x.cseq == c.cseq && !x.isMsg then { x with done := true } else x) } : Ring).advance) })
        else s
      ((s.copyCheck v c.cseq).landedAt before u).landedAt before v

/-- Has a later row of a scatter been performed over a byte at a home? The larger t leaves its bytes (R217). -/
def Copy.overwritten (c : Copy) (row pa : Nat) : Bool :=
  c.op == .scatter && c.segs.any (fun o => row < o.row && (match o.landed with
    | some p => decide (p ≤ pa) && decide (pa < p + o.len)
    | none => false))

/-- Perform a store's or scatter's segment at its home: bytes that a later row has written stay as they are. -/
def State.landHome (s : State) (v : VRef) (c : Copy) (g : Seg) (pa : Nat) : State :=
  let kept (i : Nat) : Bool := c.overwritten g.row (pa + i)
  let bs := ((List.range g.len).zip ((s.spBytes v g.loc g.len).zip (s.homeBytes pa g.len))).map (fun p =>
    if kept p.1 then p.2.2 else p.2.1)
  s.homeWrite pa bs (fun i => if kept i then s.homeBad pa i else s.spPoisoned v (g.loc + i) 1)

/-- A segment between memory and the own scratchpad is performed. -/
def State.landMemory (s : State) (v : VRef) (c : Copy) (k : Nat) (g : Seg) (pa : Nat) : State :=
  let before := s
  let s := if cpeWritesLocal c.op then
      let s := match c.tag with
        | some tag => s.checkCopy v c (s.tagNeed tag v) 2 (destWord v.rank 0 (s.vt v).inc) c.cseq
        | none => s
      s.landBytes v g.loc (s.homeBytes pa g.len) (fun i => s.homeBad pa i)
    else
      let need := match s.home pa with | .rim _ => 3 | _ => 4
      let s := s.checkCopy v c need 3 (word g.addr) 0
      let s := s.spCorrect v g.loc g.len
      (s.landHome v c g pa).modCopy v c.cseq (fun c => { c with
        segs := listModify c.segs (k - c.idxSegs.length) (fun g => { g with landed := some pa }) })
  let s := s.modCopy v c.cseq (fun c => c.setSeg k .done)
  let rowDone : Bool := match (s.vt v).copy? c.cseq with
    | some c => (c.segs.filter (fun o => o.row == g.row)).all (fun o => o.st == .done) && !c.spoiled.contains g.row
    | none => false
  let s := if cpeRows c.op then (if rowDone then s.countLanding v c (dLen c.desc) else s) else s.countLanding v c g.len
  (s.copyCheck v c.cseq).landedAt before v

/-- R214 COPY_LANDING. -/
def execCopyLanding (v : VRef) (o : SegOwner) (k : Nat) (s : State) : Host.Outcome State Fault Refusal :=
  match s.toLand v o k with
  | none => .refused (.notEnabled "COPY_LANDING")
  | some (g, pa) =>
    match o with
    | .copy q => match (s.vt v).copy? q.toNat with
      | some c => .next (if cpeRemote c.op then s.landSend v c k g else s.landMemory v c k g pa)
      | none => .refused (.notEnabled "COPY_LANDING")
    | .bload q => match (s.vt v).bload? q.toNat with
      | some e =>
        let c := e.c
        let s := s.bloadLand v (recordFmt (mxAFmt c)) (mxJ0 c) (mxBOff c) g.row (mxKB c) (mxN c) g.loc
          (fun off => s.homeBad pa (off - g.loc)) (s.homeBytes pa g.len)
        .next (s.modRun v (fun r => { r with segs := listModify r.segs k (fun g => { g with st := .done }) }))
      | none => .refused (.notEnabled "COPY_LANDING")

/-! ## SEGRST (R352) -/

/-- Restart a segment that waits on a fault, or drop it. -/
def Seg.restart (g : Seg) (abandon : Bool) : Seg :=
  match g.st with
  | .fault _ => { g with st := if abandon then .done else .untranslated }
  | _ => g

/-- Does it wait on a fault? -/
def Seg.waits (g : Seg) : Bool := match g.st with
  | .fault _ => true
  | _ => false

/-- A SEGRST of a copy. -/
def State.segrstCopy (s : State) (v : VRef) (cseq : Nat) (abandon : Bool) : State :=
  let s := s.modCopy v cseq (fun c =>
    let hit := c.segs.any Seg.waits || c.idxSegs.any Seg.waits
    { c with
      idxSegs := c.idxSegs.map (fun g => g.restart abandon)
      segs := c.segs.map (fun g => g.restart abandon)
      spoiled := if abandon then c.spoiled ++ (c.segs.filter Seg.waits).map Seg.row else c.spoiled
      status := if abandon && hit then 1 else c.status })
  s.copyCheck v cseq

/-- A SEGRST of a rim BLOAD (R181). -/
def State.segrstBload (s : State) (v : VRef) (seq : Nat) (abandon : Bool) : State :=
  match (s.vt v).bload? seq with
  | none => s
  | some _ => s.modRun v (fun r => { r with
      status := if abandon && r.segs.any Seg.waits && r.status = 0 then 4 else r.status
      segs := r.segs.map (fun g => g.restart abandon) })

/-- A SEGRST of either. -/
def State.segrst (s : State) (v : VRef) (o : SegOwner) (abandon : Bool) : State :=
  match o with
  | .copy q => s.segrstCopy v q.toNat abandon
  | .bload q => s.segrstBload v q.toNat abandon

/-- R352 SEGRST: a restart. -/
def execSegrstRestart (v : VRef) (o : SegOwner) (s : State) : Host.Outcome State Fault Refusal := .next (s.segrst v o false)

/-- R352 SEGRST with ABANDON. -/
def execSegrstAbandon (v : VRef) (o : SegOwner) (s : State) : Host.Outcome State Fault Refusal := .next (s.segrst v o true)

end Sys2Proof.Machine
end

