-- ==== Sys2Proof/Machine/Matching.lean ====
section
/-!
DEFINITION. The network interface of a vtile (chapter 08): ports and their capacity (R246), ordered windows (R245),
evaluation and consumption (R241, R242), firing starts (R243, R244), the pen (R247), dead letters (R248), and the PAT
triggers (R208, R209).
-/
namespace Sys2Proof.Machine

/-! ## Ports -/

/-- Messages held (R239). -/
def Port.occ (p : Port) : Nat := p.visible.length + p.windowed.length + p.claimed

/-- Descriptor bits [18:0] (R33). -/
def Port.low (p : Port) : Nat :=
  p.cap + b2n p.ovf * 2 ^ 8 + b2n p.ord * 2 ^ 9 + b2n p.en * 2 ^ 10 + p.win * 2 ^ 11

/-- The whole descriptor (R33). -/
def Port.desc (p : Port) : Word := word (p.low + p.occ * 2 ^ 32 + min p.parked 0xFFFF * 2 ^ 48)

/-- Write CAP, OVF, ORD, EN and WIN. -/
def Port.setLow (p : Port) (d : Nat) : Port :=
  { p with cap := bits d 7 0, ovf := bit d 8, ord := bit d 9, en := bit d 10, win := bits d 18 11 }

/-- RCAP of R207. -/
def Vtile.rcap (t : Vtile) : Nat := min 256 (t.psSize / 32 / 144)

def Vtile.port (t : Vtile) (i : Nat) : Port := vget t.ports i Port.blank
def Vtile.modPort (t : Vtile) (i : Nat) (f : Port → Port) : Vtile := { t with ports := vmod t.ports i f }

/-- Does a port refuse a new descriptor (R209)? -/
def Vtile.portBad (t : Vtile) (i d : Nat) : Bool :=
  let p := t.port i
  let n : Port := p.setLow d
  (n.en && t.rcap < n.cap + 1) || n.cap + 1 < p.occ
    || (n.ord && n.win = 0) || n.cap + 1 < n.win
    || ((n.ord != p.ord || n.win != p.win) && p.occ != 0)

/-- Order of an ordered window (R245). -/
def windowLe (a b : Msg) : Bool := a.srank < b.srank || (a.srank == b.srank && a.sseq ≤ b.sseq)

/-- A message enters: visible, or windowed until the window closes (R245). -/
def Port.enter (p : Port) (m : Msg) : Port :=
  if !p.ord then { p with visible := p.visible ++ [m] }
  else
    let w := p.windowed ++ [m]
    if p.win ≤ w.length then { p with visible := p.visible ++ sortBy windowLe w, windowed := [] }
    else { p with windowed := w }

/-! ## Patterns (R34, R35) -/

/-- The used pairs of an entry, in the order A to D. -/
def patPairs (e : BitVec 128) : List (Nat × Nat) :=
  ((List.range 4).map (fun k => (bits e.toNat (9 * k + 4) (9 * k), bits e.toNat (9 * k + 8) (9 * k + 5)))).filter
    (fun p => p.2 != 0)

def patPrio (e : BitVec 128) : Nat := bits e.toNat 38 36
def patRot (e : BitVec 128) : Bool := bit e.toNat 39
def patEn (e : BitVec 128) : Bool := bit e.toNat 40
def patHnd (e : BitVec 128) : Nat := bits e.toNat 45 41

/-- Is an entry ill-formed, or has it a nonzero reserved bit? -/
def patBad (e : BitVec 128) : Bool :=
  let ports := (patPairs e).map Prod.fst
  bits e.toNat 127 46 != 0 || ports.eraseDups.length != ports.length

/-! ## Evaluation (R241, R242) -/

/-- Is a pattern enabled and satisfied, and does it name a port of S? -/
def Vtile.satisfied (t : Vtile) (S : BitVec 32) (i : Nat) : Bool :=
  let e := vget t.pats i 0
  let ps := patPairs e
  patEn e && ps.any (fun p => S.getLsbD p.1) && ps.all (fun p => p.2 ≤ (t.port p.1).visible.length)

/-- The pattern that evaluation picks among candidates, and its rotation pointer's new value. -/
def Vtile.pick (t : Vtile) (cands : List Nat) : Option (Nat × Option (Nat × Nat)) :=
  match (cands.map (fun i => patPrio (vget t.pats i 0))).min? with
  | none => none
  | some pr =>
    let g := cands.filter (fun i => patPrio (vget t.pats i 0) == pr)
    match g.find? (fun i => !patRot (vget t.pats i 0)) with
    | some m => some (m, none)
    | none =>
      let from_ := vget t.rptr pr 0
      match (g.find? (fun i => from_ ≤ i)) <|> g.head? with
      | some m => some (m, some (pr, (m + 1) % 32))
      | none => none

/-- The records that wait in the firing queue. Those with QD = 0 have their slots and start before anything else happens
(R242, R243). -/
def Vtile.queued (t : Vtile) : Nat := (t.fq.filter (fun m => m.qd)).length

/-- FREE slots. -/
def Vtile.freeSlots (t : Vtile) : List (Fin 8) :=
  ((List.range 8).map (Fin.ofNat 8)).filter (fun i => (t.slots.get i).status == .free)

/-- Consume (R242): the match record of pattern m. -/
def Vtile.consume (t : Vtile) (m : Nat) : Vtile :=
  let e := vget t.pats m 0
  let pairs := patPairs e
  let taken := pairs.flatMap (fun p => ((t.port p.1).visible.take p.2).map (fun x => (p.1, x)))
  let direct := decide (t.queued = 0) && !t.isHeld && decide (t.fq.length < t.freeSlots.length)
  let rec_ : MatchRec :=
    { handler := vget t.hnds (patHnd e) 0, pat := m, hnd := patHnd e, prio := patPrio e, qd := !direct,
      ord := pairs.any (fun p => (t.port p.1).ord), fseq := t.fseq, msgs := taken }
  let t := pairs.foldl (fun t p => t.modPort p.1 (fun q =>
    { q with visible := q.visible.drop p.2, claimed := q.claimed + p.2 })) t
  { t with fq := t.fq ++ [rec_], fseq := (t.fseq + 1) % 2 ^ 32 }

/-- The loop of Evaluate: every turn consumes a message, and at most 64 records queue beside the 8 that start. -/
def Vtile.evalLoop (t : Vtile) (S : BitVec 32) : (fuel : Nat) → Vtile
  | 0 => t
  | k + 1 =>
    match t.pick ((List.range 32).filter (fun i => t.satisfied S i)) with
    | none => t
    | some (m, rot) =>
      let t := match rot with
        | some (pr, n) => { t with rptr := vset t.rptr pr n }
        | none => t
      let t := t.consume m
      if 64 ≤ t.queued then { t with defer := t.defer ||| S } else t.evalLoop S k

/-- Evaluate(S) (R241). -/
def Vtile.evaluate (t : Vtile) (S : BitVec 32) : Vtile :=
  if 64 ≤ t.queued || t.halted then { t with defer := t.defer ||| S }
  else ({ t with defer := t.defer &&& ~~~S }).evalLoop S 73

def portBit (i : Nat) : BitVec 32 := 1#32 <<< i

/-- The places of a port's region that hold no message: neither one in the port nor one that a match has claimed. -/
def Vtile.freePlaces (t : Vtile) (i : Nat) : List Nat :=
  let p := t.port i
  let used := (p.visible ++ p.windowed).map Msg.place
    ++ t.fq.flatMap (fun r => (r.msgs.filter (fun x => x.1 == i)).map (fun x => x.2.place))
  (List.range t.rcap).filter (fun k => !used.contains k)

/-- The place of an entry in its port's region: which of the free ones is not architectural (R207), so it is open. -/
def State.newPlace (s : State) (v : VRef) (i : Nat) (m : Msg) : Nat :=
  let l := (s.vt v).freePlaces i
  l.getD ((openAt s.tick 1 m.id).toNat % l.length) 0

/-- The entry's bytes in the port store, at its place. -/
def State.portBytes (s : State) (v : VRef) (i : Nat) (m : Msg) : State :=
  let t := s.vt v
  if t.rcap = 0 then s
  else
    let a := t.psBase + t.psSize / 32 * i + 144 * m.place
    let s := s.spWriteBytes v a m.entryBytes
    (List.range 16).foldl (fun s k => if bit m.poison k then s.spPoison v (a + 16 + 8 * k) 8 else s) s

/-- Event 1 of R240: a message enters a port, and evaluation follows where its visible contents grew. -/
def State.enterPort (s : State) (v : VRef) (i : Nat) (m : Msg) : State :=
  let m := { m with place := s.newPlace v i m }
  (s.portBytes v i m).modVt v (fun t =>
    let t' := t.modPort i (fun p => p.enter m)
    if (t.port i).visible.length < (t'.port i).visible.length then t'.evaluate (portBit i) else t')

/-! ## Dead letters and the pen (R246 to R248) -/

/-- Is it a remote cfgwr (R353)? -/
def Msg.isCfg (m : Msg) : Bool := m.kind == 5 && m.reason == 0x15

/-- Is the message KIND 5 and bound for a context port (R248)? A remote cfgwr is bound for no port. -/
def State.isCtxPort (s : State) (ctx : Nat) (m : Msg) : Bool :=
  let d := (s.ctx ctx).desc
  m.kind == 5 && !m.isCfg && (m.toCtxPort || [d.supdest, d.dldest, d.smdest].any (fun x =>
    destRank x == m.drank && destPort x == m.dport))

/-- A message that cannot be delivered goes to the dead-letter port, or to the fault log. -/
def State.undeliverable (s : State) (ctx : Nat) (m : Msg) (reason : Nat) : State :=
  if s.isCtxPort ctx m then s.faultLog ctx m else s.deadLetter ctx m reason

/-- The fault action, and a full pen (R246). -/
def State.overflow (s : State) (v : VRef) (m : Msg) : State :=
  let s' := s.undeliverable v.ctx m 0x04
  if s.isCtxPort v.ctx m then s'
  else
    let inc := (s.vt v).inc
    s'.postSup v.ctx v.rank inc 0 0x10 [destWord v.rank m.dport inc, word (m.srank + m.sseq * 2 ^ 32)]

/-- Entries of a pen. -/
def penMax : Nat := 21845

/-- The bytes of the pen's entries from number k on, in pen order (R323). -/
def State.penBytes (s : State) (v : VRef) (k : Nat) : State :=
  let ms := (s.vt v).pen.drop k
  ((List.range ms.length).zip ms).foldl (fun s p =>
    s.rimWriteBytes (s.image v + 0x500000 + 144 * (k + p.1)) p.2.entryBytes) s

/-- Append to the pen (R246, R332). -/
def State.penAppend (s : State) (v : VRef) (m : Msg) : State :=
  let k := (s.vt v).pen.length
  (s.modVt v (fun t =>
    { t.modPort m.dport (fun p => { p with parked := p.parked + 1 }) with pen := t.pen ++ [m] })).penBytes v k

/-- One parked message at a point of R247. -/
def State.reinjectOne (s : State) (v : VRef) (m : Msg) : State :=
  let p := (s.vt v).port m.dport
  let leave (s : State) : State := s.modVt v (fun t =>
    { t.modPort m.dport (fun p => { p with parked := p.parked - 1 }) with pen := removeFirst (fun x => x.id == m.id) t.pen })
  if !p.en then (leave s).undeliverable v.ctx m 0x03
  else if p.occ < p.cap + 1 then (leave s).enterPort v m.dport m
  else s

/-- The oldest parked messages of some ports re-enter, in pen order (R247). -/
def State.reinject (s : State) (v : VRef) (ports : Nat → Bool) : State :=
  ((s.vt v).pen.foldl (fun s m => if !m.isCfg && ports m.dport then s.reinjectOne v m else s) s).penBytes v 0

/-- Evaluation for S = DEFER (R241). -/
def State.evalDefer (s : State) (v : VRef) : State := s.modVt v (fun t => t.evaluate t.defer)

/-! ## FIRING_START (R243, R244) -/

/-- May the head record start: a slot is FREE, the vtile is in its tile and not held, and the port store's units are
there? -/
def State.startable (s : State) (v : VRef) : Option (Fin 8 × MatchRec) :=
  let t := s.vt v
  match t.fq, t.freeSlots with
  | m :: _, i :: _ =>
    if t.loc == .resident && !t.isHeld && !s.landWaits v t.psBase t.psSize then some (i, m) else none
  | _, _ => none

/-- `%firing` (R20). -/
def MatchRec.firing (m : MatchRec) : Word :=
  word (m.pat + m.hnd * 2 ^ 5 + m.prio * 2 ^ 10 + b2n m.qd * 2 ^ 13 + b2n m.ord * 2 ^ 14 + m.fseq * 2 ^ 32)

/-- A payload word as the registers receive it; one carried with a poison mark has no stated value. -/
def Msg.payWord (m : Msg) (tick i : Nat) : Word :=
  if bit m.poison i then openAt tick 2 (16 * m.id + i) else m.payload.getD i 0

/-- The payload as a v register. -/
def Msg.payV (m : Msg) (tick : Nat) : VWord :=
  BitVec.ofNat 1024 ((List.range 16).foldl (fun acc i => acc + (m.payWord tick i).toNat * 2 ^ (64 * i)) 0)

/-- Sender as a DEST word, PORT 0 (R244). -/
def Msg.sender (m : Msg) : Word := destWord m.srank 0 m.sinc

/-- The slot of a new firing (R15, R244). -/
def Slot.start (sl : Slot) (m : MatchRec) (tick : Nat) : Slot :=
  let msgs := m.msgs.map Prod.snd
  let x := (List.range 15).foldl (fun (x : Vector Word 32) k => match msgs[k]? with
    | some g => vset (vset x (2 * k + 1) (g.payWord tick 0)) (2 * k + 2) g.sender
    | none => x) (Vector.replicate 32 0)
  let v := (List.range 16).foldl (fun (v : Vector VWord 16) k => match msgs[k]? with
    | some g => vset v k (g.payV tick)
    | none => v) (Vector.replicate 16 0)
  let ix := 5 * bits m.handler.toNat 53 6 + bits m.handler.toNat 2 0
  { Slot.blank with
    status := .ready, sup := bit m.handler.toNat 55, ix := ix, entry := .firing, alone := true,
    x := vset x 31 (word msgs.length), v := v, sb := sl.sb, nextId := sl.nextId, fser := sl.fser + 1, stopId := sl.stopId,
    firing := m.firing,
    pendTrap := if bit m.handler.toNat 54 then none
      else some { code := 0x07, tval := word m.hnd, tinst := word ix, move := 7, pair2 := false } }

/-- R243, R244 FIRING_START: the head record starts in the lowest-numbered FREE slot. -/
def execFiringStart (v : VRef) (s : State) : Host.Outcome State Fault Refusal :=
  match s.startable v with
  | none => .refused (.notEnabled "FIRING_START")
  | some (i, m) =>
    let s := s.modVt v (fun t =>
      let t := { t with fq := t.fq.drop 1, slots := vmod t.slots i.val (fun sl => sl.start m s.tick) }
      m.msgs.foldl (fun t p => t.modPort p.1 (fun q => { q with claimed := q.claimed - 1 })) t)
    let s := if (s.vt v).halted then s else s.reinject v (fun p => m.msgs.any (fun q => q.1 == p))
    .next (s.evalDefer v)

/-! ## PAT triggers (R208) -/

def patA (s : State) (r : SRef) : Nat := (s.slot r).lat.pat.a.toNat
def patB (s : State) (r : SRef) : Nat := (s.slot r).lat.pat.b.toNat % 32

/-- A PAT trigger: its check, its old value, and its effect on the vtile. -/
def patMeaning (op : PatOp) (m : BitVec 3) (check : State → SRef → Option (Nat × Word)) (old : State → SRef → Word)
    (effect : State → SRef → State) : TrigMeaning :=
  { trig := .pat op
    stall := noStall
    check := check
    fire := fun s r =>
      let q := old s r
      (effect s r).modSlot r (fun sl => sl.fire (.pat op) m (landQ q)) }

def keep (s : State) (_ : SRef) : State := s

/-- R208 pcfg. -/
def patPcfgMeaning (m : BitVec 3) : TrigMeaning :=
  patMeaning .pcfg m
    (fun s r => let a := patA s r
      if a / 2 ^ 19 != 0 || (s.vt r.vt).portBad (patB s r) a then some (0x18, word a) else none)
    (fun s r => ((s.vt r.vt).port (patB s r)).desc)
    (fun s r =>
      let p := (s.vt r.vt).port (patB s r)
      let i := patB s r
      let s := s.modVt r.vt (fun t => t.modPort i (fun p => p.setLow (patA s r)))
      let q := (s.vt r.vt).port i
      if p.cap < q.cap || !q.en then s.reinject r.vt (fun k => k == i) else s)
def execPatPcfg (m : BitVec 3) (s : State) : Host.Outcome State Fault Refusal := runTrigger (patPcfgMeaning m) m s

/-- R208 prd. -/
def patPrdMeaning (m : BitVec 3) : TrigMeaning :=
  patMeaning .prd m noCheck (fun s r => ((s.vt r.vt).port (patA s r % 32)).desc) keep
def execPatPrd (m : BitVec 3) (s : State) : Host.Outcome State Fault Refusal := runTrigger (patPrdMeaning m) m s

/-- R208 pset. -/
def patPsetMeaning (m : BitVec 3) : TrigMeaning :=
  patMeaning .pset m
    (fun s r => if patBad (BitVec.ofNat 128 (patA s r)) then some (0x19, word (patA s r)) else none)
    (fun s r => (vget (s.vt r.vt).pats (patB s r) 0).setWidth 64)
    (fun s r => s.modVt r.vt (fun t => { t with pats := vset t.pats (patB s r) (BitVec.ofNat 128 (patA s r)) }))
def execPatPset (m : BitVec 3) (s : State) : Host.Outcome State Fault Refusal := runTrigger (patPsetMeaning m) m s

/-- R208 pget. -/
def patPgetMeaning (m : BitVec 3) : TrigMeaning :=
  patMeaning .pget m noCheck (fun s r => (vget (s.vt r.vt).pats (patA s r % 32) 0).setWidth 64) keep
def execPatPget (m : BitVec 3) (s : State) : Host.Outcome State Fault Refusal := runTrigger (patPgetMeaning m) m s

/-- Does a handler entry break R36? -/
def handlerBad (a : Nat) : Bool := 5 ≤ bits a 2 0 || bits a 5 3 != 0 || bits a 63 56 != 0

/-- R208 hset. -/
def patHsetMeaning (m : BitVec 3) : TrigMeaning :=
  patMeaning .hset m
    (fun s r => let a := patA s r
      if handlerBad a then some (0x18, word a)
      else if bit a 55 && !(s.slot r).sup then some (0x03, 0)
      else none)
    (fun s r => vget (s.vt r.vt).hnds (patB s r) 0)
    (fun s r => s.modVt r.vt (fun t => { t with hnds := vset t.hnds (patB s r) (word (patA s r)) }))
def execPatHset (m : BitVec 3) (s : State) : Host.Outcome State Fault Refusal := runTrigger (patHsetMeaning m) m s

/-- R208 hget. -/
def patHgetMeaning (m : BitVec 3) : TrigMeaning :=
  patMeaning .hget m noCheck (fun s r => vget (s.vt r.vt).hnds (patA s r % 32) 0) keep
def execPatHget (m : BitVec 3) (s : State) : Host.Outcome State Fault Refusal := runTrigger (patHgetMeaning m) m s

/-- The EN bits of patterns and ports (R208). -/
def Vtile.enMasks (t : Vtile) : Word :=
  word ((List.range 32).foldl (fun acc i =>
    acc + b2n (patEn (vget t.pats i 0)) * 2 ^ i + b2n (t.port i).en * 2 ^ (32 + i)) 0)

/-- Would EN := b break R209 on a marked port? -/
def Vtile.enBad (t : Vtile) (mask : Nat) (b : Bool) : Bool :=
  (List.range 32).any (fun i => bit mask (32 + i) && t.portBad i (setBits (t.port i).low 10 10 (b2n b)))

/-- EN := b on every marked pattern and port. -/
def Vtile.setEn (t : Vtile) (mask : Nat) (b : Bool) : Vtile :=
  (List.range 32).foldl (fun t i =>
    let t := if bit mask i then
        { t with pats := vmod t.pats i (fun e => BitVec.ofNat 128 (setBits e.toNat 40 40 (b2n b))) } else t
    if bit mask (32 + i) then t.modPort i (fun p => { p with en := b }) else t) t

/-- R208 pen. -/
def patPenMeaning (m : BitVec 3) : TrigMeaning :=
  patMeaning .pen m
    (fun s r => if (s.vt r.vt).enBad (patA s r) true then some (0x18, word (patA s r)) else none)
    (fun s r => (s.vt r.vt).enMasks)
    (fun s r => s.modVt r.vt (fun t => t.setEn (patA s r) true))
def execPatPen (m : BitVec 3) (s : State) : Host.Outcome State Fault Refusal := runTrigger (patPenMeaning m) m s

/-- R208 pdis. -/
def patPdisMeaning (m : BitVec 3) : TrigMeaning :=
  patMeaning .pdis m
    (fun s r => if (s.vt r.vt).enBad (patA s r) false then some (0x18, word (patA s r)) else none)
    (fun s r => (s.vt r.vt).enMasks)
    (fun s r =>
      let mask := patA s r
      (s.modVt r.vt (fun t => t.setEn mask false)).reinject r.vt (fun k => bit mask (32 + k)))
def execPatPdis (m : BitVec 3) (s : State) : Host.Outcome State Fault Refusal := runTrigger (patPdisMeaning m) m s

end Sys2Proof.Machine
end

