-- ==== Sys2Proof/Machine/Sys.lean ====
section
/-!
DEFINITION. The SYS unit and the configuration items (R350 to R353): CSEL, item reads and writes, the two hold actions,
TFBASE, halt-group resumes, and the CFG_WRITE messages of a write to another rank.
-/
namespace Sys2Proof.Machine

/-! ## CSEL (R351) -/

def cselRank (c : Word) : Nat := bits c.toNat 23 0
def cselInc (c : Word) : Nat := bits c.toNat 47 24
def cselItem (c : Word) : Nat := bits c.toNat 63 48

/-! ## Holds (R353) -/

/-- R353 RELEASE: the hold ends, and evaluation runs for DEFER. -/
def State.holdRelease (s : State) (v : VRef) : State :=
  if (s.vt v).isHeld then (s.modVt v (fun t => { t with hold := ⟨false, false⟩ })).evalDefer v else s

/-- R353 ABORT: every firing ends, the firing queue empties with its claimed messages, and the hold ends. -/
def State.holdAbort (s : State) (v : VRef) : State :=
  let was := (s.vt v).isHeld
  let s := (List.range 8).foldl (fun s i =>
    let r : SRef := ⟨v, Fin.ofNat 8 i⟩
    if (s.slot r).status == .free then s else s.endFiring r) s
  let s := s.modVt v (fun t => { t with
    fq := []
    ports := t.ports.map (fun p => { p with claimed := 0 })
    hold := ⟨false, false⟩ })
  if was then s.evalDefer v else s

/-- HOLD as it reads (R352). -/
def Vtile.holdWord (t : Vtile) : Word := word (b2n t.isHeld + b2n t.hold.fmt * 2 + b2n t.hold.trap * 4)

/-! ## TFBASE (R352) -/

/-- Does the 32 KiB at a value lie wholly in scratchpad, at a multiple of its size? -/
def tfbaseInRange (val : Nat) : Bool := val % 0x8000 = 0 && val + 0x8000 ≤ spSize

/-- A write of TFBASE where the value is one that the item takes. -/
def State.tfbaseSet (s : State) (v : VRef) (val : Word) : State :=
  s.modVt v (fun t => { t with tfbase := val.toNat })

/-! ## Halt groups (R353, R402) -/

/-- Is a halt group owned by the context alone? Groups are the croft's at reset. -/
def State.ownsGroup (s : State) (ctx g : Nat) : Bool := Tbl.find? s.crook.owners g == some (ctx, false)

/-- The resume of a group, for its owner's vtile; any other is discarded. -/
def State.hgres (s : State) (ctx g : Nat) : State :=
  if s.ownsGroup ctx g then
    { s with crook := { s.crook with stopped := word (setBits s.crook.stopped.toNat g g 0) } }
  else s

/-! ## Items (R352) -/

/-- Is the item one that exists? -/
def itemAssigned (item : Nat) : Bool := item ≤ 4

/-- Does the layout of an item refuse a value (R351)? -/
def itemRefuses (item val : Nat) : Bool :=
  match item with
  | 0 => bits val 63 3 != 0
  | 1 => bits val 63 2 != 0
  | 2 => !tfbaseInRange val
  | 3 => bits val 63 34 != 0
  | _ => bits val 63 6 != 0

/-- Does the state of the target refuse a value (R351)? -/
def Vtile.itemRefuses (t : Vtile) (item val : Nat) : Bool := item == 2 && t.overlapsPorts val 0x8000

/-- An item as it reads. -/
def Vtile.itemRead (t : Vtile) (item : Nat) : Word :=
  match item with
  | 0 => t.mx.mxctl
  | 1 => t.holdWord
  | 2 => word t.tfbase
  | _ => 0

/-- The segment owner that a SEGRST names. -/
def segrstOwner (val : Word) : SegOwner :=
  if bit val.toNat 33 then .bload (BitVec.ofNat 32 val.toNat) else .copy (BitVec.ofNat 32 val.toNat)

/-- Write an item of a vtile with a value that is not refused. -/
def State.itemWrite (s : State) (v : VRef) (item : Nat) (val : Word) : State :=
  match item with
  | 0 => s.mxctlWrite v val
  | 1 => if bit val.toNat 1 then s.holdAbort v else if bit val.toNat 0 then s.holdRelease v else s
  | 2 => s.tfbaseSet v val
  | 3 => s.segrst v (segrstOwner val) (bit val.toNat 32)
  | _ => s.hgres v.ctx (bits val.toNat 5 0)

/-- R353: a remote write reaches its target; a refused one is reported. -/
def State.cfgApply (s : State) (v : VRef) (m : Msg) : State :=
  let csel := m.payload.getD 0 0
  let val := m.payload.getD 1 0
  let item := cselItem csel
  if (s.vt v).itemRefuses item val.toNat then
    s.postSup v.ctx v.rank (s.vt v).inc 0 0x2B [csel, val, m.sender]
  else s.itemWrite v item val

/-! ## Messages of a vtile's own (R202, R204) -/

/-- A message with the vtile's next SSEQ joins its outbound queue; it leaves after the slot's earlier stores (R94). -/
def State.enqueue (s : State) (r : SRef) (dest : Word) (kind reason : Nat) (payload : List Word) (poison : Nat)
    (ring aw : Option Nat) (toPort : Bool) : State :=
  let v := r.vt
  let t := s.vt v
  let sl := s.slot r
  let id := (s.ctx v.ctx).nextId
  let m : Msg :=
    { id := id, drank := destRank dest, dport := destPort dest, dinc := destInc dest, srank := v.rank, sinc := t.inc,
      sseq := t.mseq, kind := kind, reason := reason, payload := payload, poison := poison, tags := sl.relTag.toList,
      ring := ring, aw := aw, toCtxPort := toPort, after := some (r.slot.val, sl.nextId) }
  (s.modVt v (fun t => { t with mseq := (t.mseq + 1) % 2 ^ 32, outq := t.outq ++ [m] })).inCtx v.ctx
    (fun c => { c with nextId := c.nextId + 1 })

/-- Is the outbound queue full (R204)? -/
def outqFull (s : State) (r : SRef) : Bool := 32 ≤ (s.vt r.vt).outq.length

/-! ## The SYS triggers (R350) -/

def sysA (s : State) (r : SRef) : Word := (s.slot r).lat.sys.a

/-- R350 fsr. -/
def sysFsrMeaning (m : BitVec 3) : TrigMeaning :=
  { trig := .sys .fsr
    stall := noStall
    check := noCheck
    fire := fun s r => s.modSlot r (fun sl => { sl.fire (.sys .fsr) m (landQ sl.csel) with csel := sl.lat.sys.a }) }
def execSysFsr (m : BitVec 3) (s : State) : Host.Outcome State Fault Refusal := runTrigger (sysFsrMeaning m) m s

/-- R350 cfgrd. -/
def sysCfgrdMeaning (m : BitVec 3) : TrigMeaning :=
  { trig := .sys .cfgrd
    stall := noStall
    check := fun s r =>
      let c := (s.slot r).csel
      if !itemAssigned (cselItem c) || cselRank c != r.vt.rank then some (0x1C, c) else none
    fire := fun s r => s.modSlot r (fun sl =>
      sl.fire (.sys .cfgrd) m (landQ ((s.vt r.vt).itemRead (cselItem sl.csel)))) }
def execSysCfgrd (m : BitVec 3) (s : State) : Host.Outcome State Fault Refusal := runTrigger (sysCfgrdMeaning m) m s

/-- Does a cfgwr name another vtile? HGRES never travels (R353). -/
def cfgwrTravels (r : SRef) (csel : Word) : Bool := cselRank csel != r.vt.rank && cselItem csel != 4

/-- R350, R351, R353 cfgwr. -/
def sysCfgwrMeaning (m : BitVec 3) : TrigMeaning :=
  { trig := .sys .cfgwr
    stall := fun s r => cfgwrTravels r (s.slot r).csel && outqFull s r
    check := fun s r =>
      let c := (s.slot r).csel
      let own := cselRank c == r.vt.rank
      let val := (sysA s r).toNat
      if !itemAssigned (cselItem c) || (s.ctx r.vt.ctx).ranks ≤ cselRank c || itemRefuses (cselItem c) val
          || (own && (s.vt r.vt).itemRefuses (cselItem c) val) then some (0x1C, c)
      else none
    fire := fun s r =>
      let c := (s.slot r).csel
      let val := sysA s r
      if cfgwrTravels r c then
        (s.enqueue r (destWord (cselRank c) 0 (cselInc c)) 5 0x15 [c, val] 0 none none false).modSlot r
          (fun sl => sl.fire (.sys .cfgwr) m (landQ 0))
      else
        let q : Word := if cselRank c = r.vt.rank then (s.vt r.vt).itemRead (cselItem c) else 0
        (s.modSlot r (fun sl => sl.fire (.sys .cfgwr) m (landQ q))).itemWrite r.vt (cselItem c) val }
def execSysCfgwr (m : BitVec 3) (s : State) : Host.Outcome State Fault Refusal := runTrigger (sysCfgwrMeaning m) m s

/-! ## The writes of items by themselves -/

/-- R353 RELEASE. -/
def execHoldRelease (v : VRef) (s : State) : Host.Outcome State Fault Refusal := .next (s.holdRelease v)

/-- R353 ABORT. -/
def execHoldAbort (v : VRef) (s : State) : Host.Outcome State Fault Refusal := .next (s.holdAbort v)

/-- R352: a write of TFBASE; a value that the item refuses is not written. -/
def execTfbaseWrite (v : VRef) (val : Word) (s : State) : Host.Outcome State Fault Refusal :=
  .next (if tfbaseInRange val.toNat && !(s.vt v).overlapsPorts val.toNat 0x8000 then s.tfbaseSet v val else s)

/-- R352, R353 HGRES. -/
def execHgres (v : VRef) (group : Fin 64) (s : State) : Host.Outcome State Fault Refusal := .next (s.hgres v.ctx group.val)

end Sys2Proof.Machine
end

