-- ==== Sys2Proof/Machine/Msg.lean ====
section
/-!
DEFINITION. Messages: the MSG triggers (R203, R204), their delivery to ports, rings, pens and items (R206, R219, R332,
R353), and the scope-miss messages of the routers (R278, R279).
-/
namespace Sys2Proof.Machine

/-! ## The MSG triggers (R204) -/

def msgA (s : State) (r : SRef) : Word := (s.slot r).lat.msg.a
def msgB (s : State) (r : SRef) : Word := (s.slot r).lat.msg.b
def msgC (s : State) (r : SRef) : Word := (s.slot r).lat.msg.c

/-- Does DEST break R203? -/
def destBad (s : State) (r : SRef) (d : Word) : Bool := destReserved d || (s.ctx r.vt.ctx).ranks ≤ destRank d

/-- NB (R204): 0 means 128. -/
def msgNB (c : Word) : Nat := let n := bits c.toNat 7 0; if n = 0 then 128 else n

/-- The checks of sendv, which sendr begins with. -/
def sendvCheck (cOk : Nat → Bool) (s : State) (r : SRef) : Option (Nat × Word) :=
  let a := (msgA s r).toNat
  let c := msgC s r
  let n := msgNB c
  if destBad s r (msgB s r) || !cOk c.toNat || n % 8 != 0 || 128 < n then some (0x16, msgB s r)
  else if !inBounds a n then some (0x09, word a)
  else if a % 8 != 0 then some (0x0A, word a)
  else none

/-- The payload words of a sendv or sendr, and which of them are poisoned (R283): a byte that one of the slot's stores gives is
not read from the bank (R94). -/
def msgPayload (s : State) (r : SRef) : List Word × Nat :=
  let a := (msgA s r).toNat
  let k := msgNB (msgC s r) / 8
  ((List.range k).map (fun i => word (s.spReadFwd r (s.slot r).nextId (a + 8 * i) 8)),
   (List.range k).foldl (fun acc i => acc + b2n (s.readMeetsUe r (s.slot r).nextId (a + 8 * i) 8) * 2 ^ i) 0)

/-- Reading a payload corrects its words (R283). -/
def State.payloadRead (s : State) (r : SRef) : State := s.spCorrect r.vt (msgA s r).toNat (msgNB (msgC s r))

/-- Take the SSEQ as the result of the trigger. -/
def fireMsg (op : MsgOp) (m : BitVec 3) (send : State → SRef → State) (s : State) (r : SRef) : State :=
  let q := word (s.vt r.vt).mseq
  (send s r).modSlot r (fun sl => sl.fire (.msg op) m (landQ q))

/-- R204 send. -/
def msgSendMeaning (m : BitVec 3) : TrigMeaning :=
  { trig := .msg .send
    stall := outqFull
    check := fun s r => if destBad s r (msgB s r) then some (0x16, msgB s r) else none
    fire := fireMsg .send m (fun s r => s.enqueue r (msgB s r) 0 0 [msgA s r, msgC s r] 0 none none false) }
def execMsgSend (m : BitVec 3) (s : State) : Host.Outcome State Fault Refusal := runTrigger (msgSendMeaning m) m s

/-- R204 sendv. -/
def msgSendvMeaning (m : BitVec 3) : TrigMeaning :=
  { trig := .msg .sendv
    stall := outqFull
    check := sendvCheck (fun c => bits c 63 8 == 0)
    fire := fireMsg .sendv m (fun s r =>
      let (p, bad) := msgPayload s r
      let s := s.payloadRead r
      s.enqueue r (msgB s r) 1 0 p bad none none false) }
def execMsgSendv (m : BitVec 3) (s : State) : Host.Outcome State Fault Refusal := runTrigger (msgSendvMeaning m) m s

/-- R204 sendr. -/
def msgSendrMeaning (m : BitVec 3) : TrigMeaning :=
  { trig := .msg .sendr
    stall := outqFull
    check := fun s r =>
      match sendvCheck (fun c => bits c 15 8 == 0 && bits c 63 39 == 0) s r with
      | some t => some t
      | none =>
        let c := (msgC s r).toNat
        if 7 < destPort (msgB s r) || (bit c 38 && bits c 37 16 % 16 != 0) then some (0x16, msgB s r) else none
    fire := fireMsg .sendr m (fun s r =>
      let (p, bad) := msgPayload s r
      let s := s.payloadRead r
      let c := (msgC s r).toNat
      s.enqueue r (msgB s r) 6 0 p bad (some (destPort (msgB s r))) (if bit c 38 then some (bits c 37 16) else none) false) }
def execMsgSendr (m : BitVec 3) (s : State) : Host.Outcome State Fault Refusal := runTrigger (msgSendrMeaning m) m s

/-- R204 svc: to the context's supervisor port. -/
def msgSvcMeaning (m : BitVec 3) : TrigMeaning :=
  { trig := .msg .svc
    stall := outqFull
    check := fun s r => if bits (msgB s r).toNat 63 16 != 0 then some (0x16, msgB s r) else none
    fire := fireMsg .svc m (fun s r =>
      s.enqueue r (s.ctx r.vt.ctx).desc.supdest 2 0 [(msgB s r), msgA s r, msgC s r] 0 none none false) }
def execMsgSvc (m : BitVec 3) (s : State) : Host.Outcome State Fault Refusal := runTrigger (msgSvcMeaning m) m s

/-! ## Messages on their way -/

/-- Must two messages of one sender keep their order (R206, R353)? -/
def Msg.sameStream (a b : Msg) : Bool :=
  a.drank == b.drank && (a.isCfg || b.isCfg || (a.dport == b.dport && a.ring.isSome == b.ring.isSome))

/-- Do earlier accesses of its slot hold back a message: the stores before it (R94), and what R261 keeps before a send, an
earlier message of the field among it? -/
def State.msgGated (s : State) (v : VRef) (m : Msg) : Bool :=
  match m.after with
  | some (k, n) =>
    let r : SRef := ⟨v, Fin.ofNat 8 k⟩
    (s.slot r).storesBefore n || (s.rankInField v m.drank && (s.keptBefore r n || s.fieldSends r n))
  | none => false

/-- The message of a number among those of a vtile: the first of its stream, and not before its slot's earlier accesses. -/
def State.outMsg (s : State) (v : VRef) (id : Nat) : Option Msg :=
  let t := s.vt v
  match t.outq.find? (fun m => m.id == id) with
  | none => none
  | some m =>
    let first := (t.outq.find? (fun o => o.sameStream m)).map Msg.id == some id
    if first && !s.msgGated v m then some m else none

/-- Has a message on its way outside the outbound queues a number of its sender: the croft's, or a copy completion's
(R202, R218, R399)? -/
def Msg.numbered (m : Msg) : Bool := m.kind == 0 || m.kind == 3

/-- Does a message of the same sender to the same rank and port come before another in SSEQ order (R206)? Numbers wrap. -/
def Msg.earlier (o m : Msg) : Bool :=
  let d := wrap ((m.sseq : Int) - o.sseq) 32
  o.srank == m.srank && o.sinc == m.sinc && o.drank == m.drank && o.dport == m.dport && o.ring.isSome == m.ring.isSome
    && 0 < d && d < 2 ^ 31

/-- Does a copy of the sender's that has not finished hold a message back: its completion message, whose number it took
at acceptance, comes before it (R202, R206, R218)? -/
def Vtile.copyFirst (t : Vtile) (m : Msg) : Bool :=
  m.drank == m.srank && m.dinc == t.inc && m.sinc == t.inc && m.ring.isNone && t.copies.any (fun c =>
    let d := wrap ((m.sseq : Int) - c.mseq) 32
    !c.finished && (c.op == .read || c.op == .muster) && bit c.desc 247 && bits c.desc 244 240 == m.dport
      && 0 < d && d < 2 ^ 31)

/-- Does an earlier message of its sender, not delivered, hold a message back (R206, R399)? -/
def Ctx.holdsBack (c : Ctx) (m : Msg) : Bool :=
  c.msgs.any (fun o => o.numbered && o.earlier m)
    || (match Tbl.find? c.vts m.srank with
      | some t => t.copyFirst m
      | none => false)
    || (m.kind == 3 && (match Tbl.find? c.vts m.srank with
      | some t => t.outq.any (fun o => o.earlier m)
      | none => false))

/-- The message of a number, and the sender whose queue it is in. -/
def State.msgOf (s : State) (ctx id : Nat) : Option (Option Nat × Msg) :=
  let c := s.ctx ctx
  match c.msgs.find? (fun m => m.id == id) with
  | some m => if m.numbered && c.holdsBack m then none else some (none, m)
  | none => c.vts.findSome? (fun p => match s.outMsg ⟨ctx, p.1⟩ id with
    | some m => if c.holdsBack m then none else some (some p.1, m)
    | none => none)

/-- Take it from there. -/
def State.takeMsg (s : State) (ctx id : Nat) (from_ : Option Nat) : State :=
  match from_ with
  | none => s.inCtx ctx (fun c => { c with msgs := removeFirst (fun m => m.id == id) c.msgs })
  | some k => s.modVt ⟨ctx, k⟩ (fun t => { t with outq := removeFirst (fun m => m.id == id) t.outq })

/-- The destination of a message. -/
def Msg.dest (m : Msg) (ctx : Nat) : VRef := ⟨ctx, m.drank⟩

/-- Why a message does not reach its destination's incarnation (R206, R249, R250). -/
def State.badDest (s : State) (ctx : Nat) (m : Msg) : Option Nat :=
  let v := m.dest ctx
  if !s.hasVt v then some 0x02 else if (s.vt v).inc != m.dinc then some 0x01 else none

/-- The routers' check of the tags of a message that is delivered or appended to a pen (R273, R277). -/
def State.checkMsg (s : State) (ctx : Nat) (m : Msg) : State :=
  m.tags.foldl (fun s g =>
    (s.checkTag ctx g (s.tagNeed g (m.dest ctx)) 1 (destWord m.drank m.dport m.dinc) (word m.sseq)).1) s

/-- Is the destination out of its tile, or halted, so that the message goes to its pen (R332, R362)? -/
def Vtile.pens (t : Vtile) : Bool := t.loc != .resident || t.halted

/-- A message for a pen; a demand for an absent vtile is a tile fault (R333). -/
def State.toPen (s : State) (ctx : Nat) (m : Msg) : State :=
  let v := m.dest ctx
  if (s.vt v).pen.length < penMax then
    let s := (s.checkMsg ctx m).penAppend v m
    if (s.vt v).loc == .absent then s.tileFault v 0 else s
  else s.overflow v m

/-- A message for a port of a vtile in its tile (R206, R246). One to a context port that overflows does not park (R248). -/
def State.toPort (s : State) (ctx : Nat) (m : Msg) : State :=
  let v := m.dest ctx
  let p := (s.vt v).port m.dport
  if !p.en then s.undeliverable ctx m 0x03
  else if p.occ < p.cap + 1 && (p.ovf || p.parked = 0) then (s.checkMsg ctx m).enterPort v m.dport m
  else if !p.ovf && !s.isCtxPort ctx m && (s.vt v).pen.length < penMax then (s.checkMsg ctx m).penAppend v m
  else s.overflow v m

/-- The bytes of a payload. -/
def Msg.bytes (m : Msg) : List Byte := m.payload.flatMap (fun w => toBytes 8 w.toNat)

/-- A sendr enters its ring as one landing (R204, R219), in one run of bytes or, past the ring's end, two. -/
def State.toRing (s : State) (ctx : Nat) (m : Msg) (i : Nat) : State :=
  let v := m.dest ctx
  let g := vget (s.vt v).rings i Ring.blank
  let bs := m.bytes
  let n := bs.length
  if !(s.vt v).ringUsable g n then s.undeliverable ctx m 0x05
  else
    let before := s
    let s := s.checkMsg ctx m
    let size := 2 ^ g.logsz
    let at_ := g.res % size
    let first := min n (size - at_)
    let s := s.landBytes v (g.base + at_) (bs.take first) (fun i => bit m.poison (i / 8))
    let s := s.landBytes v g.base (bs.drop first) (fun i => bit m.poison ((first + i) / 8))
    let s := match m.aw with
      | some w => s.arrive v w n
      | none => s
    (s.modVt v (fun t => { t with rings := vmod t.rings i (fun g =>
      ({ g with
        res := (g.res + n) % 2 ^ 32
        xfers := g.xfers ++ [{ src := m.srank, cseq := m.sseq, isMsg := true, len := n, start := some g.res, done := true }] } : Ring).advance) })).landedAt
        before v

/-- May the message arrive now? A sendr waits for room in its ring; what lands in a running vtile waits for the units it
touches. -/
def State.msgReady (s : State) (ctx : Nat) (m : Msg) : Bool :=
  let v := m.dest ctx
  let t := s.vt v
  if (s.badDest ctx m).isSome then true
  else match m.ring with
    | some i =>
      let g := vget t.rings i Ring.blank
      let n := 8 * m.payload.length
      !t.ringUsable g n || (g.room n && !s.landWaits v g.base (2 ^ g.logsz)
        && !(match m.aw with | some w => s.landWaits v w 16 | none => false))
    | none => t.pens || !(t.port m.dport).en || !s.landWaits v t.psBase t.psSize

/-- R206 MESSAGE_DELIVERY. -/
def execMessageDelivery (ctx id : Nat) (s : State) : Host.Outcome State Fault Refusal :=
  match s.msgOf ctx id with
  | none => .refused (.notEnabled "MESSAGE_DELIVERY")
  | some (from_, m) =>
    if m.isCfg || !s.msgReady ctx m then .refused (.notEnabled "MESSAGE_DELIVERY")
    else
      let s := s.takeMsg ctx id from_
      .next (match s.badDest ctx m with
        | some reason => s.undeliverable ctx m reason
        | none => match m.ring with
          | some i => s.toRing ctx m i
          | none => if (s.vt (m.dest ctx)).pens then s.toPen ctx m else s.toPort ctx m)

/-- R353 CFG_WRITE: a remote write arrives; a halted vtile takes it at its resume, if its pen has room (R246), an absent one in
its image. -/
def execCfgWrite (ctx id : Nat) (s : State) : Host.Outcome State Fault Refusal :=
  match s.msgOf ctx id with
  | none => .refused (.notEnabled "CFG_WRITE")
  | some (from_, m) =>
    if !m.isCfg then .refused (.notEnabled "CFG_WRITE")
    else
      let v := m.dest ctx
      let s := s.takeMsg ctx id from_
      .next (match s.badDest ctx m with
        | some reason => s.undeliverable ctx m reason
        | none =>
          if !(s.vt v).halted then s.cfgApply v m
          else if (s.vt v).pen.length < penMax then
            (s.modVt v (fun t => { t with pen := t.pen ++ [m] })).penBytes v (s.vt v).pen.length
          else s.overflow v m)

/-! ## After a halt (R362) -/

/-- What waited during a halt is taken in pen order: remote writes are applied, and messages re-enter their ports. -/
def State.penResume (s : State) (v : VRef) : State :=
  (((s.vt v).pen.foldl (fun s m =>
    if m.isCfg then
      (s.modVt v (fun t => { t with pen := removeFirst (fun x => x.id == m.id) t.pen })).cfgApply v m
    else if (s.vt v).loc == .resident then s.reinjectOne v m
    else s) s).penBytes v 0).evalDefer v

/-! ## SCOPE_MISS (R278, R279) -/

/-- The message that a router sends for a stripped write. -/
def State.missMsg (s : State) (ctx : Nat) (x : Miss) : Msg :=
  let g := x.tag
  let rel := destWord g.rank 0 g.inc
  let sm := (s.ctx ctx).desc.smdest
  let dest := if destRank sm = 0xFFFFFF then destWord g.rank (destPort sm) g.inc else sm
  kind5 dest 0xFFFFFF 0 0 0x27 [x.where_, word (g.scope + x.need * 8 + x.loc * 64), rel, x.seqno]
    (some { g with scope := x.need }) true

/-- Have the writes that the stripped release covered been performed? The releaser's buffered stores are what can still
wait. -/
def State.missReady (s : State) (x : Miss) : Bool :=
  let v : VRef := ⟨x.tag.ctx, x.tag.rank⟩
  !s.hasVt v || (s.vt v).slots.toList.all (fun sl => sl.sb.isEmpty)

/-- R278 SCOPE_MISS. -/
def execScopeMiss (ctx id : Nat) (s : State) : Host.Outcome State Fault Refusal :=
  match (s.ctx ctx).misses.find? (fun x => x.id == id) with
  | none => .refused (.notEnabled "SCOPE_MISS")
  | some x =>
    if s.missReady x then
      .next ((s.inCtx ctx (fun c => { c with misses := removeFirst (fun y => y.id == id) c.misses })).post ctx (s.missMsg ctx x))
    else .refused (.notEnabled "SCOPE_MISS")

end Sys2Proof.Machine
end

