-- ==== Sys2Proof/Machine/Mul.lean ====
section
/-!
DEFINITION. MUL (R113, R114): products short, division and remainder long, with DZ as the only flag.
-/
namespace Sys2Proof.Machine

/-- A MUL trigger. -/
def mulMeaning (op : MulOp) (m : BitVec 3) (f : (a b : Nat) → (qprev : Word) → Landing) : TrigMeaning :=
  computeMeaning (.mul op) m (fun _ => none) (fun a b _ q => f (lo64 a) (lo64 b) q)

/-- mulw: the whole product, in `.q` and `.q2` for w = 64. -/
def mulWide (m : BitVec 3) (a b : Nat) : Landing :=
  let p := opVal m a * opVal m b
  if wWidth m = 64 then
    ⟨some (BitVec.ofNat 1024 (wrap p 64)), some (BitVec.ofNat 1024 (wrap (p.fdiv ((2 : Int) ^ 64)) 64)), evNone⟩
  else landQ (word (wrap p 64))

/-- divrem of R114. -/
def mulDivrem (m : BitVec 3) (a b : Nat) : Landing :=
  let (quo, rmd, e) := divW m (opVal m a) (opVal m b)
  ⟨some (quo.setWidth 1024), some (rmd.setWidth 1024), e⟩

/-- R113 mul. -/
def mulMulMeaning (m : BitVec 3) : TrigMeaning := mulMeaning .mul m (fun a b _ => landQ (resVal m (opVal m a * opVal m b)))

def execMulMul (m : BitVec 3) (s : State) : Host.Outcome State Fault Refusal := runTrigger (mulMulMeaning m) m s

/-- R113 mulh: the high w bits of the product. -/
def mulMulhMeaning (m : BitVec 3) : TrigMeaning := mulMeaning .mulh m (fun a b _ => landQ (resVal m ((opVal m a * opVal m b).fdiv ((2 : Int) ^ wWidth m))))

def execMulMulh (m : BitVec 3) (s : State) : Host.Outcome State Fault Refusal := runTrigger (mulMulhMeaning m) m s

/-- R113 mulw. -/
def mulMulwMeaning (m : BitVec 3) : TrigMeaning := mulMeaning .mulw m (fun a b _ => mulWide m a b)

def execMulMulw (m : BitVec 3) (s : State) : Host.Outcome State Fault Refusal := runTrigger (mulMulwMeaning m) m s

/-- R113 mad: chained on the previous result. -/
def mulMadMeaning (m : BitVec 3) : TrigMeaning := mulMeaning .mad m (fun a b q => landQ (resVal m (opVal m a * opVal m b + opVal m q.toNat)))

def execMulMad (m : BitVec 3) (s : State) : Host.Outcome State Fault Refusal := runTrigger (mulMadMeaning m) m s

/-- R114 div. -/
def mulDivMeaning (m : BitVec 3) : TrigMeaning := mulMeaning .div m (fun a b _ => (let (x, _, e) := divW m (opVal m a) (opVal m b); { landQ x with ev := e }))

def execMulDiv (m : BitVec 3) (s : State) : Host.Outcome State Fault Refusal := runTrigger (mulDivMeaning m) m s

/-- R114 rem. -/
def mulRemMeaning (m : BitVec 3) : TrigMeaning := mulMeaning .rem m (fun a b _ => (let (_, x, e) := divW m (opVal m a) (opVal m b); { landQ x with ev := e }))

def execMulRem (m : BitVec 3) (s : State) : Host.Outcome State Fault Refusal := runTrigger (mulRemMeaning m) m s

/-- R114 divrem. -/
def mulDivremMeaning (m : BitVec 3) : TrigMeaning := mulMeaning .divrem m (fun a b _ => mulDivrem m a b)

def execMulDivrem (m : BitVec 3) (s : State) : Host.Outcome State Fault Refusal := runTrigger (mulDivremMeaning m) m s

end Sys2Proof.Machine
end

