-- ==== Sys2Proof/Machine/Rng.lean ====
section
/-!
DEFINITION. RNG (R163 to R168): stream records of the vtile, blocks of SHAKE256, and their transforms.
-/
namespace Sys2Proof.Machine

/-- The record that `.a` names (R165). -/
def rngIndex (s : State) (r : SRef) : Nat := bits (s.slot r).lat.rng.a.toNat 2 0

/-- The 128 bits of a record (R163). -/
def RngRec.word128 (g : RngRec) : Nat := g.sid + b2n g.exh * 2 ^ 32 + g.ctr * 2 ^ 64

/-- A record after a block was used (R166). -/
def RngRec.next (g : RngRec) : RngRec := if g.ctr = 2 ^ 64 - 1 then { g with exh := true } else { g with ctr := g.ctr + 1 }

/-- A draw of any kind: refused on an exhausted record, else a block, transformed, and the counter moves on. -/
def rngDrawMeaning' (op : RngOp) (m : BitVec 3) (f : (block : Nat) → Nat) : TrigMeaning :=
  { trig := .rng op
    stall := noStall
    check := fun s r =>
      if (vget (s.vt r.vt).rng (rngIndex s r) RngRec.blank).exh then some (0x12, word (rngIndex s r)) else none
    fire := fun s r =>
      let g := vget (s.vt r.vt).rng (rngIndex s r) RngRec.blank
      let block := rngBlock (s.ctx r.vt.ctx).desc.seed.toNat (r.vt.rank % 2 ^ 24) g.sid g.ctr
      let i := rngIndex s r
      (s.modVt r.vt (fun t => { t with rng := vmod t.rng i RngRec.next })).modSlot r (fun sl =>
        sl.fire (.rng op) m (landV (BitVec.ofNat 1024 (f block)) evNone)) }

/-- R165 seed. -/
def rngSeedMeaning (m : BitVec 3) : TrigMeaning :=
  { trig := .rng .seed
    stall := noStall
    check := noCheck
    fire := fun s r =>
      let i := rngIndex s r
      let old := (vget (s.vt r.vt).rng i RngRec.blank).word128
      let b := (s.slot r).lat.rng.b.toNat
      (s.modVt r.vt (fun t => { t with rng := vset t.rng i ⟨bits b 31 0, false, bits b 127 64⟩ })).modSlot r (fun sl =>
        sl.fire (.rng .seed) m (landV (BitVec.ofNat 1024 old) evNone)) }
def execRngSeed (m : BitVec 3) (s : State) : Host.Outcome State Fault Refusal := runTrigger (rngSeedMeaning m) m s

/-- R165 draw. -/
def rngDrawMeaning (m : BitVec 3) : TrigMeaning := rngDrawMeaning' .draw m (fun b => b)
def execRngDraw (m : BitVec 3) (s : State) : Host.Outcome State Fault Refusal := runTrigger (rngDrawMeaning m) m s

/-- R167 unif. -/
def rngUnifMeaning (m : BitVec 3) : TrigMeaning := rngDrawMeaning' .unif m (unifLanes (fmtOfF m))
def execRngUnif (m : BitVec 3) (s : State) : Host.Outcome State Fault Refusal := runTrigger (rngUnifMeaning m) m s

/-- R167 norm; the decoder admits it on stepping B1 only (R98). -/
def rngNormMeaning (m : BitVec 3) : TrigMeaning := rngDrawMeaning' .norm m (normLanes (fmtOfF m))
def execRngNorm (m : BitVec 3) (s : State) : Host.Outcome State Fault Refusal := runTrigger (rngNormMeaning m) m s

end Sys2Proof.Machine
end

