-- ==== Sys2Proof/Machine/Vec.lean ====
section
/-!
DEFINITION. VEC (R143 to R162): the arithmetic of FPU over lanes, conversions, reductions, block float, transcendental
approximations, permutes, integer lanes, and vector scratchpad access.
-/
namespace Sys2Proof.Machine

/-- A VEC trigger without acceptance checks. -/
def vecMeaning (op : VecOp) (m : BitVec 3) (rm : BitVec 2) (f : (a b c : Nat) → Landing) : TrigMeaning :=
  computeMeaning (.vec op rm) m (fun _ => none) (fun a b c _ => f a.toNat b.toNat c.toNat)

/-- Element-wise arithmetic on all lanes (R144). -/
def vecElem (op : VecOp) (m : BitVec 3) (rm : BitVec 2) (f : ElemOp) : TrigMeaning :=
  vecMeaning op m rm (fun a b c =>
    let w := laneBits m
    landLanes w ((List.range (1024 / w)).map (fun i =>
      f (fmtOfF m) (rmOf rm) (lane w a i) (lane w b i) (lane w c i))))

/-- A compare: all ones or zero in each lane (R148). -/
def vecCmp (op : VecOp) (m : BitVec 3) (f : Fmt → (a b : Nat) → Bool × Ev) : TrigMeaning :=
  vecElem op m 0 (fun g _ a b _ => let (x, e) := f g a b; (if x then 2 ^ fmtBits g - 1 else 0, e))

/-- Lane count N of `.b` (R144). -/
def vecCount (f : Fmt) (b : Nat) : Nat := let n := bits b 6 0; if n = 0 then laneCount f else n

/-- An operation on lanes 0 to N - 1 of `.a`; N above L is VEC_OPERAND (R144). -/
def vecReduce (op : VecOp) (m : BitVec 3) (rm : BitVec 2) (f : (fmt : Fmt) → (xs : List Nat) → Nat × Ev) : TrigMeaning :=
  computeMeaning (.vec op rm) m
    (fun l => if laneCount (fmtOfF m) < vecCount (fmtOfF m) l.b.toNat then some (0x11, l.b.setWidth 64) else none)
    (fun a b _ _ =>
      let (x, e) := f (fmtOfF m) (lanes (fmtBits (fmtOfF m)) (vecCount (fmtOfF m) b.toNat) a.toNat)
      landV (BitVec.ofNat 1024 x) e)

/-- A conversion between lane widths bs, bd and lane counts ls, ld that the record fixes (R151, R152). Where the record is
refused and P is out of range, the model raises FORMAT: the spec gives the two no order (log 98). -/
def vecConv (op : VecOp) (m : BitVec 3) (rm : BitVec 2) (plain : Bool) (counts : (rec : Nat) → Nat × Nat)
    (f : (rec a b c : Nat) → Landing) : TrigMeaning :=
  computeMeaning (.vec op rm) m
    (fun l =>
      let rec_ := bits l.b.toNat 31 0
      let (ls, ld) := counts rec_
      if convRecordBad rec_ plain then some (0x08, word rec_)
      else if max ls ld / min ls ld ≤ bits l.b.toNat 33 32 then some (0x11, l.b.setWidth 64)
      else none)
    (fun a b c _ => f (bits b.toNat 31 0) a.toNat b.toNat c.toNat)

/-- Scale byte of a source element (R153). -/
def vecScale (rec c e : Nat) : Nat := lane 8 c (e / 2 ^ bits rec 10 8)

/-- A transcendental on all lanes (R157). -/
def vecReal (op : VecOp) (m : BitVec 3) (g : Fmt → FVal → LaneRes) : TrigMeaning :=
  vecElem op m 0 (fun f _ a _ _ => deliverLane f (g f (ieeeDecode f a)))

/-- An integer lane operation (R159). -/
def vecInt (op : VecOp) (m : BitVec 3) (f : (a b : Nat) → Nat) : TrigMeaning :=
  vecMeaning op m 0 (fun a b _ => landV (intLane m f a b) evNone)

/-- Acceptance checks of a vector access (R162, R207). -/
def vecSpCheck (writes : Bool) (s : State) (r : SRef) : Option (Nat × Word) :=
  let l := (s.slot r).lat.vec
  let ea := lo64 l.a
  let nb := vecNB l.c
  if !inBounds ea nb || (writes && (s.vt r.vt).overlapsPorts ea nb) then some (0x09, word ea)
  else if ea % 8 != 0 then some (0x0A, word ea)
  else none

/-- R147 add. -/
def vecAddMeaning (m : BitVec 3) (rm : BitVec 2) : TrigMeaning := vecElem .add m rm elemAdd
def execVecAdd (m : BitVec 3) (rm : BitVec 2) (s : State) : Host.Outcome State Fault Refusal :=
  runTrigger (vecAddMeaning m rm) m s

/-- R147 sub. -/
def vecSubMeaning (m : BitVec 3) (rm : BitVec 2) : TrigMeaning := vecElem .sub m rm elemSub
def execVecSub (m : BitVec 3) (rm : BitVec 2) (s : State) : Host.Outcome State Fault Refusal :=
  runTrigger (vecSubMeaning m rm) m s

/-- R147 mul. -/
def vecMulMeaning (m : BitVec 3) (rm : BitVec 2) : TrigMeaning := vecElem .mul m rm elemMul
def execVecMul (m : BitVec 3) (rm : BitVec 2) (s : State) : Host.Outcome State Fault Refusal :=
  runTrigger (vecMulMeaning m rm) m s

/-- R147 fma. -/
def vecFmaMeaning (m : BitVec 3) (rm : BitVec 2) : TrigMeaning := vecElem .fma m rm elemFma
def execVecFma (m : BitVec 3) (rm : BitVec 2) (s : State) : Host.Outcome State Fault Refusal :=
  runTrigger (vecFmaMeaning m rm) m s

/-- R151 cvt. -/
def vecCvtMeaning (m : BitVec 3) (rm : BitVec 2) : TrigMeaning := 
  vecConv .cvt m rm false (fun r => (laneCount (recordFmt r), laneCount (fmtOfF m))) (fun r a b c =>
    convLanes (fmtBits (recordFmt r)) (laneCount (recordFmt r)) (fmtBits (fmtOfF m)) (laneCount (fmtOfF m))
      (bits b 33 32) a (fun x e => convCvt (fmtOfF m) (rmOf rm) r x (vecScale r c e)))
def execVecCvt (m : BitVec 3) (rm : BitVec 2) (s : State) : Host.Outcome State Fault Refusal :=
  runTrigger (vecCvtMeaning m rm) m s

/-- R151 cvti. -/
def vecCvtiMeaning (m : BitVec 3) (rm : BitVec 2) : TrigMeaning := 
  vecConv .cvti m rm false (fun r => (laneCount (recordFmt r), 1024 / wWidth m)) (fun r a b c =>
    convLanes (fmtBits (recordFmt r)) (laneCount (recordFmt r)) (wWidth m) (1024 / wWidth m) (bits b 33 32) a
      (fun x e => let (y, ev) := convCvti m (rmOf rm) r x (vecScale r c e); (wrap y (wWidth m), ev)))
def execVecCvti (m : BitVec 3) (rm : BitVec 2) (s : State) : Host.Outcome State Fault Refusal :=
  runTrigger (vecCvtiMeaning m rm) m s

/-- R151 cvtf. -/
def vecCvtfMeaning (m : BitVec 3) (rm : BitVec 2) : TrigMeaning := 
  vecConv .cvtf m rm true (fun r => (1024 / wWidth m, laneCount (recordFmt r))) (fun r a b _ =>
    convLanes (wWidth m) (1024 / wWidth m) (fmtBits (recordFmt r)) (laneCount (recordFmt r)) (bits b 33 32) a
      (fun x _ => convCvtf m (rmOf rm) r x))
def execVecCvtf (m : BitVec 3) (rm : BitVec 2) (s : State) : Host.Outcome State Fault Refusal :=
  runTrigger (vecCvtfMeaning m rm) m s

/-- R154 redadd.o. -/
def vecRedaddOMeaning (m : BitVec 3) (rm : BitVec 2) : TrigMeaning := vecReduce .redaddO m rm (fun f xs => sumOrdered (rmOf rm) (xs.map (toF32 f)))
def execVecRedaddO (m : BitVec 3) (rm : BitVec 2) (s : State) : Host.Outcome State Fault Refusal :=
  runTrigger (vecRedaddOMeaning m rm) m s

/-- R154 redadd.u: a tree of the unit's choosing, picked by a free value. -/
def vecRedaddUMeaning (m : BitVec 3) (rm : BitVec 2) : TrigMeaning :=
  let t : Trig := .vec .redaddU rm
  { trig := t
    stall := noStall
    check := (vecReduce .redaddU m rm (fun _ _ => (0, evNone))).check
    fire := fun s r => s.modSlot r (fun sl =>
      let l := sl.lat.vec
      let xs := lanes (fmtBits (fmtOfF m)) (vecCount (fmtOfF m) l.b.toNat) l.a.toNat
      let (x, e) := sumUnordered (rmOf rm) (Config.reductionTree s.tick) (xs.map (toF32 (fmtOfF m)))
      sl.fire t m (landV (BitVec.ofNat 1024 x) e)) }
def execVecRedaddU (m : BitVec 3) (rm : BitVec 2) (s : State) : Host.Outcome State Fault Refusal :=
  runTrigger (vecRedaddUMeaning m rm) m s

/-- R156 bfdec. -/
def vecBfdecMeaning (m : BitVec 3) (rm : BitVec 2) : TrigMeaning := 
  vecMeaning .bfdec m rm (fun a _ _ =>
    let (x, e) := bfDecode (bfM a) (bfX a) (fmtOfF m) (rmOf rm)
    landV (BitVec.ofNat 1024 x) e)
def execVecBfdec (m : BitVec 3) (rm : BitVec 2) (s : State) : Host.Outcome State Fault Refusal :=
  runTrigger (vecBfdecMeaning m rm) m s

/-- R148 min. -/
def vecMinMeaning (m : BitVec 3) : TrigMeaning := vecElem .min m 0 elemMin
def execVecMin (m : BitVec 3) (s : State) : Host.Outcome State Fault Refusal := runTrigger (vecMinMeaning m) m s

/-- R148 max. -/
def vecMaxMeaning (m : BitVec 3) : TrigMeaning := vecElem .max m 0 elemMax
def execVecMax (m : BitVec 3) (s : State) : Host.Outcome State Fault Refusal := runTrigger (vecMaxMeaning m) m s

/-- R148 eq. -/
def vecEqMeaning (m : BitVec 3) : TrigMeaning := vecCmp .eq m cmpEq
def execVecEq (m : BitVec 3) (s : State) : Host.Outcome State Fault Refusal := runTrigger (vecEqMeaning m) m s

/-- R148 lt. -/
def vecLtMeaning (m : BitVec 3) : TrigMeaning := vecCmp .lt m cmpLt
def execVecLt (m : BitVec 3) (s : State) : Host.Outcome State Fault Refusal := runTrigger (vecLtMeaning m) m s

/-- R148 le. -/
def vecLeMeaning (m : BitVec 3) : TrigMeaning := vecCmp .le m cmpLe
def execVecLe (m : BitVec 3) (s : State) : Host.Outcome State Fault Refusal := runTrigger (vecLeMeaning m) m s

/-- R149 sel: bits are not interpreted. -/
def vecSelMeaning (m : BitVec 3) : TrigMeaning := 
  vecElem .sel m 0 (fun _ _ a b c => (if a != 0 then b else c, evNone))
def execVecSel (m : BitVec 3) (s : State) : Host.Outcome State Fault Refusal := runTrigger (vecSelMeaning m) m s

/-- R148 abs. -/
def vecAbsMeaning (m : BitVec 3) : TrigMeaning := vecElem .abs m 0 elemAbs
def execVecAbs (m : BitVec 3) (s : State) : Host.Outcome State Fault Refusal := runTrigger (vecAbsMeaning m) m s

/-- R148 neg. -/
def vecNegMeaning (m : BitVec 3) : TrigMeaning := vecElem .neg m 0 elemNeg
def execVecNeg (m : BitVec 3) (s : State) : Host.Outcome State Fault Refusal := runTrigger (vecNegMeaning m) m s

/-- R155 redmax. -/
def vecRedmaxMeaning (m : BitVec 3) : TrigMeaning := vecReduce .redmax m 0 (fun f xs => extremum f true xs)
def execVecRedmax (m : BitVec 3) (s : State) : Host.Outcome State Fault Refusal := runTrigger (vecRedmaxMeaning m) m s

/-- R155 redmin. -/
def vecRedminMeaning (m : BitVec 3) : TrigMeaning := vecReduce .redmin m 0 (fun f xs => extremum f false xs)
def execVecRedmin (m : BitVec 3) (s : State) : Host.Outcome State Fault Refusal := runTrigger (vecRedminMeaning m) m s

/-- R156 bfenc. -/
def vecBfencMeaning (m : BitVec 3) : TrigMeaning := 
  vecReduce .bfenc m 0 (fun f xs => let (p, e) := bfEncode (xs.map (ieeeDecode f)); (bfPair p, e))
def execVecBfenc (m : BitVec 3) (s : State) : Host.Outcome State Fault Refusal := runTrigger (vecBfencMeaning m) m s

/-- R156 bfalign: (M, X) from .a is added to (A, Xa) from .b. -/
def vecBfalignMeaning (m : BitVec 3) : TrigMeaning := 
  vecMeaning .bfalign m 0 (fun a b _ =>
    let (p, e) := bfAlignAdd (bfM b) (bfX b) (bfM a) (bfX a)
    landV (BitVec.ofNat 1024 (bfPair p)) e)
def execVecBfalign (m : BitVec 3) (s : State) : Host.Outcome State Fault Refusal := runTrigger (vecBfalignMeaning m) m s

/-- R157 exp. -/
def vecExpMeaning (m : BitVec 3) : TrigMeaning := vecReal .exp m laneExp
def execVecExp (m : BitVec 3) (s : State) : Host.Outcome State Fault Refusal := runTrigger (vecExpMeaning m) m s

/-- R157 log. -/
def vecLogMeaning (m : BitVec 3) : TrigMeaning := vecReal .log m laneLog
def execVecLog (m : BitVec 3) (s : State) : Host.Outcome State Fault Refusal := runTrigger (vecLogMeaning m) m s

/-- R157 rcp. -/
def vecRcpMeaning (m : BitVec 3) : TrigMeaning := vecReal .rcp m laneRcp
def execVecRcp (m : BitVec 3) (s : State) : Host.Outcome State Fault Refusal := runTrigger (vecRcpMeaning m) m s

/-- R157 rsqrt. -/
def vecRsqrtMeaning (m : BitVec 3) : TrigMeaning := vecReal .rsqrt m laneRsqrt
def execVecRsqrt (m : BitVec 3) (s : State) : Host.Outcome State Fault Refusal := runTrigger (vecRsqrtMeaning m) m s

/-- R157 tanh. -/
def vecTanhMeaning (m : BitVec 3) : TrigMeaning := vecReal .tanh m laneTanh
def execVecTanh (m : BitVec 3) (s : State) : Host.Outcome State Fault Refusal := runTrigger (vecTanhMeaning m) m s

/-- R157 sigm. -/
def vecSigmMeaning (m : BitVec 3) : TrigMeaning := vecReal .sigm m laneSigm
def execVecSigm (m : BitVec 3) (s : State) : Host.Outcome State Fault Refusal := runTrigger (vecSigmMeaning m) m s

/-- R158 perm. -/
def vecPermMeaning (m : BitVec 3) : TrigMeaning := vecMeaning .perm m 0 (fun a b _ => landV (vecPermVal m a b) evNone)
def execVecPerm (m : BitVec 3) (s : State) : Host.Outcome State Fault Refusal := runTrigger (vecPermMeaning m) m s

/-- R158 bcast. -/
def vecBcastMeaning (m : BitVec 3) : TrigMeaning := vecMeaning .bcast m 0 (fun a b _ => landV (vecBcastVal m a b) evNone)
def execVecBcast (m : BitVec 3) (s : State) : Host.Outcome State Fault Refusal := runTrigger (vecBcastMeaning m) m s

/-- R158 rotl. -/
def vecRotlMeaning (m : BitVec 3) : TrigMeaning := vecMeaning .rotl m 0 (fun a b _ => landV (vecRotlVal m a b) evNone)
def execVecRotl (m : BitVec 3) (s : State) : Host.Outcome State Fault Refusal := runTrigger (vecRotlMeaning m) m s

/-- R160 vld. -/
def vecVldMeaning (m : BitVec 3) : TrigMeaning := 
  { trig := .vec .vld 0, stall := noStall, check := vecSpCheck false, fire := fun s r => s.fireSp r (.vec .vld 0) m }
def execVecVld (m : BitVec 3) (s : State) : Host.Outcome State Fault Refusal := runTrigger (vecVldMeaning m) m s

/-- R160 vst: one entry of the store buffer; the result latches stay. A latch has no more than 128 bytes to store. -/
def vecVstMeaning (m : BitVec 3) : TrigMeaning := 
  { trig := .vec .vst 0, stall := noStall, check := vecSpCheck true
    fire := fun s r => s.modSlot r (fun sl =>
      (sl.buffer .vst (lo64 sl.lat.vec.a) (min (vecNB sl.lat.vec.c) 128) sl.lat.vec.b).fire (.vec .vst 0) m landNothing) }
def execVecVst (m : BitVec 3) (s : State) : Host.Outcome State Fault Refusal := runTrigger (vecVstMeaning m) m s

/-- R160 vld.wf: waits until every word is full. -/
def vecVldWfMeaning (m : BitVec 3) : TrigMeaning := 
  { trig := .vec .vldWf 0, stall := noStall, check := vecSpCheck false, fire := fun s r => s.fireSp r (.vec .vldWf 0) m }
def execVecVldWf (m : BitVec 3) (s : State) : Host.Outcome State Fault Refusal := runTrigger (vecVldWfMeaning m) m s

/-- R159 iadd. -/
def vecIaddMeaning (m : BitVec 3) : TrigMeaning := vecInt .iadd m (fun a b => wrap (opVal m a + opVal m b) (wWidth m))
def execVecIadd (m : BitVec 3) (s : State) : Host.Outcome State Fault Refusal := runTrigger (vecIaddMeaning m) m s

/-- R159 isub. -/
def vecIsubMeaning (m : BitVec 3) : TrigMeaning := vecInt .isub m (fun a b => wrap (opVal m a - opVal m b) (wWidth m))
def execVecIsub (m : BitVec 3) (s : State) : Host.Outcome State Fault Refusal := runTrigger (vecIsubMeaning m) m s

/-- R159 imul. -/
def vecImulMeaning (m : BitVec 3) : TrigMeaning := vecInt .imul m (fun a b => wrap (opVal m a * opVal m b) (wWidth m))
def execVecImul (m : BitVec 3) (s : State) : Host.Outcome State Fault Refusal := runTrigger (vecImulMeaning m) m s

/-- R159 iand. -/
def vecIandMeaning (m : BitVec 3) : TrigMeaning := vecInt .iand m (fun a b => a &&& b)
def execVecIand (m : BitVec 3) (s : State) : Host.Outcome State Fault Refusal := runTrigger (vecIandMeaning m) m s

/-- R159 ior. -/
def vecIorMeaning (m : BitVec 3) : TrigMeaning := vecInt .ior m (fun a b => a ||| b)
def execVecIor (m : BitVec 3) (s : State) : Host.Outcome State Fault Refusal := runTrigger (vecIorMeaning m) m s

/-- R159 ixor. -/
def vecIxorMeaning (m : BitVec 3) : TrigMeaning := vecInt .ixor m (fun a b => a ^^^ b)
def execVecIxor (m : BitVec 3) (s : State) : Host.Outcome State Fault Refusal := runTrigger (vecIxorMeaning m) m s

/-- R159 ishl. -/
def vecIshlMeaning (m : BitVec 3) : TrigMeaning := vecInt .ishl m (fun a b => a * 2 ^ shiftOf m b)
def execVecIshl (m : BitVec 3) (s : State) : Host.Outcome State Fault Refusal := runTrigger (vecIshlMeaning m) m s

/-- R159 ishr. -/
def vecIshrMeaning (m : BitVec 3) : TrigMeaning := vecInt .ishr m (fun a b => wrap ((opVal m a).fdiv ((2 : Int) ^ shiftOf m b)) (wWidth m))
def execVecIshr (m : BitVec 3) (s : State) : Host.Outcome State Fault Refusal := runTrigger (vecIshrMeaning m) m s

/-- R159 imin. -/
def vecIminMeaning (m : BitVec 3) : TrigMeaning := vecInt .imin m (fun a b => wrap (min (opVal m a) (opVal m b)) (wWidth m))
def execVecImin (m : BitVec 3) (s : State) : Host.Outcome State Fault Refusal := runTrigger (vecIminMeaning m) m s

/-- R159 imax. -/
def vecImaxMeaning (m : BitVec 3) : TrigMeaning := vecInt .imax m (fun a b => wrap (max (opVal m a) (opVal m b)) (wWidth m))
def execVecImax (m : BitVec 3) (s : State) : Host.Outcome State Fault Refusal := runTrigger (vecImaxMeaning m) m s

end Sys2Proof.Machine
end

