-- ==== Sys2Proof/Machine/Moves.lean ====
section
/-!
DEFINITION. The moves of an instruction (R86 to R96): guards, sources read once, stalls, acceptance checks in move order,
writes, triggers fired in move order; the immediate writes of MH and MW (R83); and how a control operation joins them.
-/
namespace Sys2Proof.Machine

/-- The meaning of a trigger with a modifier; `v` is the trigger's value, which only MXQ.cmd takes whole (R170). -/
def meaningOf (t : Trig) (m : BitVec 3) (v : VWord) : TrigMeaning :=
  match t with
  | .alu n .add => aluAddMeaning n m
  | .alu n .sub => aluSubMeaning n m
  | .alu n .and => aluAndMeaning n m
  | .alu n .or => aluOrMeaning n m
  | .alu n .xor => aluXorMeaning n m
  | .alu n .andn => aluAndnMeaning n m
  | .alu n .shl => aluShlMeaning n m
  | .alu n .shr => aluShrMeaning n m
  | .alu n .sra => aluSraMeaning n m
  | .alu n .rol => aluRolMeaning n m
  | .alu n .ror => aluRorMeaning n m
  | .alu n .min => aluMinMeaning n m
  | .alu n .max => aluMaxMeaning n m
  | .alu n .eq => aluEqMeaning n m
  | .alu n .ne => aluNeMeaning n m
  | .alu n .lt => aluLtMeaning n m
  | .alu n .le => aluLeMeaning n m
  | .alu n .sel => aluSelMeaning n m
  | .alu n .bfx => aluBfxMeaning n m
  | .alu n .bfi => aluBfiMeaning n m
  | .alu n .clz => aluClzMeaning n m
  | .alu n .ctz => aluCtzMeaning n m
  | .alu n .popc => aluPopcMeaning n m
  | .alu n .bswap => aluBswapMeaning n m
  | .alu n .adds => aluAddsMeaning n m
  | .alu n .subs => aluSubsMeaning n m
  | .alu n .abs => aluAbsMeaning n m
  | .alu n .neg => aluNegMeaning n m
  | .mul .mul => mulMulMeaning m
  | .mul .mulh => mulMulhMeaning m
  | .mul .mulw => mulMulwMeaning m
  | .mul .mad => mulMadMeaning m
  | .mul .div => mulDivMeaning m
  | .mul .rem => mulRemMeaning m
  | .mul .divrem => mulDivremMeaning m
  | .agu .add => aguAddMeaning m
  | .agu .idx => aguIdxMeaning m
  | .agu .idx2 => aguIdx2Meaning m
  | .agu .chk => aguChkMeaning m
  | .agu .wrap => aguWrapMeaning m
  | .agu .hmk => aguHmkMeaning m
  | .agu .hadv => aguHadvMeaning m
  | .agu .hrel => aguHrelMeaning m
  | .lsu .ld => lsuLdMeaning m
  | .lsu .st => lsuStMeaning m
  | .lsu .ldWf => lsuLdWfMeaning m
  | .lsu .ldTake => lsuLdTakeMeaning m
  | .lsu .stFill => lsuStFillMeaning m
  | .lsu .feRd => lsuFeRdMeaning m
  | .lsu .feClr => lsuFeClrMeaning m
  | .lsu .aAdd => lsuAAddMeaning m
  | .lsu .aAnd => lsuAAndMeaning m
  | .lsu .aOr => lsuAOrMeaning m
  | .lsu .aXor => lsuAXorMeaning m
  | .lsu .aMin => lsuAMinMeaning m
  | .lsu .aMax => lsuAMaxMeaning m
  | .lsu .aCas => lsuACasMeaning m
  | .lsu .aSwap => lsuASwapMeaning m
  | .lsu .fence => lsuFenceMeaning m
  | .lsu .rel => lsuRelMeaning m
  | .lsu .acq => lsuAcqMeaning m
  | .lsu .cLd => lsuCLdMeaning m
  | .lsu .cSt => lsuCStMeaning m
  | .lsu .cAddO => lsuCAddOMeaning m
  | .lsu .cAddU => lsuCAddUMeaning m
  | .lsu .cMinO => lsuCMinOMeaning m
  | .lsu .cMinU => lsuCMinUMeaning m
  | .lsu .cMaxO => lsuCMaxOMeaning m
  | .lsu .cMaxU => lsuCMaxUMeaning m
  | .lsu .cCasO => lsuCCasOMeaning m
  | .lsu .cCasU => lsuCCasUMeaning m
  | .lsu .cSwapO => lsuCSwapOMeaning m
  | .lsu .cSwapU => lsuCSwapUMeaning m
  | .lsu .cDecq => lsuCDecqMeaning m
  | .fpu .add rm => fpuAddMeaning m rm
  | .fpu .sub rm => fpuSubMeaning m rm
  | .fpu .mul rm => fpuMulMeaning m rm
  | .fpu .fma rm => fpuFmaMeaning m rm
  | .fpu .div rm => fpuDivMeaning m rm
  | .fpu .sqrt rm => fpuSqrtMeaning m rm
  | .fpu .cvt rm => fpuCvtMeaning m rm
  | .fpu .cvti rm => fpuCvtiMeaning m rm
  | .fpu .cvtf rm => fpuCvtfMeaning m rm
  | .fpu .min _ => fpuMinMeaning m
  | .fpu .max _ => fpuMaxMeaning m
  | .fpu .eq _ => fpuEqMeaning m
  | .fpu .lt _ => fpuLtMeaning m
  | .fpu .le _ => fpuLeMeaning m
  | .fpu .un _ => fpuUnMeaning m
  | .fpu .abs _ => fpuAbsMeaning m
  | .fpu .neg _ => fpuNegMeaning m
  | .fpu .cls _ => fpuClassMeaning m
  | .vec .add rm => vecAddMeaning m rm
  | .vec .sub rm => vecSubMeaning m rm
  | .vec .mul rm => vecMulMeaning m rm
  | .vec .fma rm => vecFmaMeaning m rm
  | .vec .cvt rm => vecCvtMeaning m rm
  | .vec .cvti rm => vecCvtiMeaning m rm
  | .vec .cvtf rm => vecCvtfMeaning m rm
  | .vec .redaddO rm => vecRedaddOMeaning m rm
  | .vec .redaddU rm => vecRedaddUMeaning m rm
  | .vec .bfdec rm => vecBfdecMeaning m rm
  | .vec .min _ => vecMinMeaning m
  | .vec .max _ => vecMaxMeaning m
  | .vec .eq _ => vecEqMeaning m
  | .vec .lt _ => vecLtMeaning m
  | .vec .le _ => vecLeMeaning m
  | .vec .sel _ => vecSelMeaning m
  | .vec .abs _ => vecAbsMeaning m
  | .vec .neg _ => vecNegMeaning m
  | .vec .redmax _ => vecRedmaxMeaning m
  | .vec .redmin _ => vecRedminMeaning m
  | .vec .bfenc _ => vecBfencMeaning m
  | .vec .bfalign _ => vecBfalignMeaning m
  | .vec .exp _ => vecExpMeaning m
  | .vec .log _ => vecLogMeaning m
  | .vec .rcp _ => vecRcpMeaning m
  | .vec .rsqrt _ => vecRsqrtMeaning m
  | .vec .tanh _ => vecTanhMeaning m
  | .vec .sigm _ => vecSigmMeaning m
  | .vec .perm _ => vecPermMeaning m
  | .vec .bcast _ => vecBcastMeaning m
  | .vec .rotl _ => vecRotlMeaning m
  | .vec .vld _ => vecVldMeaning m
  | .vec .vst _ => vecVstMeaning m
  | .vec .vldWf _ => vecVldWfMeaning m
  | .vec .iadd _ => vecIaddMeaning m
  | .vec .isub _ => vecIsubMeaning m
  | .vec .imul _ => vecImulMeaning m
  | .vec .iand _ => vecIandMeaning m
  | .vec .ior _ => vecIorMeaning m
  | .vec .ixor _ => vecIxorMeaning m
  | .vec .ishl _ => vecIshlMeaning m
  | .vec .ishr _ => vecIshrMeaning m
  | .vec .imin _ => vecIminMeaning m
  | .vec .imax _ => vecImaxMeaning m
  | .rng .seed => rngSeedMeaning m
  | .rng .draw => rngDrawMeaning m
  | .rng .unif => rngUnifMeaning m
  | .rng .norm => rngNormMeaning m
  | .mxq .cmd => mxqCmdMeaning (v.setWidth 512)
  | .mxq .poll => mxqPollMeaning m
  | .cpe .send => cpeSendMeaning m
  | .cpe .read => cpeReadMeaning m
  | .cpe .store => cpeStoreMeaning m
  | .cpe .muster => cpeMusterMeaning m
  | .cpe .scatter => cpeScatterMeaning m
  | .cpe .rsend => cpeRsendMeaning m
  | .cpe .seal => cpeSealMeaning m
  | .cpe .cwait => cpeCwaitMeaning m
  | .msg .send => msgSendMeaning m
  | .msg .sendv => msgSendvMeaning m
  | .msg .sendr => msgSendrMeaning m
  | .msg .svc => msgSvcMeaning m
  | .pat .pcfg => patPcfgMeaning m
  | .pat .prd => patPrdMeaning m
  | .pat .pset => patPsetMeaning m
  | .pat .pget => patPgetMeaning m
  | .pat .hset => patHsetMeaning m
  | .pat .hget => patHgetMeaning m
  | .pat .pen => patPenMeaning m
  | .pat .pdis => patPdisMeaning m
  | .sys .fsr => sysFsrMeaning m
  | .sys .cfgrd => sysCfgrdMeaning m
  | .sys .cfgwr => sysCfgwrMeaning m

/-! ## Executing the moves of an instruction (R94) -/

/-- An enabled move with its number and the value it read. -/
structure Moved where
  k : Nat
  mv : Move
  val : VWord
  deriving DecidableEq, Repr, Inhabited

/-- What reading the sources gives: the enabled moves with their values, or why the instruction does not go on. -/
inductive ReadAll where
  | ok (l : List Moved)
  | stall
  | park (u : FUnit)
  | trap (code : Nat) (tval : Word) (k : Nat)
  deriving DecidableEq, Repr, Inhabited

/-- Read the sources of the enabled moves, in move order. Reading changes nothing, so one source code read by several moves
gives them one value (R95). -/
def State.readMoves (s : State) (r : SRef) : List (Nat × Move) → ReadAll
  | [] => .ok []
  | (k, mv) :: l =>
    if !(s.slot r).guard mv.g then s.readMoves r l
    else match s.readSrc r mv.src with
      | .stall => .stall
      | .park u => .park u
      | .trap code tval => .trap code tval k
      | .val v => match s.readMoves r l with
        | .ok rest => .ok ({ k := k, mv := mv, val := v } :: rest)
        | x => x

/-- The trigger of a move, if it has one. -/
def Moved.trig? (m : Moved) : Option Trig :=
  match m.mv.dst with
  | .trig t => some t
  | _ => none

def Moved.meaning (m : Moved) (t : Trig) : TrigMeaning := meaningOf t m.mv.mod m.val

/-- Write the destinations that are not triggers, in move order. -/
def Slot.writeMoves (sl : Slot) (l : List Moved) : Slot :=
  l.foldl (fun sl m => if m.trig?.isNone then sl.write m.mv.dst m.mv.mod m.val else sl) sl

/-- Put the values of the triggers into their units' `.a`. -/
def Slot.writeTriggers (sl : Slot) (l : List Moved) : Slot :=
  l.foldl (fun sl m => if m.trig?.isSome then sl.write m.mv.dst m.mv.mod m.val else sl) sl

/-- Is the trigger a fence, rel or acq (R123)? -/
def trigIsFence : Trig → Bool
  | .lsu .fence | .lsu .rel | .lsu .acq => true
  | _ => false

/-- Does any trigger stall? The latches stand as the instruction would write them; a fence of an earlier move holds a later
one back. -/
def State.movesStall (s : State) (r : SRef) : List Moved → Bool
  | [] => false
  | m :: l => match m.trig? with
    | none => s.movesStall r l
    | some t =>
      let k := m.meaning t
      s.trigStalls r t m.mv.mod || k.stall s r || (if trigIsFence t then k.fire s r else s).movesStall r l

/-- The first acceptance check that fails, in move order; the stores of earlier moves stand in the buffer (R94). -/
def State.movesCheck (s : State) (r : SRef) : List Moved → Option (Nat × Word × Nat)
  | [] => none
  | m :: l => match m.trig? with
    | none => s.movesCheck r l
    | some t =>
      let k := m.meaning t
      match k.check s r with
      | some (code, tval) => some (code, tval, m.k)
      | none => (if trigIsStore t then k.fire s r else s).movesCheck r l

/-- Fire the triggers in move order. An instruction takes effect whole (R94): a trigger that ends the firing itself, an ABORT of
the own vtile, comes after the others. -/
def State.fireMoves (s : State) (r : SRef) (fser : Nat) : List Moved → State
  | [] => s
  | m :: l => match m.trig? with
    | none => s.fireMoves r fser l
    | some t =>
      let fired := (m.meaning t).fire s r
      if (fired.slot r).fser == fser then fired.fireMoves r fser l else (m.meaning t).fire (s.fireMoves r fser l) r

/-- Triggers beyond the limits of R346 and R124, counting those of the instruction itself. -/
def Slot.crowded (sl : Slot) (l : List Moved) : Bool :=
  let ts := l.filterMap Moved.trig?
  let stores := (ts.filter trigIsStore).length
  (stores < ts.length && 32 < sl.ops.length + (ts.length - stores)) || (0 < stores && 8 < sl.sb.length + stores)

/-- What follows the moves: a stall of its own, an acceptance check, and what it does. Each sees the state with what the
moves write, and the slot as it stood before the instruction, with which its register and guard were read. -/
structure Tail where
  stall : State → SRef → Slot → Bool
  check : State → SRef → Slot → Option (Nat × Word)
  run : State → SRef → Slot → State

/-- Go on with the next instruction. -/
def State.goOn (s : State) (r : SRef) : State := s.modSlot r Slot.advance

/-- No control operation. -/
def Tail.none : Tail := { stall := fun _ _ _ => false, check := fun _ _ _ => Option.none, run := fun s r _ => s.goOn r }

/-- The first move that names a code which a user slot may not name (R92). -/
def privilegedMove (l : List (Nat × Move)) : Option Nat :=
  (l.find? (fun p => srcPrivileged p.2.src || dstPrivileged p.2.dst)).map Prod.fst

/-- The state in which an instruction's checks are made: what its moves write, the values of its triggers included. -/
def State.preview (s : State) (r : SRef) (l : List Moved) (imm : Slot → Slot) : State :=
  s.modSlot r (fun x => (imm (x.writeMoves l)).writeTriggers l)

/-- Does an instruction that has read its sources stall? -/
def State.stallsOn (s : State) (r : SRef) (l : List Moved) (imm : Slot → Slot) (tail : Tail) : Bool :=
  (s.slot r).crowded l || (s.preview r l imm).movesStall r l || tail.stall (s.preview r l imm) r (s.slot r)

/-- Does an instruction that does not stall raise a trap of its moves or of what follows them? -/
def State.movesTrap (s : State) (mvs : List (Nat × Move)) (imm : Slot → Slot) (tail : Tail) : Bool :=
  let r := s.cur
  (!(s.slot r).sup && (privilegedMove mvs).isSome) || (match s.readMoves r mvs with
    | .trap _ _ _ => true
    | .ok l => !s.stallsOn r l imm tail && (((s.preview r l imm).movesCheck r l).isSome
        || (tail.check (s.preview r l imm) r (s.slot r)).isSome)
    | _ => false)

/-- Would `execMoves` stall, which changes nothing (R94)? -/
def State.movesWait (s : State) (mvs : List (Nat × Move)) (imm : Slot → Slot) (tail : Tail) : Bool :=
  let r := s.cur
  if s.movesTrap mvs imm tail then s.trapWaits r
  else match s.readMoves r mvs with
    | .stall => true
    | .ok l => s.stallsOn r l imm tail
    | _ => false

/-- `Execute` of R94. `imm` is the immediate write of MH or MW. -/
def State.execMoves (s : State) (mvs : List (Nat × Move)) (imm : Slot → Slot) (tail : Tail) : State :=
  let r := s.cur
  let sl := s.slot r
  match (if sl.sup then Option.none else privilegedMove mvs) with
  | some k => s.trapHere r 0x03 0 k
  | none => match s.readMoves r mvs with
    | .stall => s
    | .park u => s.parkOn r (.pending u)
    | .trap code tval k => s.trapHere r code tval k
    | .ok l =>
      let s1 := s.preview r l imm
      if s.stallsOn r l imm tail then s
      else match s1.movesCheck r l with
        | some (code, tval, k) => s.trapHere r code tval k
        | none => match tail.check s1 r sl with
          | some (code, tval) => s.trapHere r code tval 7
          | none =>
            let s2 := s1.fireMoves r sl.fser l
            if (s2.slot r).fser == sl.fser then tail.run s2 r sl else s2

def noImm (sl : Slot) : Slot := sl

/-! ## M3, MH, MW (R81 to R83) -/

/-- R82 M3. -/
def execM3 (a b c : Move) (s : State) : Host.Outcome State Fault Refusal :=
  .next (s.execMoves [(0, a), (1, b), (2, c)] noImm Tail.none)

/-- The immediate writes (R83). -/
def mhImm (imm : BitVec 20) (xd : Fin 32) (ig : Guard) (sl : Slot) : Slot :=
  if sl.guard ig then sl.xSet xd (word (wrap (sext (imm.toNat * 2 ^ 12) 32) 64)) else sl
def mwImm (imm : BitVec 56) (xd : Fin 32) (sl : Slot) : Slot := sl.xSet xd (word (wrap (sext imm.toNat 56) 64))

/-- R83 MH: x[XD] := SExt(IMM20 × 2^12, 32) when IG is true; IG is read where R94 reads it, after the moves' writes
(DEDUCED, log 13). -/
def execMh (a b : Move) (imm : BitVec 20) (xd : Fin 32) (ig : Guard) (s : State) : Host.Outcome State Fault Refusal :=
  .next (s.execMoves [(0, a), (1, b)]
    (mhImm imm xd ig) Tail.none)

/-- R83 MW: x[XD] := SExt(IMM56, 56). -/
def execMw (a : Move) (imm : BitVec 56) (xd : Fin 32) (s : State) : Host.Outcome State Fault Refusal :=
  .next (s.execMoves [(0, a)] (mwImm imm xd) Tail.none)

end Sys2Proof.Machine
end

