-- ==== Sys2Proof/Machine/Control.lean ====
section
/-!
DEFINITION. The CT instructions (R127 to R134): transfers, repeat blocks, end, park, hurdles and trap; with the flock's
side of a hurdle (R132, R226, R235) and the flock status record (R238).
-/
namespace Sys2Proof.Machine

/-! ## Flocks: members and the status record (R230, R238) -/

/-- The member ranks of a rectangle on a grid VX wide. -/
def Flock.members (f : Flock) (vx : Nat) : List Nat :=
  (List.range f.h).flatMap (fun y => (List.range f.w).map (fun x => (f.y0 + y) * vx + f.x0 + x))

def Flock.size (f : Flock) : Nat := f.w * f.h

/-- The members of a flock of a context. -/
def State.members (s : State) (ctx i : Nat) : List VRef :=
  ((s.flock ctx i).members (s.ctx ctx).desc.vx).map (fun k => ⟨ctx, k⟩)

/-- OR of the members' sticky flags (R18). -/
def State.aggregate (s : State) (ctx i : Nat) : BitVec 8 :=
  (s.members ctx i).foldl (fun acc v => acc ||| (s.vt v).sticky) 0

/-- STATE of the record; a transit keeps the code of its start. -/
def Flock.stateCode (f : Flock) : Nat :=
  match f.st with
  | .nonexistent => 0
  | .waiting => 1
  | .resident | .goingOut => 2
  | .rotatedOut => 3
  | .goingIn => if f.everOut then 3 else 1

/-- The 16 bytes of the record. -/
def Flock.record (f : Flock) : List Byte :=
  toBytes 8 (f.stateCode + b2n f.run * 2 ^ 2 + b2n f.finArm * 2 ^ 3 + f.sticky.toNat * 2 ^ 8
    + ((f.size - 1) % 2 ^ 12) * 2 ^ 16 + (f.herd % 2 ^ 16) * 2 ^ 32 + f.phase.toNat * 2 ^ 48)
  ++ toBytes 8 f.nfin

/-- Where a flock's record lies. -/
def State.flockAddr (s : State) (ctx i : Nat) : Nat := s.rimAt ((s.ctx ctx).desc.flocktab + 16 * i)

/-- One indivisible update of a flock's record, with its sticky aggregate. -/
def State.writeFlock (s : State) (ctx i : Nat) : State :=
  let agg := s.aggregate ctx i
  let s := s.modFlock ctx i (fun f => { f with sticky := agg })
  s.rimWriteBytes (s.flockAddr ctx i) (s.flock ctx i).record

/-! ## Hurdles (R132, R226, R235) -/

/-- A phase completes: the count and the members' PEND bits clear, held updates of before the arrivals settle, hurdle 15
arms the finish of a running launch, and the record is written. -/
def State.completePhase (s : State) (ctx i h : Nat) : State :=
  let ms := (s.flock ctx i).members (s.ctx ctx).desc.vx
  let s := s.settleRanks ctx (fun k => ms.contains k) (some h)
  let s := ms.foldl (fun s k => s.modVt ⟨ctx, k⟩ (fun t => { t with pend := t.pend &&& ~~~(1#16 <<< h) })) s
  let s := s.modFlock ctx i (fun f => { f with
    counts := vset f.counts h 0
    phase := f.phase ^^^ (1#16 <<< h)
    finArm := f.finArm || (h == 15 && f.run) })
  s.writeFlock ctx i

/-- R132 harr. The held updates that the vtile has performed are marked with the hurdle (R226). -/
def State.harr (s : State) (v : VRef) (h : Nat) : State :=
  let t := s.vt v
  if t.pend.getLsbD h then s
  else
    let i := t.flock
    let s := s.modVt v (fun t => { t with pend := t.pend ||| (1#16 <<< h) })
    let s := s.inCtx v.ctx (fun c => { c with holding := c.holding.map (fun u =>
      if u.u.rank == v.rank then { u with arrived := u.arrived ||| (1#16 <<< h) } else u) })
    let n := vget (s.flock v.ctx i).counts h 0 + 1
    let s := s.modFlock v.ctx i (fun f => { f with counts := vset f.counts h n })
    if n = (s.flock v.ctx i).size then s.completePhase v.ctx i h else s

/-! ## Control operations -/

/-- The own IX plus a signed offset; a target outside the range of R76 is caught where it issues. -/
def ixPlus (ix : Nat) (off : Word32) : Nat := wrap ((ix : Int) + sext off.toNat 32) 64

/-- A control operation under its guard: its move alone where the guard is false. -/
def guarded (cg : Guard) (t : Tail) : Tail :=
  { stall := fun s r sl => sl.guard cg && t.stall s r sl
    check := fun s r sl => if sl.guard cg then t.check s r sl else none
    run := fun s r sl => if sl.guard cg then t.run s r sl else s.goOn r }

/-- A control operation that only changes its slot. -/
def slotTail (f : (before now : Slot) → Slot) : Tail :=
  { Tail.none with run := fun s r sl => s.modSlot r (fun now => f sl now) }

/-- The CT instruction of a move and a control operation. -/
def execCT (m : Move) (cg : Guard) (t : Tail) (s : State) : Host.Outcome State Fault Refusal :=
  .next (s.execMoves [(3, m)] noImm (guarded cg t))

/-! ### Transfers (R127) -/

def brTail (off : Word32) : Tail := slotTail (fun sl now => now.transfer (ixPlus sl.ix off))
def callTail (off : Word32) (link : Fin 32) : Tail :=
  slotTail (fun sl now => (now.xSet link (word (sl.ix + 1))).transfer (ixPlus sl.ix off))
def jmpTail (r : Fin 32) : Tail := slotTail (fun sl now => now.transfer (sl.xGet r).toNat)
def calliTail (r link : Fin 32) : Tail :=
  slotTail (fun sl now => (now.xSet link (word (sl.ix + 1))).transfer (sl.xGet r).toNat)

/-- R127 br. -/
def execBr (m : Move) (cg : Guard) (off : Word32) (s : State) : Host.Outcome State Fault Refusal := execCT m cg (brTail off) s

/-- R127 call. -/
def execCall (m : Move) (cg : Guard) (off : Word32) (link : Fin 32) (s : State) : Host.Outcome State Fault Refusal :=
  execCT m cg (callTail off link) s

/-- R127 ret. -/
def execRet (m : Move) (cg : Guard) (r : Fin 32) (s : State) : Host.Outcome State Fault Refusal := execCT m cg (jmpTail r) s

/-- R127 jmp. -/
def execJmp (m : Move) (cg : Guard) (r : Fin 32) (s : State) : Host.Outcome State Fault Refusal := execCT m cg (jmpTail r) s

/-- R127 calli. -/
def execCalli (m : Move) (cg : Guard) (r link : Fin 32) (s : State) : Host.Outcome State Fault Refusal :=
  execCT m cg (calliTail r link) s

/-! ### Repeat blocks (R128) -/

/-- The count of a rep. -/
def repCount (sl : Slot) (r : Fin 32) (count : BitVec 16) : Nat :=
  if r.val = 0 then count.toNat else (sl.xGet r).toNat % 2 ^ 32

/-- Is the repeat stack full, or would the block outlast the one around it? -/
def repDeep (sl : Slot) (last : Nat) : Bool :=
  sl.rep.length == 4 || (match sl.rep.getLast? with
    | some top => decide (top.last < last)
    | none => false)

/-- Skip an empty block: the rep completes, and the next IX is past the block unless an enclosing block loops back
here. -/
def Slot.skipBlock (sl : Slot) (last : Nat) : Slot :=
  let n := sl.advance
  if n.alone then n else { n with ix := last + 1 }

/-- Enter the block, or skip it. -/
def Slot.enterBlock (sl : Slot) (ix last n : Nat) : Slot :=
  if n = 0 then sl.skipBlock last
  else ({ sl with rep := sl.rep ++ [{ first := ix + 1, last := last, remaining := n }] } : Slot).advance

def repTail (off : Word32) (r : Fin 32) (count : BitVec 16) : Tail :=
  { stall := fun _ _ _ => false
    check := fun _ _ sl =>
      if repCount sl r count != 0 && repDeep sl (ixPlus sl.ix off) then some (0x0E, word sl.rep.length) else none
    run := fun s rf sl => s.modSlot rf (fun now => now.enterBlock sl.ix (ixPlus sl.ix off) (repCount sl r count)) }

/-- R128 rep. -/
def execRep (m : Move) (cg : Guard) (off : Word32) (r : Fin 32) (count : BitVec 16) (s : State) :
    Host.Outcome State Fault Refusal := execCT m cg (repTail off r count) s

/-! ### The others -/

def endTail : Tail := { Tail.none with run := fun s r _ => s.endFiring r }

/-- R130 end. -/
def execEndF (m : Move) (cg : Guard) (s : State) : Host.Outcome State Fault Refusal := execCT m cg endTail s

/-- The condition of a park (R131). -/
def parkCond (kind : Fin 4) (x : Word) : ParkCond :=
  match kind.val with
  | 0 => .fe x.toNat
  | 1 => .aw (bits x.toNat 21 0) (bits x.toNat 63 32)
  | 2 => .hurdle (bits x.toNat 3 0)
  | _ => .batch x.toNat

/-- The scratchpad bytes that a park's condition reads. -/
def parkReach : ParkCond → Option (Nat × Nat)
  | .fe ea => some (ea, 1)
  | .aw a _ => some (a, 16)
  | _ => none

/-- Read the condition of a park, which corrects the word that holds it (R140). -/
def State.parkRead (s : State) (r : SRef) (c : ParkCond) : State :=
  match c with
  | .fe ea => s.spCorrect r.vt ea 1
  | .aw a _ => s.spCorrect r.vt (a + 8) 4
  | _ => s

/-- Park until a condition holds; go on at once where it does. -/
def State.parkUntil (s : State) (r : SRef) (c : ParkCond) : State :=
  if s.parkHolds r c then (s.parkRead r c).goOn r else s.parkOn r c

/-- The checks of R131. -/
def parkCheck (c : ParkCond) : Option (Nat × Word) :=
  match c with
  | .fe ea => if inBounds ea 1 then none else some (0x09, word ea)
  | .aw a _ => if !inBounds a 16 then some (0x09, word a) else if a % 16 != 0 then some (0x0A, word a) else none
  | _ => none

def parkTail (kind : Fin 4) (x : Fin 32) : Tail :=
  { stall := fun s r sl => s.parkReadWaits r (parkCond kind (sl.xGet x)) || (match parkReach (parkCond kind (sl.xGet x)) with
      | some (a, n) => s.spOutRange r.vt a n
      | none => false)
    check := fun _ _ sl => parkCheck (parkCond kind (sl.xGet x))
    run := fun s r sl => s.parkUntil r (parkCond kind (sl.xGet x)) }

/-- R131 park. -/
def execPark (m : Move) (cg : Guard) (kind : Fin 4) (x : Fin 32) (s : State) : Host.Outcome State Fault Refusal :=
  execCT m cg (parkTail kind x) s

/-- Does the slot have accesses that have not been performed, which a release waits for (R133): messages too? -/
def State.busyMemory (s : State) (r : SRef) : Bool :=
  !(s.slot r).sb.isEmpty || !(s.slot r).unperformed.isEmpty || s.bankBefore r (s.slot r).nextId
    || s.sendsBefore r (s.slot r).nextId (fun _ => true)

/-- Would the operation of an enabled move wait for words that are not full, the latches standing as the moves write
them? -/
def State.moveWaitsFull (s : State) (r : SRef) (sl : Slot) (m : Move) : Bool :=
  match m.dst with
  | .trig t =>
    let f := (s.slot r).newFlight t m.mod false none
    sl.guard m.g && trigWaitsFull t && !s.feAll r.vt f.ea f.bytes
  | _ => false

def harrTail (m : Move) (h : Fin 16) : Tail :=
  { stall := fun s r sl => s.busyMemory r || s.moveWaitsFull r sl m
    check := fun _ _ _ => none
    run := fun s r _ => ((s.drainAll r).harr r.vt h.val).goOn r }

/-- R132, R133 harr: a release, so the slot's earlier accesses are performed first, those of its own move among them. A
move that waits for a full word keeps the instruction waiting (log 93). -/
def execHarr (m : Move) (cg : Guard) (h : Fin 16) (s : State) : Host.Outcome State Fault Refusal :=
  execCT m cg (harrTail m h) s

def hwaitTail (h : Fin 16) : Tail := { Tail.none with run := fun s r _ => s.parkUntil r (.hurdle h.val) }

/-- R132 hwait. -/
def execHwait (m : Move) (cg : Guard) (h : Fin 16) (s : State) : Host.Outcome State Fault Refusal := execCT m cg (hwaitTail h) s

/-- A USER trap. -/
def State.userTrap (s : State) (r : SRef) (sl : Slot) (code : BitVec 16) : State :=
  s.takeTrap r (sl.trapReq 0x0F (code.setWidth 64) 7) (sl.ix + 1) false none

/-- Is the move the trigger of a store? -/
def moveStores (m : Move) : Bool :=
  match m.dst with
  | .trig t => trigIsStore t
  | _ => false

/-- The trap waits as every entry does, for a store of its own move too. -/
def trapTail (m : Move) (code : BitVec 16) : Tail :=
  { stall := fun s r _ => s.trapWaits r || (moveStores m && s.fieldSends r (s.slot r).nextId)
    check := fun _ _ _ => none
    run := fun s r sl => s.userTrap r sl code }

/-- R134 trap: class C, after the move, to resume at the next IX. -/
def execTrap (m : Move) (cg : Guard) (code : BitVec 16) (s : State) : Host.Outcome State Fault Refusal :=
  execCT m cg (trapTail m code) s

end Sys2Proof.Machine
end

