-- ==== Sys2Proof/Machine/System.lean ====
section
/-!
DEFINITION. The SY instructions (R135 to R141), each with the privilege check of R12, and RETURNING FROM A TRAP: `tret`
reads the frame back and replays (R348).
-/
namespace Sys2Proof.Machine

/-- A privileged instruction of the current slot: PRIVILEGE in a user slot (R85), a stall, an acceptance check, its effect. -/
def execSy (stall : State → SRef → Bool) (check : State → SRef → Option (Nat × Word)) (run : State → SRef → State)
    (s : State) : Host.Outcome State Fault Refusal :=
  let r := s.cur
  if !(s.slot r).sup then .next (s.trapHere r 0x03 0 7)
  else if stall s r then .next s
  else match check s r with
    | some (code, tval) => .next (s.trapHere r code tval 7)
    | none => .next (run s r)

/-- The value of a register of the slot. -/
def regOf (s : State) (r : SRef) (x : Fin 32) : Word := (s.slot r).xGet x

/-- ILLEGAL_MOVE for a value with a nonzero reserved bit at or above bit k (R7). -/
def reservedAbove (x : Fin 32) (k : Nat) (s : State) (r : SRef) : Option (Nat × Word) :=
  let v := regOf s r x
  if v.toNat / 2 ^ k != 0 then some (0x02, v) else none

/-- The stall of R75. -/
def flagsStall (s : State) (r : SRef) : Bool := s.flagsWait r

/-- R135 stclr. -/
def execStclr (xa : Fin 32) (s : State) : Host.Outcome State Fault Refusal :=
  execSy flagsStall (reservedAbove xa 8)
    (fun s r => (s.modVt r.vt (fun t => { t with sticky := t.sticky &&& ~~~((regOf s r xa).setWidth 8) })).goOn r) s

/-- R136 satwr. -/
def execSatwr (xa : Fin 32) (s : State) : Host.Outcome State Fault Refusal :=
  execSy flagsStall (reservedAbove xa 48)
    (fun s r => (s.modVt r.vt (fun t => { t with satcount := (regOf s r xa).toNat % 2 ^ 48 })).goOn r) s

/-- The checks of R137. -/
def rsetCheck (xa : Fin 32) (s : State) (r : SRef) : Option (Nat × Word) :=
  match reservedAbove xa 27 s r with
  | some t => some t
  | none =>
    let v := regOf s r xa
    let base := bits v.toNat 21 0
    let logsz := bits v.toNat 26 22
    if logsz != 0 && (logsz < 6 || 22 < logsz || base % 2 ^ logsz != 0 || spSize < base + 2 ^ logsz) then some (0x0C, v)
    else none

/-- R137 rset. -/
def execRset (xa : Fin 32) (ring : Fin 8) (s : State) : Host.Outcome State Fault Refusal :=
  execSy (fun _ _ => false) (rsetCheck xa)
    (fun s r =>
      let v := (regOf s r xa).toNat
      let g : Ring := ⟨bits v 21 0, bits v 26 22, 0, 0, 0, []⟩
      (s.modVt r.vt (fun t => { t with rings := vset t.rings ring.val g })).goOn r) s

/-- Write a trap register; `%tframe` ignores it (R342). -/
def Slot.mtsr (sl : Slot) (g : TrapReg) (val : Word) : Slot :=
  match g with
  | .tcause => { sl with tcause := val }
  | .tval => { sl with tval := val }
  | .tinst => { sl with tinst := val }
  | .tframe => sl

/-- R138, R342 mtsr. -/
def execMtsr (g : TrapReg) (xa : Fin 32) (s : State) : Host.Outcome State Fault Refusal :=
  execSy (fun _ _ => false) (if g = .tcause then reservedAbove xa 14 else noCheck)
    (fun s r => (s.modSlot r (fun sl => sl.mtsr g (sl.xGet xa))).goOn r) s

/-- Send a stop to halt groups (R361). -/
def State.stopGroups (s : State) (mask : Word) : State :=
  { s with crook := { s.crook with stopped := s.crook.stopped ||| mask } }

/-- R139, R402 halt: the stop of a group that another owns is discarded. The instruction completes first. -/
def execHalt (group : Fin 64) (s : State) : Host.Outcome State Fault Refusal :=
  execSy (fun _ _ => false) noCheck
    (fun s r =>
      let s := s.goOn r
      if s.ownsGroup r.vt.ctx group.val then s.stopGroups (1#64 <<< group.val) else s) s

/-- The groups that a context owns. -/
def State.ownedMask (s : State) (ctx : Nat) : Word :=
  word ((List.range 64).foldl (fun acc g => acc + b2n (s.ownsGroup ctx g) * 2 ^ g) 0)

/-- R139, R402 hgrp. -/
def execHgrp (xa : Fin 32) (s : State) : Host.Outcome State Fault Refusal :=
  execSy (fun _ _ => false) noCheck
    (fun s r => (s.modVt r.vt (fun t => { t with hgroups := regOf s r xa &&& s.ownedMask r.vt.ctx })).goOn r) s

/-- R140: the error-injection enable, then the address checks. -/
def einjCheck (xa : Fin 32) (kind : Fin 6) (s : State) (r : SRef) : Option (Nat × Word) :=
  let a := (regOf s r xa).toNat
  if !bit (s.ctx r.vt.ctx).desc.flags 2 then some (0x03, 0)
  else if kind.val < 2 && !inBounds a 1 then some (0x09, word a)
  else none

/-- Plant a correctable error in a word or line; one with an uncorrectable error keeps it (R140, R283, R295). -/
def plantWeak (marks : Tbl Mark) (k : Nat) : Tbl Mark :=
  if Tbl.find? marks k == some .poison then marks else Tbl.put marks k .correctable

/-- Plant an error (R140); the stored data stay. -/
def State.einj (s : State) (v : VRef) (kind : Fin 6) (a : Nat) : State :=
  match kind.val with
  | 0 => s.modVt v (fun t => { t with marks := plantWeak t.marks (a / 8) })
  | 1 => s.modVt v (fun t => { t with marks := Tbl.put t.marks (a / 8) .poison })
  | 2 => s.inCtx v.ctx (fun c => { c with cmarks := plantWeak c.cmarks (a / 64) })
  | 3 => s.inCtx v.ctx (fun c => { c with cmarks := Tbl.put c.cmarks (a / 64) .poison })
  | 4 => s.modVt v (fun t => { t with mx := { t.mx with
      bpoison := markBits t.mx.bpoison (bsBit (bits a 5 0) (bits a 24 8) 0) 8 } })
  | _ => s.modTile (s.vt v).site (fun t => { t with icache := t.icache.map (fun l =>
      if l.ctx == v.ctx && l.line == a / 5 then { l with data := l.data ^^^ (1#512 <<< (489 + a % 5)) } else l) })

/-- R140 einj. -/
def execEinj (xa : Fin 32) (kind : Fin 6) (s : State) : Host.Outcome State Fault Refusal :=
  execSy (fun _ _ => false) (einjCheck xa kind)
    (fun s r => (s.einj r.vt kind (regOf s r xa).toNat).goOn r) s

/-! ## Returning from a trap (R348) -/

/-- 8 bytes of a frame, and 128. -/
def frameWord (bs : List Byte) (off : Nat) : Word := word (ofBytes ((bs.drop off).take 8))
def frameV (bs : List Byte) (off : Nat) : VWord := BitVec.ofNat 1024 (ofBytes ((bs.drop off).take 128))

/-- The latches of the frame, in the order of R344. -/
def frameLatchFile (bs : List Byte) : LatchFile :=
  let w (k : Nat) : Word := frameWord bs (0x180 + 8 * k)
  let v (k : Nat) : VWord := frameV bs (0x2C0 + 128 * k)
  { alu0 := ⟨w 0, w 1, 0, w 2, 0⟩
    alu1 := ⟨w 3, w 4, 0, w 5, 0⟩
    mul := ⟨w 6, w 7, 0, w 8, w 9⟩
    agu := ⟨w 10, w 11, w 12, w 13, 0⟩
    lsu := ⟨w 14, w 15, w 16, w 17, w 18⟩
    fpu := ⟨w 19, w 20, w 21, w 22, 0⟩
    mxq := ⟨0, 0, 0, w 23, 0⟩
    cpe := ⟨w 24, w 25, w 26, w 27, 0⟩
    msg := ⟨w 28, w 29, w 30, w 31, 0⟩
    pat := ⟨w 32, w 33, 0, w 34, 0⟩
    sys := ⟨w 35, 0, 0, w 36, 0⟩
    vec := ⟨v 0, v 1, v 2, v 3, v 4⟩
    rng := ⟨v 5, v 6, 0, v 7, 0⟩ }

/-- The repeat stack of the frame. -/
def frameReps (bs : List Byte) : List RepEntry :=
  (List.range (min 4 (frameWord bs 0x40).toNat)).map (fun i =>
    { first := (frameWord bs (0x48 + 24 * i)).toNat, last := (frameWord bs (0x50 + 24 * i)).toNat,
      remaining := (frameWord bs (0x58 + 24 * i)).toNat })

/-- The registers, latches and repeat stack of the frame. -/
def Slot.frameRegs (sl : Slot) (bs : List Byte) : Slot :=
  let x := (List.range 15).foldl (fun (x : Vector Word 32) i => vset x (i + 1) (frameWord bs (0xC0 + 8 * i))) sl.x
  let h := (List.range 8).foldl (fun (h : Vector Word 8) i =>
    vset h i (word ((frameWord bs (0x140 + 8 * i)).toNat % 2 ^ 36))) sl.h
  { sl with
    x := x, h := h, p := BitVec.ofNat 8 ((frameWord bs 0x138).toNat % 256 / 2 * 2), lat := frameLatchFile bs,
    rep := frameReps bs, csel := frameWord bs 0x20 }

/-- The slot restored from the frame, without its records. -/
def Slot.restore (sl : Slot) (bs : List Byte) : Slot :=
  let resume := (frameWord bs 0x18).toNat
  let (ts, lq, lq2) := sl.savedSeq.getD (sl.tseq, sl.landedQ, sl.landedQ2)
  { sl.frameRegs bs with
    status := .ready, sup := sl.supBefore, ix := resume, pair2 := false, alone := true, park := none,
    entry := if resume < ixLimit then .fallthrough else .transfer sl.ix, ops := [], saved := [], savedSeq := none,
    tseq := ts, landedQ := lq, landedQ2 := lq2 }

/-- Which engines' results a record may hold: `.q2` only of units whose operations write one (R26). -/
def recLanding (u : FUnit) (c : Rec) : Landing :=
  { q := some (c.a.setWidth 1024), q2 := if u == .mul || u == .vec then some (c.b.setWidth 1024) else none, ev := evNone }

/-- A landed record: its result goes into the latches in trigger order. -/
def Slot.landRec (sl : Slot) (u : FUnit) (t : Trig) (c : Rec) : Slot :=
  sl.writeLanding { (default : Flight) with trig := t, tseq := c.tseq } (recLanding u c)

/-- A replayed operation keeps the release tag of its trigger: on its way to a bank too (R263). -/
def State.retag (s : State) (r : SRef) (id : Nat) (orig : Option Flight) : State :=
  match orig with
  | none => s
  | some o => s.inCtx r.vt.ctx (fun c => { c with bankOps := c.bankOps.map (fun u =>
      if u.rank == r.vt.rank && u.slot == r.slot.val && u.fid == id then { u with tag := o.tag, ix := o.ix } else u) })

/-- Reissue a record from A, B and C, or its operand block: the operation fires as it did, and keeps its trigger's place. -/
def State.reissue (s : State) (r : SRef) (t : Trig) (c : Rec) (opa : VWord) (orig : Option Flight) : State :=
  let u := trigUnit t
  let m := BitVec.ofNat 3 c.mod
  let before := (s.slot r).lat.get u
  let seq := (s.slot r).tseq
  let id := (s.slot r).nextId
  let k := meaningOf t m opa
  let given : Latches 1024 := { before with a := opa, b := c.b.setWidth 1024, c := c.c.setWidth 1024 }
  let s1 := s.modSlot r (fun sl => { sl with lat := sl.lat.put u given })
  if !trigModOk t m || (k.check s1 r).isSome then s
  else
    ((k.fire s1 r).retag r id orig).modSlot r (fun sl => { sl with
      tseq := seq
      lat := sl.lat.put u { (sl.lat.get u) with a := before.a, b := before.b, c := before.c }
      ops := sl.ops.map (fun f => if f.id == id then
        { f with tseq := c.tseq
                 ix := (orig.map Flight.ix).getD f.ix
                 tag := (orig.map Flight.tag).getD f.tag
                 id := if trigIsCommons t then f.id else (orig.map Flight.id).getD f.id } else f) })

/-- One record of the frame: k is its number, and `saved` the operations that were recorded at entry. -/
def State.replayRec (s : State) (r : SRef) (bs : List Byte) (saved : List (Nat × Flight)) (k : Nat) : State :=
  let c := recOfBytes ((bs.drop (0x6C0 + 32 * k)).take 32)
  let orig := (saved.find? (fun p => p.1 == k)).map Prod.snd
  if !c.valid then s
  else match unitOfNum c.unit with
    | none => s
    | some u => match trigOfOffset u c.off with
      | none => s
      | some t =>
        if c.landed then s.modSlot r (fun sl => sl.landRec u t c)
        else if c.reissue || c.pend then
          s.reissue r t c (if trigVecLong t then frameV bs (0xAC0 + 128 * c.opb) else c.a.setWidth 1024) orig
        else match orig with
          | some f => s.modSlot r (fun sl => { sl with ops := sl.ops ++ [{ f with tseq := c.tseq }] })
          | none => s

/-- Must `tret` wait: for what the handler triggered, its stores, and the frame's units? -/
def tretStall (s : State) (r : SRef) : Bool :=
  let sl := s.slot r
  sl.status == .trapped && (!sl.ops.isEmpty || !sl.sb.isEmpty || s.spOutRange r.vt (sl.tframe.toNat % 2 ^ 22) 0xCC0)

/-- R348 tret of a TRAPPED slot. The reading of its frame corrects errors (R140); of a word that holds an uncorrectable one it
takes the stored bytes, for which R283's table names no outcome (log 35). -/
def State.trapReturn (s : State) (r : SRef) : State :=
  let sl := s.slot r
  let s := s.spCorrect r.vt (sl.tframe.toNat % 2 ^ 22) 0xCC0
  let bs := s.spBytes r.vt (sl.tframe.toNat % 2 ^ 22) 0xCC0
  let s := s.modSlot r (fun sl => sl.restore bs)
  let s := (List.range 32).foldl (fun s k => s.replayRec r bs sl.saved k) s
  s.modSlot r (fun sl => { sl with ops := sortBy (fun a b => a.id ≤ b.id) sl.ops })

/-- R141, R348 tret. -/
def execTret (s : State) : Host.Outcome State Fault Refusal :=
  execSy tretStall (fun s r => if (s.slot r).status != .trapped then some (0x01, 0) else none)
    (fun s r => s.trapReturn r) s

end Sys2Proof.Machine
end

