-- ==== Sys2Proof/Machine/Fetch.lean ====
section
/-!
DEFINITION. Fetching and decoding (R76 to R80, R93, R305 to R307), which slot of a tile issues (R338), and the steps of a
slot that no instruction takes: landings (R26), performing (R120, R124), wakes (R131), firing-entry traps (R36) and held
traps (R341).
-/
namespace Sys2Proof.Machine

/-! ## Lines (R76 to R78) -/

def lineWord (l : LineWord) : Nat := bits l.toNat 511 480
def lineInsn (l : LineWord) (i : Nat) : BitVec 96 := BitVec.ofNat 96 (l.toNat / 2 ^ (96 * i))
def lineBtm (l : LineWord) (i : Nat) : Bool := bit (lineWord l) i
def linePair (l : LineWord) (j : Nat) : Bool := j < 4 && bit (lineWord l) (5 + j)

/-- IPAR and LPAR agree (R77, R80). -/
def lineParityOk (l : LineWord) : Bool :=
  (List.range 5).all (fun i => parity 96 (lineInsn l i).toNat == bit (lineWord l) (9 + i))
    && parity 31 (lineWord l) == bit (lineWord l) 31

/-- Format code of slot i (R81). -/
def lineFormat (l : LineWord) (i : Nat) : Nat := bits (lineInsn l i).toNat 95 93

/-- Is slot i in a group that breaks R78? -/
def pairingBad (l : LineWord) (i : Nat) : Bool :=
  let before := i != 0 && linePair l (i - 1)
  let after := linePair l i
  let third := (before && after) || (before && 2 ≤ i && linePair l (i - 2)) || (after && linePair l (i + 1))
  let first := if before then i - 1 else i
  (before || after) && (third || lineFormat l first == 3 || lineFormat l first == 4 || lineFormat l (first + 1) == 4)

/-! ## Reading a line (R80, R305 to R307) -/

/-- A copy in the tile's instruction cache, while it is held and its parity is right. -/
def State.cachedLine (s : State) (site ctx line : Nat) : Option LineWord :=
  match (s.tile site).icache.find? (fun l => l.ctx == ctx && l.line == line) with
  | some l => if lineParityOk l.data && Config.stillCached s.tick then some l.data else none
  | none => none

/-- A bad copy is dropped and logged as a corrected error (R80, R359). -/
def State.dropBadCopy (s : State) (site ctx line : Nat) : State :=
  if (s.tile site).icache.any (fun l => l.ctx == ctx && l.line == line && !lineParityOk l.data) then
    (s.logError 6 0 ctx site (64 * line)).modTile site (fun t => { t with
      icache := t.icache.filter (fun l => !(l.ctx == ctx && l.line == line)) })
  else s

/-- The physical address of a line: by the tile's instruction TLB, or by its fold's unit, which fills it (R306). -/
def State.lineAddr (s : State) (site ctx va : Nat) : State × Except Nat Nat :=
  let hit := (s.tile site).itlb.find? (fun e => e.ctx == ctx && decide (e.va ≤ va) && decide (va < e.va + e.size))
  match hit, Config.stillCached (s.tick + 1) with
  | some e, true => (s, .ok (e.pa + (va - e.va)))
  | _, _ => match s.xlatInsn ctx site va with
    | (s, .error r) => (s, .error r)
    | (s, .ok (pa, p)) =>
      let e : ITlbEntry := { ctx := ctx, va := p.va, pa := pa - (va - p.va), size := p.size }
      (s.modTile site (fun t => { t with itlb := (e :: t.itlb.filter (fun o => !(o.ctx == ctx && o.va == p.va))).take 32 }),
       .ok pa)

/-- The 64 bytes of a line in memory. What a poisoned burst, or another module's memory, holds is open. -/
def State.lineBytes (s : State) (pa : Nat) : LineWord :=
  match s.home pa with
  | .rim a =>
    if s.rimPoisoned a 64 then BitVec.ofNat 512 ((List.range 8).foldl (fun acc i =>
      acc + (openAt s.tick 10 i).toNat * 2 ^ (64 * i)) 0)
    else BitVec.ofNat 512 (s.rimRead a 64)
  | _ => BitVec.ofNat 512 ((List.range 8).foldl (fun acc i => acc + (openAt s.tick 11 (pa + i)).toNat * 2 ^ (64 * i)) 0)

/-- What fetching a line gives: the line, the reason of a FETCH_FAULT, or a fresh line with wrong parity. -/
inductive Fetched where
  | line (l : LineWord)
  | fault (reason : Nat)
  | parity
  deriving DecidableEq, Repr, Inhabited

/-- Fetch a line for a tile. -/
def State.fetchLine (s : State) (site ctx line : Nat) : State × Fetched :=
  match s.cachedLine site ctx line with
  | some l => (s, .line l)
  | none =>
    let s := s.dropBadCopy site ctx line
    match s.lineAddr site ctx (64 * line) with
    | (s, .error r) => (s, .fault r)
    | (s, .ok pa) =>
      let l := s.lineBytes pa
      if lineParityOk l then
        (s.modTile site (fun t => { t with icache :=
          ({ ctx := ctx, line := line, data := l } :: t.icache.filter (fun o => !(o.ctx == ctx && o.line == line))).take 1024 }), .line l)
      else (s, .parity)

/-! ## Decoding (R93) -/

/-- What the slot's next issue is: a trap of class D, or an instruction. -/
inductive Issue where
  | trap (t : TrapReq)
  | insn (i : Instr)
  deriving DecidableEq, Repr, Inhabited

/-- A trap of class D at the slot's instruction; `move` 7 where no move is at fault. -/
def decodeTrap (code : Nat) (tval tinst : Word) (move : Nat) (pair2 : Bool) : Issue :=
  .trap { code := code, tval := tval, tinst := tinst, move := move, pair2 := pair2 }

/-- `%tinst` of BRANCH_TARGET (R340); open where no transfer led out of the range of R76. -/
def State.branchInst (s : State) (sl : Slot) : Word :=
  match sl.entry with
  | .transfer ix => word ix
  | .firing => word (2 ^ 64 - 1)
  | .fallthrough => openAt s.tick 12 0

/-- Does the slot issue the second instruction of a pair (R78, R96)? -/
def Slot.isPair2 (sl : Slot) (l : LineWord) : Bool := !sl.alone && sl.ix % 5 != 0 && linePair l (sl.ix % 5 - 1)

/-- Does a repeat block end on the first of a pair (R129)? -/
def Slot.repOnFirst (sl : Slot) (l : LineWord) : Bool :=
  linePair l (sl.ix % 5) && (match sl.rep.getLast? with
    | some top => top.last == sl.ix
    | none => false)

/-- The checks of R93 from step 3 on, for a line that was read. -/
def State.decodeSlot (s : State) (sl : Slot) (l : LineWord) : Issue :=
  let ix := sl.ix
  let i := ix % 5
  let p2 := sl.isPair2 l
  if sl.entry != .fallthrough && !lineBtm l i then decodeTrap 0x04 (word ix) (s.branchInst sl) 7 p2
  else if bits (lineWord l) 30 16 != 0 || pairingBad l i || sl.repOnFirst l then decodeTrap 0x01 0 (word ix) 7 p2
  else match decodeIn sl.sup s.ident.steppingB1 (lineInsn l i) with
    | .ok i => .insn i
    | .error .illegalInsn => decodeTrap 0x01 0 (word ix) 7 p2
    | .error .privilegeInsn => decodeTrap 0x03 0 (word ix) 7 p2
    | .error (.illegalMove k) => decodeTrap 0x02 0 (word ix) k p2
    | .error (.privilegeMove k) => decodeTrap 0x03 0 (word ix) k p2

/-- Note whether the slot's instruction, from its line, is the first of a pair (R96) or the second of one (R78). -/
def State.notePair (s : State) (r : SRef) (l : LineWord) : State :=
  let sl := s.slot r
  let s := s.modSlot r (fun sl => { sl with pair2 := sl.isPair2 l })
  if linePair l (sl.ix % 5) && !sl.isPair2 l then
    s.modTile (s.vt r.vt).site (fun t => { t with pairNext := some (r.slot.val, sl.ix + 1) })
  else s

/-- Fetch and decode the slot's next instruction: the state after the fetch, and what is to be issued. -/
def State.nextIssue (s : State) (r : SRef) : State × Issue :=
  let sl := s.slot r
  if ixLimit ≤ sl.ix then (s, decodeTrap 0x04 (word sl.ix) (s.branchInst sl) 7 false)
  else
    match s.fetchLine (s.vt r.vt).site r.vt.ctx (sl.ix / 5) with
    | (s, .fault reason) => (s, decodeTrap 0x06 (word sl.ix) (word reason) 7 false)
    | (s, .parity) => (s, decodeTrap 0x05 (word sl.ix) 0 7 false)
    | (s, .line l) => (s.notePair r l, s.decodeSlot sl l)

/-! ## Which slot issues (R338) -/

/-- The moves of an instruction, its immediate write and what follows them. -/
def instrParts (i : Instr) : Option (List (Nat × Move) × (Slot → Slot) × Tail) :=
  let ct (m : Move) (cg : Guard) (t : Tail) : Option (List (Nat × Move) × (Slot → Slot) × Tail) :=
    some ([(3, m)], noImm, guarded cg t)
  match i with
  | .m3 a b c => some ([(0, a), (1, b), (2, c)], noImm, Tail.none)
  | .mh a b imm xd ig => some ([(0, a), (1, b)], mhImm imm xd ig, Tail.none)
  | .mw a imm xd => some ([(0, a)], mwImm imm xd, Tail.none)
  | .br m cg off => ct m cg (brTail off)
  | .call m cg off link => ct m cg (callTail off link)
  | .ret m cg r => ct m cg (jmpTail r)
  | .jmp m cg r => ct m cg (jmpTail r)
  | .calli m cg r link => ct m cg (calliTail r link)
  | .rep m cg off r count => ct m cg (repTail off r count)
  | .endF m cg => ct m cg endTail
  | .park m cg kind x => ct m cg (parkTail kind x)
  | .harr m cg h => ct m cg (harrTail m h)
  | .hwait m cg h => ct m cg (hwaitTail h)
  | .trap m cg code => ct m cg (trapTail m code)
  | _ => none

/-- Would the instruction stall (R25, R75, R124)? The slot is the current one. -/
def instrWaits (i : Instr) (s : State) : Bool :=
  match i with
  | .stclr _ | .satwr _ => (s.slot s.cur).sup && flagsStall s s.cur
  | .tret => (s.slot s.cur).sup && tretStall s s.cur
  | i => match instrParts i with
    | some (mvs, imm, tail) => s.movesWait mvs imm tail
    | none => false

/-- Runs of scratchpad that the slot's instruction reaches: those of its triggers, of a park's condition, and of the frame
of a `tret` (R284). -/
def State.instrReach (s : State) (r : SRef) (i : Instr) : List (Nat × Nat) :=
  match i with
  | .park _ _ kind x => (parkReach (parkCond kind ((s.slot r).xGet x))).toList
  | .tret => [((s.slot r).tframe.toNat % 2 ^ 22, 0xCC0)]
  | _ => []

/-- Those of the triggers of its moves, the latches standing as the moves write them. -/
def State.movesReach (s : State) (r : SRef) (i : Instr) : List (Nat × Nat) :=
  match instrParts i with
  | none => []
  | some (mvs, imm, _) => match s.readMoves r mvs with
    | .ok l => l.flatMap (fun m => match m.trig? with
      | some t => (s.preview r l imm).trigReach r t m.mv.mod
      | none => [])
    | _ => []

/-- Does a held trap wait for the slot's firing to take it (R341)? A TRAPPED slot takes it after `tret`. -/
def State.heldFor (s : State) (r : SRef) : Bool :=
  (s.slot r).status != .trapped && s.moreHeld r

/-- Does the slot stand at an instruction that it may issue now? -/
def State.eligible (s : State) (r : SRef) : Bool :=
  let sl := s.slot r
  if (sl.status == .ready || sl.status == .trapped) && sl.pendTrap.isNone && !s.heldFor r then
    if sl.status == .ready && (s.vt r.vt).isHeld then true
    else match s.nextIssue r with
      | (_, .trap _) => !s.trapWaits r
      | (s', .insn i) => !instrWaits i { s' with cur := r }
  else false

/-- The first slot of a list at or after a pointer, cyclically. -/
def roundRobin (l : List (Fin 8)) (p : Nat) : Option (Fin 8) :=
  (l.find? (fun i => p ≤ i.val)) <|> l.head?

/-- The slot that stands at the second instruction of a pair whose first has just issued (R96): the two are one pick. -/
def State.pairSlot (s : State) (v : VRef) : Option SRef :=
  match (s.tile (s.vt v).site).pairNext with
  | some (i, ix) =>
    let r : SRef := ⟨v, Fin.ofNat 8 i⟩
    if (s.slot r).ix == ix && !(s.slot r).alone && s.eligible r then some r else none
  | none => none

/-- Does a slot of the running vtile stand between the two instructions of a pair of which it may issue the second? An
issued pair completes before a flip or a halt stops the vtile (R328, R362). -/
def State.midPair (s : State) (v : VRef) : Bool := s.active v && (s.pairSlot v).isSome

/-- The slot of the running vtile of a tile that issues now. -/
def State.pickIssue (s : State) (site : Nat) : Option SRef :=
  let t := s.tile site
  match t.bank t.sel with
  | none => none
  | some v =>
    if !s.running v then none
    else if (s.pairSlot v).isSome then s.pairSlot v
    else
      let l := ((List.range 8).map (Fin.ofNat 8)).filter (fun i => s.eligible ⟨v, i⟩)
      let sups := l.filter (fun i => (s.slot ⟨v, i⟩).sup)
      let users := l.filter (fun i => !(s.slot ⟨v, i⟩).sup)
      let pick := if t.forced && !users.isEmpty then roundRobin users t.rrUser
        else (roundRobin sups t.rrSup) <|> roundRobin users t.rrUser
      pick.map (fun i => ⟨v, i⟩)

/-- Is a user slot of the tile's running vtile eligible? -/
def State.userEligible (s : State) (site : Nat) : Bool :=
  let t := s.tile site
  match t.bank t.sel with
  | none => false
  | some v => s.running v && (List.range 8).any (fun i =>
      !(s.slot ⟨v, Fin.ofNat 8 i⟩).sup && s.eligible ⟨v, Fin.ofNat 8 i⟩)

/-- The pointers after slot r issues: the class's pointer, and the run of supervisor issues. The second of a pair that
issues with its first moves neither. -/
def State.issued (s : State) (r : SRef) (userWaits : Bool) : State :=
  let sup := (s.slot r).sup
  if s.pairSlot r.vt == some r then s.modTile (s.vt r.vt).site (fun t => { t with pairNext := none })
  else
    s.modTile (s.vt r.vt).site (fun t => { t with
      rrSup := if sup then (r.slot.val + 1) % 8 else t.rrSup
      rrUser := if sup then t.rrUser else (r.slot.val + 1) % 8
      supRun := if sup && userWaits then t.supRun + 1 else 0
      forced := if sup then t.forced else false
      pairNext := none })

/-- R338 FORCED_USER_ISSUE: after 64 supervisor issues while a user slot was eligible, the next issue is a user slot's. -/
def execForcedUserIssue (site : Nat) (s : State) : Host.Outcome State Fault Refusal :=
  let t := s.tile site
  if 64 ≤ t.supRun && !t.forced && s.userEligible site then
    .next (s.modTile site (fun t => { t with forced := true, supRun := 0 }))
  else .refused (.notEnabled "FORCED_USER_ISSUE")

/-- Issue of the slot: a hold parks it (R63), a decode trap is taken, unless its entry waits, or an instruction is to be executed in the state
given, in which the slot is the current one. -/
def State.beginIssue (s : State) (r : SRef) : State × Option Instr :=
  let sl := s.slot r
  if sl.status == .ready && (s.vt r.vt).isHeld then (s.parkOn r .hold, none)
  else match s.nextIssue r with
    | (s, .trap t) => (if s.trapWaits r then s else s.takeTrap r t sl.ix false none, none)
    | (s, .insn i) => ({ s with cur := r }, some i)

/-! ## Steps of a slot -/

/-- The operation of a unit that lands next: the oldest, once its result is known (R26). -/
def Slot.nextLanding (sl : Slot) (u : FUnit) : Option (Flight × Landing) :=
  match sl.ops.find? (fun f => f.unit == u && !sl.ops.any (fun o => o.unit == u && o.tseq < f.tseq)) with
  | none => none
  | some f => f.res.map (fun l => (f, l))

/-- R26, R74 RESULT_LANDING. What a vtile out of the current bank has in flight is saved with it (R328). -/
def execResultLanding (r : SRef) (u : FUnit) (s : State) : Host.Outcome State Fault Refusal :=
  match (s.slot r).nextLanding u, s.active r.vt with
  | some (f, l), true => .next (s.landFlight r f l)
  | _, _ => .refused (.notEnabled "RESULT_LANDING")

/-- R124, R161, R223 STORE_BUFFER_PERFORM: the head of the store buffer is performed. -/
def execStoreBufferPerform (r : SRef) (s : State) : Host.Outcome State Fault Refusal :=
  match (s.slot r).sb with
  | e :: _ => if s.active r.vt && s.sbReady r e then .next (s.performHead r) else .refused (.notEnabled "STORE_BUFFER_PERFORM")
  | [] => .refused (.notEnabled "STORE_BUFFER_PERFORM")

/-- The first operation of a unit that waits to be performed in the slot itself. -/
def Slot.waiting (sl : Slot) (u : FUnit) : Option Flight :=
  sl.ops.find? (fun f => f.unit == u && !f.performed && !trigIsCommons f.trig && (trigIsMemory f.trig || trigIsBatch f.trig))

/-- May it be performed? -/
def State.waitingReady (s : State) (r : SRef) (f : Flight) : Bool :=
  if trigIsBatch f.trig then s.batchReady r f else s.spReady r f

/-- R120, R125, R220 PENDING_RECORD_PERFORM. -/
def execPendingRecordPerform (r : SRef) (u : FUnit) (s : State) : Host.Outcome State Fault Refusal :=
  match (s.slot r).waiting u with
  | some f =>
    if s.active r.vt && s.waitingReady r f then
      .next (if trigIsBatch f.trig then s.performBatch r f else s.performSp r f)
    else .refused (.notEnabled "PENDING_RECORD_PERFORM")
  | none => .refused (.notEnabled "PENDING_RECORD_PERFORM")

/-- Does the condition of a pending record hold, as the partner of a sliced tile that does not run finds it: it becomes READY, and
performs its operation once it runs (R120, R318)? -/
def State.pendingTrue (s : State) (r : SRef) (c : ParkCond) : Bool :=
  match c with
  | .pending _ => s.parkTrue r
  | _ => false

/-- May a parked slot wake: its condition holds, and its vtile is in its tile and not held, or the hold was what it waited
for (R11, R330)? -/
def State.wakes (s : State) (r : SRef) : Bool :=
  let sl := s.slot r
  match sl.status, sl.park with
  | .parked, some c => (s.vt r.vt).loc == .resident && !(s.vt r.vt).isHeld
      && (s.parkHolds r c || (!s.active r.vt && s.pendingTrue r c))
  | _, _ => false

/-- READY again; the instruction that parked it completes, but a read or a hold is taken up where it stood. -/
def Slot.wake (sl : Slot) : Slot :=
  let sl' : Slot := { sl with status := .ready, park := none }
  match sl.park with
  | some (.pending _) | some .hold | none => sl'
  | _ => sl'.advance

/-- R131 PARK_WAKE. -/
def execParkWake (r : SRef) (s : State) : Host.Outcome State Fault Refusal :=
  if s.wakes r then .next ((match (s.slot r).park with | some c => s.parkRead r c | none => s).modSlot r Slot.wake) else .refused (.notEnabled "PARK_WAKE")

/-- R36, R343 TRAP_ENTRY: a trap of class E, raised at the firing's start, is taken. -/
def execTrapEntry (r : SRef) (s : State) : Host.Outcome State Fault Refusal :=
  match (s.slot r).pendTrap with
  | some t =>
    if s.running r.vt && !s.trapWaits r then
      .next ((s.modSlot r (fun sl => { sl with pendTrap := none })).takeTrap r t (s.slot r).ix false none)
    else .refused (.notEnabled "TRAP_ENTRY")
  | none => .refused (.notEnabled "TRAP_ENTRY")

/-! ## Held traps (R192, R341) -/

/-- Priority of a held trap: MEM_UE, the matrix traps in SEQ order, COMMONS_PEN in acceptance order. -/
def HeldTrap.rank (h : HeldTrap) : Nat :=
  match h.req.code with
  | 0x10 => 0
  | 0x14 | 0x15 => 1
  | _ => 2

def HeldTrap.before (a b : HeldTrap) : Bool := a.rank < b.rank || (a.rank == b.rank && a.order < b.order)

/-- Does another held trap of the same firing come before number k? -/
def Vtile.heldFirst (t : Vtile) (k : Nat) (h : HeldTrap) : Bool :=
  !((List.range t.held.length).zip t.held).any (fun p => p.1 != k && p.2.slot == h.slot && p.2.fser == h.fser
    && (p.2.before h || (!h.before p.2 && p.1 < k)))

/-- The fault message to an ended slot (R192, R341). -/
def State.heldMessage (s : State) (v : VRef) (h : HeldTrap) : State :=
  let inc := (s.vt v).inc
  match h.req.code with
  | 0x14 => s.postSup v.ctx v.rank inc 0 0x25 [h.req.tval, word h.slot]
  | 0x15 => s.postSup v.ctx v.rank inc 0 0x26 [h.req.tval, word h.slot]
  | _ => s.postSup v.ctx v.rank inc 0 0x20 [tcauseWord h.req true false, h.req.tval, h.req.tinst, word h.slot]

/-- R192, R341 HELD_TRAP_DELIVERY of held trap k: to the slot at an instruction boundary, or as a message when its firing
has ended. -/
def execHeldTrapDelivery (v : VRef) (k : Nat) (s : State) : Host.Outcome State Fault Refusal :=
  let t := s.vt v
  match t.held[k]? with
  | none => .refused (.notEnabled "HELD_TRAP_DELIVERY")
  | some h =>
    let r : SRef := ⟨v, Fin.ofNat 8 h.slot⟩
    let sl := s.slot r
    let ended := !sl.runs h.fser
    let drop (s : State) : State := s.modVt v (fun t => { t with held := t.held.take k ++ t.held.drop (k + 1) })
    if ended then .next ((drop s).heldMessage v h)
    else if s.running v && sl.status != .trapped && t.heldFirst k h && !s.trapWaits r then
      .next ((drop s).takeTrap r h.req sl.ix true h.replay)
    else .refused (.notEnabled "HELD_TRAP_DELIVERY")

/-- R223 COMMONS_BANK_PERFORM: an operation is performed at its bank. -/
def execCommonsBankPerform (ctx id : Nat) (s : State) : Host.Outcome State Fault Refusal :=
  match (s.ctx ctx).bankOps.find? (fun u => u.id == id) with
  | some u =>
    if s.bankReady ctx u then .next (s.takeBankOp ctx u)
    else .refused (.notEnabled "COMMONS_BANK_PERFORM")
  | none => .refused (.notEnabled "COMMONS_BANK_PERFORM")

end Sys2Proof.Machine
end

