-- ==== Sys2Proof/Machine/Launch.lean ====
section
/-!
DEFINITION. Launches: the launch queues and their switching (R312 to R314), launch records, flock descriptors and vtile
templates with their validation (R229 to R232), the creation of flocks (R233), launch messages (R234), and the finish of a
flock and of its herd (R235 to R237).
-/
namespace Sys2Proof.Machine

/-- Cycles of a microsecond of the 1.25 GHz clock (R412). -/
def usCycles : Nat := 1250

/-! ## The rank table (R42, R311) -/

/-- Word of a populated rank. COL and ROW are valid when resident; elsewhere they are open. -/
def rankWord (t : Vtile) (tick : Nat) : Word :=
  let st := match t.loc with
    | .resident => 1
    | .absent => 2
    | .transitIn | .transitOut => 3
  let place := if t.loc == .resident then siteCol t.site * 4 + siteRow t.site * 2 ^ 9 + b2n t.slice * 2 ^ 15
    else bits (openAt tick 7 0).toNat 14 2 * 4
  word (st + place + t.inc * 2 ^ 16 + t.flock * 2 ^ 40)

/-- Address of a rank's entry. -/
def State.rankAddr (s : State) (v : VRef) : Nat := s.rimAt ((s.ctx v.ctx).desc.ranktab + 8 * v.rank)

/-- Write the entry of a rank. -/
def State.writeRank (s : State) (v : VRef) : State := s.rimWrite (s.rankAddr v) 8 (rankWord (s.vt v) (s.tick + 2 ^ 24 * v.ctx + v.rank)).toNat

/-- Is the context one from which entries are taken and whose flocks are placed (R310)? -/
def Ctx.placing (c : Ctx) : Bool := c.regs.st == .live && !c.regs.suspending

/-- Vtiles of a context now resident (NRES, R308). -/
def Ctx.nres (c : Ctx) : Nat := (c.vts.filter (fun p => p.2.loc == .resident)).length

/-! ## Reads of the shepherd (R232) -/

/-- A run of a context's data space in pieces of one page each: physical address and length. -/
def State.pieces (s : State) (d : CtxDesc) : (fuel va n : Nat) → Except (Nat × Nat) (List (Nat × Nat))
  | 0, _, _ => .ok []
  | k + 1, va, n =>
    if n = 0 then .ok []
    else
      let m := min n (8192 - va % 8192)
      match s.translate d va false with
      | .error r => .error (r, va)
      | .ok (pa, p1, _) =>
        if (formatRefused d p1.fidx none).isSome then .error (7, va)
        else match s.pieces d k (va + m) (n - m) with
        | .error e => .error e
        | .ok ps => .ok ((pa, m) :: ps)

def State.virtPieces (s : State) (d : CtxDesc) (va n : Nat) : Except (Nat × Nat) (List (Nat × Nat)) :=
  s.pieces d (n / 8192 + 2) va n

/-- The bytes of such pieces as a number. -/
def State.virtRead (s : State) (d : CtxDesc) (va n : Nat) : Except (Nat × Nat) Nat :=
  match s.virtPieces d va n with
  | .error e => .error e
  | .ok ps => .ok (ofBytes (ps.flatMap (fun p => s.homeBytes p.1 p.2)))

/-- Write zero over a range of rim memory. -/
def State.rimZero (s : State) (a n : Nat) : State :=
  { s with rim := { s.rim with
      mem := memReplace s.rim.mem a n []
      poison := s.rim.poison.filter (fun k => !(decide (a ≤ 64 * k) && decide (64 * k + 64 ≤ a + n))) } }

/-! ## Launch records (R229) -/

def lrHerd (r : Nat) : Nat := bits r 15 0
def lrNflock (r : Nat) : Nat := bits r 20 16
def lrPrio (r : Nat) : Nat := bits r 23 21
def lrTarget (r : Nat) : Word := word (bits r 127 64)
def lrPayload (r : Nat) : Word := word (bits r 191 128)
def lrFlocks (r : Nat) : Nat := bits r 255 192
def lrArg (r : Nat) : Word := word (bits r 319 256)

/-- Does the record itself break R229? A FLOCKS that is not aligned to 64 is counted as such a break: R232 does not name it
(log 52). -/
def lrBad (r : Nat) : Bool :=
  bits r 63 24 != 0 || bits r 511 320 != 0 || lrNflock r = 0 || 16 < lrNflock r || lrFlocks r % 64 != 0

/-! ## Flock descriptors and templates (R230, R231) -/

/-- A vtile template (R231). -/
structure Template where
  psBase : Nat
  psSize : Nat
  imgAddr : Nat
  imgLen : Nat
  imgOff : Nat
  ports : List Nat
  pats : List Nat
  hnds : List Nat
  deriving DecidableEq, Repr, Inhabited

/-- What a flock descriptor asks for. -/
structure LaunchPlan where
  fidx : Nat
  retire : Bool
  sport : Nat
  sen : Bool
  x0 : Nat
  y0 : Nat
  w : Nat
  h : Nat
  template : Option Template
  deriving DecidableEq, Repr, Inhabited

/-- The ranks of a plan. -/
def LaunchPlan.ranks (p : LaunchPlan) (vx : Nat) : List Nat :=
  (List.range p.h).flatMap (fun y => (List.range p.w).map (fun x => (p.y0 + y) * vx + p.x0 + x))

/-- The fields of a flock descriptor. -/
def planOf (d : Nat) : LaunchPlan :=
  { fidx := bits d 13 0, retire := bit d 16, sport := bits d 28 24, sen := bit d 31, x0 := bits d 63 32, y0 := bits d 95 64,
    w := bits d 127 96, h := bits d 159 128, template := none }

/-- Does a descriptor break R230, the alignment of its TEMPLATE apart? -/
def planBad (c : CtxDesc) (d : Nat) : Bool :=
  let p := planOf d
  bits d 15 14 != 0 || bits d 23 17 != 0 || bits d 30 29 != 0 || bits d 191 160 != 0 || bits d 511 256 != 0
    || c.vx < p.x0 + p.w || c.vy < p.y0 + p.h || p.w * p.h = 0 || 4096 < p.w * p.h

def templateOf (t : Nat) : Template :=
  { psBase := bits t 31 0, psSize := bits t 63 32, imgAddr := bits t 127 64, imgLen := bits t 159 128,
    imgOff := bits t 191 160
    ports := (List.range 32).map (fun i => bits t (575 + 64 * i) (512 + 64 * i))
    pats := (List.range 32).map (fun i => bits t (2687 + 128 * i) (2560 + 128 * i))
    hnds := (List.range 32).map (fun i => bits t (6719 + 64 * i) (6656 + 64 * i)) }

/-- A new vtile with the template's port store. -/
def Template.base (t : Template) : Vtile := { Vtile.fresh with psBase := t.psBase, psSize := t.psSize }

/-- Does a template break R231, R35, R36 or R209? -/
def templateBad (w : Nat) : Bool :=
  let t := templateOf w
  bits w 511 192 != 0 || t.psBase % 8 != 0 || spSize < t.psBase + t.psSize || spSize < t.imgLen
    || spSize < t.imgOff + t.imgLen || runsMeet t.imgOff t.imgLen t.psBase t.psSize
    || ((List.range 32).zip t.ports).any (fun p => p.2 / 2 ^ 19 != 0 || t.base.portBad p.1 p.2)
    || t.pats.any (fun e => patBad (BitVec.ofNat 128 e))
    || t.hnds.any handlerBad

/-! ## Validation (R232) -/

/-- What validation finds: a plan for each flock; an invalid record with the index, the reason, the address, and the
permanently retired ranks; or an uncorrectable error in the queue entry (R356). -/
inductive LaunchCheck where
  | good (record : Nat) (plans : List LaunchPlan)
  | bad (idx reason va : Nat) (gone : List Nat)
  | ue
  deriving DecidableEq, Repr, Inhabited

/-- Does the flock index exist in the context (R233)? -/
def Ctx.flockExists (c : Ctx) (i : Nat) : Bool :=
  match Tbl.find? c.flocks i with
  | some f => f.st != .nonexistent
  | none => false

/-- Check one descriptor, beside the plans before it. -/
def State.checkPlan (s : State) (ctx va k : Nat) (before : List LaunchPlan) : LaunchCheck ⊕ LaunchPlan :=
  let c := s.ctx ctx
  let d := c.desc
  match s.virtRead d va 64 with
  | .error (r, a) => .inl (.bad k r a [])
  | .ok w =>
    let p := planOf w
    let ranks := p.ranks d.vx
    if planBad d w || before.any (fun q => q.fidx == p.fidx || (q.ranks d.vx).any (fun n => ranks.contains n)) then
      .inl (.bad k 0 0 [])
    else if c.flockExists p.fidx then
      let f := s.flock ctx p.fidx
      if f.x0 = p.x0 && f.y0 = p.y0 && f.w = p.w && f.h = p.h then .inr p else .inl (.bad k 0 0 [])
    else
      let gone := ranks.filter (fun n => c.retired.contains n)
      if bits w 197 192 != 0 || ranks.any (fun n => s.hasVt ⟨ctx, n⟩) || !gone.isEmpty then .inl (.bad k 0 0 gone)
      else
        let tva := bits w 255 192
        match s.virtRead d tva 1088 with
        | .error (r, a) => .inl (.bad k r a [])
        | .ok tw =>
          let t := templateOf tw
          if templateBad tw then .inl (.bad k 0 0 [])
          else match s.virtPieces d t.imgAddr t.imgLen with
            | .error (r, a) => .inl (.bad k r a [])
            | .ok _ => .inr { p with template := some t }

/-- Check the descriptors from number k on. Of several that offend, the first in record order is reported, which R232 leaves open
(log 98). -/
def State.checkPlans (s : State) (ctx record : Nat) : (n k : Nat) → List LaunchPlan → LaunchCheck
  | 0, _, ps => .good record ps
  | n + 1, k, ps =>
    match s.checkPlan ctx (lrFlocks record + 64 * k) k ps with
    | .inl bad => bad
    | .inr p => s.checkPlans ctx record n (k + 1) (ps ++ [p])

/-- The permanently retired ranks that a record's new flocks name, each once, over all its well-formed descriptors. -/
def State.goneRanks (s : State) (ctx record : Nat) : List Nat :=
  let c := s.ctx ctx
  ((List.range (lrNflock record)).flatMap (fun k => match s.virtRead c.desc (lrFlocks record + 64 * k) 64 with
    | .error _ => []
    | .ok w =>
      let p := planOf w
      if planBad c.desc w || c.flockExists p.fidx then []
      else (p.ranks c.desc.vx).filter (fun n => c.retired.contains n))).eraseDups

/-- Read and validate a queue entry. -/
def State.checkLaunch (s : State) (ctx va : Nat) : LaunchCheck :=
  match s.virtPieces (s.ctx ctx).desc va 64 with
  | .error (r, a) => .bad 0xFF r a []
  | .ok ps =>
    if ps.any (fun p => (List.range p.2).any (fun i => s.homeBad p.1 i)) then .ue
    else
      let r := ofBytes (ps.flatMap (fun p => s.homeBytes p.1 p.2))
      if lrBad r then .bad 0xFF 0 0 []
      else match s.checkPlans ctx r (lrNflock r) 0 [] with
        | .bad k reason a _ => .bad k reason a (s.goneRanks ctx r)
        | x => x

/-! ## Creating a flock (R233) -/

/-- Copy pieces of memory to a scratchpad from an address on, as engine writes. -/
def State.copyImage (s : State) (v : VRef) : (at_ : Nat) → List (Nat × Nat) → State
  | _, [] => s
  | a, (pa, n) :: ps =>
    let from_ := s
    (s.landBytes v a (s.homeBytes pa n) (fun i => from_.homeBad pa i)).copyImage v (a + n) ps

/-- A vtile of a template. -/
def Template.vtile (t : Template) (inc fidx : Nat) : Vtile :=
  let b : Vtile := { t.base with inc := inc, flock := fidx, spOut := List.range 512 }
  let ports := (List.range 32).zip t.ports
  let pats := (List.range 32).zip t.pats
  let hnds := (List.range 32).zip t.hnds
  { b with
    ports := ports.foldl (fun v p => vmod v p.1 (fun q => q.setLow p.2)) b.ports
    pats := pats.foldl (fun v p => vset v p.1 (BitVec.ofNat 128 p.2)) b.pats
    hnds := hnds.foldl (fun v p => vset v p.1 (word p.2)) b.hnds }

/-- Populate a rank: absent, its image cleared and the initial image copied. -/
def State.populate (s : State) (t : Template) (fidx : Nat) (v : VRef) : State :=
  let inc := Tbl.getD (s.ctx v.ctx).incs v.rank 0
  let s := s.inCtx v.ctx (fun c => { c with vts := Tbl.put c.vts v.rank (t.vtile inc fidx) })
  let s := s.rimZero (s.image v) 0x410000
  let s := match s.virtPieces (s.ctx v.ctx).desc t.imgAddr t.imgLen with
    | .ok ps => s.copyImage v t.imgOff ps
    | .error _ => s
  s.writeRank v

/-- Send the launch messages of a flock (R234). -/
def State.sendLaunch (s : State) (ctx i : Nat) : State :=
  let f := s.flock ctx i
  if !f.run || !f.sen || f.launchSent then s
  else
    ((s.members ctx i).foldl (fun s v =>
      s.post ctx (kind5 (destWord v.rank f.sport (s.vt v).inc) 0xFFFFFF 0 0 0x12 [f.arg, word (f.herd + i * 2 ^ 16)] none
        false)) s).modFlock ctx i (fun f => { f with launchSent := true })

/-- Start the launch of a plan: a new flock is created, and the flock is ready unless it is resident (R233, R320). -/
def State.startPlan (s : State) (ctx record : Nat) (p : LaunchPlan) : State :=
  let old := s.flock ctx p.fidx
  let s := match p.template with
    | none => s
    | some t =>
      let fresh : Flock := { Flock.blank with x0 := p.x0, y0 := p.y0, w := p.w, h := p.h, st := .waiting, nfin := old.nfin,
                                              phase := old.phase }
      let s := s.inCtx ctx (fun c => { c with flocks := Tbl.put c.flocks p.fidx fresh })
      (p.ranks (s.ctx ctx).desc.vx).foldl (fun s k => s.populate t p.fidx ⟨ctx, k⟩) s
  let now := s.regs.cycle
  let s := s.modFlock ctx p.fidx (fun f =>
    { f with run := true, finArm := false, herd := lrHerd record, retire := p.retire, sen := p.sen, sport := p.sport,
             arg := lrArg record, prio := lrPrio record, launchSent := false,
             ready := f.ready || f.st != .resident
             waitStart := if f.ready || f.st == .resident then f.waitStart else now })
  let s := s.writeFlock ctx p.fidx
  if (s.flock ctx p.fidx).st == .resident then s.sendLaunch ctx p.fidx else s

/-! ## Queues (R312 to R314) -/

def State.queue (s : State) (ctx : Nat) (q : Nat) : LaunchQueue := vget (s.ctx ctx).queues q LaunchQueue.blank
def State.modQueue (s : State) (ctx q : Nat) (f : LaunchQueue → LaunchQueue) : State :=
  s.inCtx ctx (fun c => { c with queues := vmod c.queues q f })

/-- Nothing untaken and no herd running. -/
def LaunchQueue.idle (q : LaunchQueue) : Bool := q.tail == q.head && q.head == q.prog

/-- Is a queue active: enabled, and not switched out? -/
def LaunchQueue.active (q : LaunchQueue) : Bool := q.en && !q.swout

/-- The active queues of the module: context, number, queue. -/
def State.activeQueues (s : State) : List (Nat × Nat × LaunchQueue) :=
  s.ctxs.flatMap (fun p =>
    (((List.range 16).map (fun q => (p.1, q, vget p.2.queues q LaunchQueue.blank))).filter (fun x => x.2.2.active)))

/-- The idle active queue that has been idle longest. -/
def State.idlest (s : State) : Option (Nat × Nat × LaunchQueue) :=
  (s.activeQueues.filter (fun x => x.2.2.idle)).foldl (fun best x =>
    match best with
    | some b => if x.2.2.idleSince < b.2.2.idleSince then some x else best
    | none => some x) none

/-- Make room for one active queue: 512 are the most (R314). None when no queue can be switched out. -/
def State.queueSlot (s : State) : Option State :=
  if s.activeQueues.length < 512 then some s
  else match s.idlest with
    | some (c, q, _) => some (s.modQueue c q (fun x => { x with swout := true }))
    | none => none

/-- R314 QUEUE_SWITCH_IN: a switched-out queue with an untaken entry of a live context becomes active. -/
def execQueueSwitchIn (ctx : Nat) (q : Fin 16) (s : State) : Host.Outcome State Fault Refusal :=
  let x := s.queue ctx q.val
  if (s.ctx ctx).regs.st == .live && !(s.ctx ctx).regs.suspending && x.en && x.swout && x.want then
    match s.queueSlot with
    | some s => .next (s.modQueue ctx q.val (fun x => { x with swout := false, want := false }))
    | none => .refused (.notEnabled "QUEUE_SWITCH_IN")
  else .refused (.notEnabled "QUEUE_SWITCH_IN")

/-- PROG advances over leading entries whose herds have completed, in order (R313). -/
def State.advanceProg (s : State) (ctx q : Nat) : (fuel : Nat) → State
  | 0 => s
  | k + 1 =>
    let x := s.queue ctx q
    if (s.ctx ctx).herds.any (fun h => h.queue == q && h.entry == x.prog && h.done) then
      ((s.inCtx ctx (fun c => { c with herds := c.herds.filter (fun h => !(h.queue == q && h.entry == x.prog)) })).modQueue ctx q
        (fun x => { x with prog := (x.prog + 1) % 2 ^ 32, idleSince := s.regs.cycle })).advanceProg ctx q k
    else s

/-- The entry HEAD of a queue is consumed: its herd joins the context's. -/
def State.consumeEntry (s : State) (ctx q : Nat) (h : Herd) : State :=
  ((s.inCtx ctx (fun c => { c with herds := c.herds ++ [h] })).modQueue ctx q
    (fun x => { x with head := (x.head + 1) % 2 ^ 32 })).advanceProg ctx q 1

/-- Report an invalid record (R232). -/
def State.launchFault (s : State) (ctx va idx reason badVa : Nat) (gone : List Nat) : State :=
  (gone.foldl (fun s k => s.postSup ctx 0xFFFFFF 0 0 0x14 [word k]) s).postSup ctx 0xFFFFFF 0 0 0x13
    [word va, word (idx + reason * 2 ^ 8), word badVa]

/-- May the shepherd take from the queue: the context is live, the queue enabled, active and not empty (R313)? -/
def State.takesFrom (s : State) (ctx q : Nat) : Bool :=
  let c := s.ctx ctx
  let x := s.queue ctx q
  c.placing && x.active && x.tail != x.head && !s.recovery.cutting

/-- Virtual address of the entry HEAD. -/
def LaunchQueue.headAddr (x : LaunchQueue) : Nat := x.base + 64 * (x.head % 2 ^ x.logn)

/-- R313 LAUNCH_QUEUE_TAKE. A valid herd that names a flock still running another launch waits. -/
def execLaunchQueueTake (ctx : Nat) (q : Fin 16) (s : State) : Host.Outcome State Fault Refusal :=
  let x := s.queue ctx q.val
  if s.takesFrom ctx q.val then
    match s.checkLaunch ctx x.headAddr with
    | .ue => .next (s.startTeardown ctx 0x11)
    | .bad idx reason va gone =>
      .next ((s.launchFault ctx x.headAddr idx reason va gone).consumeEntry ctx q.val
        { num := 0, queue := q.val, entry := x.head, target := 0, payload := 0, todo := [], agg := 0, done := true })
    | .good r plans =>
      if plans.any (fun p => (s.ctx ctx).flockExists p.fidx && (s.flock ctx p.fidx).run) then
        .refused (.notEnabled "LAUNCH_QUEUE_TAKE")
      else
        .next ((plans.foldl (fun s p => s.startPlan ctx r p) s).consumeEntry ctx q.val
          { num := lrHerd r, queue := q.val, entry := x.head, target := lrTarget r, payload := lrPayload r,
            todo := plans.map LaunchPlan.fidx, agg := 0, done := false })
  else .refused (.notEnabled "LAUNCH_QUEUE_TAKE")

/-! ## Finishing (R235 to R237) -/

/-- R235: is the vtile quiescent? -/
def Vtile.quiescent (t : Vtile) : Bool :=
  t.slots.toList.all (fun sl => sl.status == .free && sl.sb.isEmpty) && t.fq.isEmpty && t.copies.all (fun c => c.finished)
    && t.mx.queue.isEmpty && t.outq.isEmpty

/-- Take a vtile off its tile. -/
def State.clearSite (s : State) (v : VRef) : State :=
  { s with tiles := s.tiles.map (fun p => (p.1, { p.2 with
      bank0 := if p.2.bank0 == some v then none else p.2.bank0
      bank1 := if p.2.bank1 == some v then none else p.2.bank1 })) }

/-- Does the vtile lie, or has it its place, in a bank of its tile? -/
def State.onTile (s : State) (v : VRef) : Bool :=
  let t := s.vt v
  (s.tile t.site).bank t.bank == some v

/-- A suspension ends when no vtile is resident or in transit other than halted ones (R310). -/
def State.suspendCheck (s : State) (ctx : Nat) : State :=
  let c := s.ctx ctx
  if c.regs.suspending && c.vts.all (fun p => p.2.halted || (p.2.loc == .absent && !s.onTile ⟨ctx, p.1⟩)) then
    s.inCtx ctx (fun c => { c with regs := { c.regs with st := .suspended, busy := false, suspending := false } })
  else s

/-- Retire a member (R236, R41): what its ports and its pen still hold is dead-lettered, and its rank is unpopulated. The
windowed messages of a port, which have no visible order, follow its visible ones in entry order, and a KIND 5 message that a
context port holds goes to the fault log as R248 has it for one that cannot be delivered (both log 98). Its
table entry is written zero, INC and FLOCK with it: what they hold in an unpopulated entry the spec does not say (DESIGN
CHOICE, log 95). Its rotation count is kept for the tags of its releases (R276). -/
def State.retire (s : State) (v : VRef) : State :=
  let t := s.vt v
  let left := t.ports.toList.flatMap (fun p => p.visible ++ p.windowed) ++ t.pen
  let s := left.foldl (fun s m => s.undeliverable v.ctx m 0x02) s
  let s := s.clearSite v
  let s := s.inCtx v.ctx (fun c => { c with
    vts := Tbl.del c.vts v.rank
    oldRots := Tbl.put c.oldRots (rotKey v.rank t.inc) t.rot
    incs := if t.inc < 0xFFFFFF then Tbl.put c.incs v.rank (t.inc + 1) else c.incs
    retired := if t.inc < 0xFFFFFF then c.retired else setIns c.retired v.rank })
  s.rimWrite (s.rankAddr v) 8 0

/-- A flock of a herd has finished with its aggregate (R237). -/
def State.herdStep (s : State) (ctx i : Nat) (agg : BitVec 8) : State :=
  match (s.ctx ctx).herds.find? (fun h => h.todo.contains i) with
  | none => s
  | some h =>
    let h' : Herd := { h with todo := h.todo.filter (fun j => j != i), agg := h.agg ||| agg }
    let h' := { h' with done := h'.todo.isEmpty }
    let s := s.inCtx ctx (fun c => { c with herds := c.herds.map (fun x => if x.queue == h.queue && x.entry == h.entry then h' else x) })
    if h'.done then
      (s.post ctx (kind5 h'.target 0xFFFFFF 0 0 0x11 [h'.payload, word (h'.num + h'.agg.toNat * 2 ^ 16)] none false)).advanceProg
        ctx h.queue (s.ctx ctx).herds.length
    else s

/-- May the launch of a flock finish: every member is quiescent (R235)? -/
def State.finishes (s : State) (ctx i : Nat) : Bool :=
  let f := s.flock ctx i
  f.run && f.finArm && (s.members ctx i).all (fun v => s.hasVt v && (s.vt v).quiescent)

/-- What the members of a flock still have at the banks is performed, in the order of acceptance: the finish is a release that
covers it (R275; log 96). -/
def State.performMembers (s : State) (ctx i : Nat) : State :=
  ((s.ctx ctx).bankOps.filter (fun u => (s.members ctx i).any (fun v => v.rank == u.rank))).foldl (fun s u => s.takeBankOp ctx u) s

/-- R235, R236, R237 FLOCK_FINISH. -/
def execFlockFinish (ctx fidx : Nat) (s : State) : Host.Outcome State Fault Refusal :=
  if (s.ctx ctx).regs.st != .tearing && s.finishes ctx fidx then
    let f := s.flock ctx fidx
    let s := s.performMembers ctx fidx
    let agg := s.aggregate ctx fidx
    let s := s.modFlock ctx fidx (fun f => { f with run := false, finArm := false, nfin := (f.nfin + 1) % 2 ^ 64, sticky := agg })
    let s :=
      if f.retire then
        let s := (s.members ctx fidx).foldl (fun s v => s.retire v) s
        let s := s.modFlock ctx fidx (fun f => { f with st := .nonexistent, ready := false, victim := false, binds := [] })
        s.rimWriteBytes (s.flockAddr ctx fidx) (s.flock ctx fidx).record
      else s.writeFlock ctx fidx
    .next ((s.herdStep ctx fidx agg).suspendCheck ctx)
  else .refused (.notEnabled "FLOCK_FINISH")

end Sys2Proof.Machine
end

