-- ==== Sys2Proof/Machine/Shepherd.lean ====
section
/-!
DEFINITION. The shepherd's choices: which tiles a flock may take (R315 to R317), the order of ready flocks and their aging
(R320), victims (R321), and drift (R337). What the spec leaves to the shepherd is a free choice (log 8).
-/
namespace Sys2Proof.Machine

/-! ## Tiles -/

/-- Is a tile site live (R1, R396)? -/
def State.live (s : State) (n : Nat) : Bool := n < 5376 && !setHas s.ident.deadTiles n

/-- Is the tile held for another flock (R321)? -/
def State.heldOff (s : State) (ctx i n : Nat) : Bool :=
  match Tbl.find? s.regs.held n with
  | some o => o != (ctx, i)
  | none => false

/-- Is the vtile of a bank one that rotates out, its flip still to come? -/
def State.onItsWay (s : State) (v : VRef) : Bool :=
  let t := s.vt v
  t.loc == .resident && !t.slice && (s.flock v.ctx t.flock).st == .goingOut

/-- How many vtiles of a flock the tile can take (R316): two, time-sliced, where both banks are empty, or would be once the
flocks `more` have left; one into the shadow bank of a vtile that rotates out (R325, R326). -/
def State.tileCap (s : State) (ctx i : Nat) (more : List (Nat × Nat)) (n : Nat) : Nat :=
  let t := s.tile n
  let there := t.bank0.toList ++ t.bank1.toList
  if !s.live n || s.heldOff ctx i n then 0
  else if there.all (fun v => more.contains (v.ctx, (s.vt v).flock)) then 2
  else match t.bank t.sel, t.bank (!t.sel) with
    | some v, none => if s.onItsWay v then 1 else 0
    | _, _ => 0

/-- The tile sites of a fold site (R289). -/
def sitesOfFold (f : Nat) : List Nat := (List.range 16).map (fun t => (f % 24 * 4 + t % 4) + 96 * (f / 24 * 4 + t / 4))

/-- Field site of a fold site. -/
def fieldOfFold (f : Nat) : Nat := f % 24 / 2 + 12 * (f / 24 / 2)

/-! ## Bindings (R315) -/

/-- Virtual fold and virtual field of a rank on a grid VX wide. -/
def vfoldOf (vx rank : Nat) : Nat × Nat := (rank % vx / 4, rank / vx / 4)
def vfieldOfFold (p : Nat × Nat) : Nat × Nat := (p.1 / 2, p.2 / 2)

/-- The fold sites that virtual folds of a context are bound to: while a rank of one has a place. -/
def State.bindings (s : State) (ctx : Nat) : List ((Nat × Nat) × Nat) :=
  let c := s.ctx ctx
  (c.vts.filter (fun p => s.onTile ⟨ctx, p.1⟩)).map (fun p => (vfoldOf c.desc.vx p.1, foldOfSite p.2.site))

/-! ## Fitting a flock (R315 to R317) -/

/-- The virtual folds of a flock with their member ranks. -/
def foldGroups (vx : Nat) (ranks : List Nat) : List ((Nat × Nat) × List Nat) :=
  ((ranks.map (vfoldOf vx)).eraseDups).map (fun g => (g, ranks.filter (fun k => vfoldOf vx k == g)))

/-- Choose a fold for each virtual fold in turn, going back where a choice leaves none for a later one. `order` is the
order in which folds are tried for a virtual fold, `room` the number of members that the free tiles of a fold take. -/
def bindFolds (order : Nat × Nat → List Nat) (room : Nat → Nat) (bound : List ((Nat × Nat) × Nat)) :
    List ((Nat × Nat) × List Nat) → List (Nat × List Nat) → Option (List (Nat × List Nat))
  | [], acc => some acc
  | (g, ranks) :: rest, acc =>
    let taken (f : Nat) : Nat := ((acc.filter (fun p => p.1 == f)).map (fun p => p.2.length)).sum
    let cands := match bound.find? (fun (b : (Nat × Nat) × Nat) => b.1 == g) with
      | some b => [b.2]
      | none => match bound.find? (fun (b : (Nat × Nat) × Nat) => vfieldOfFold b.1 == vfieldOfFold g) with
        | some b => (order g).filter (fun f => fieldOfFold f == fieldOfFold b.2)
        | none => order g
    (cands.filter (fun f => taken f + ranks.length ≤ room f)).findSome? (fun f =>
      bindFolds order room ((g, f) :: bound) rest (acc ++ [(f, ranks)]))

/-- Members on the free tiles of one fold: alone while there are tiles enough, the excess in pairs on the last tiles
(R316): site, rank, second of a pair. -/
def seatFold (tiles ranks : List Nat) : List (Nat × Nat × Bool) :=
  let pairs := ranks.length - tiles.length
  let alone := ranks.length - 2 * pairs
  let first := tiles.take alone
  let last := (tiles.drop alone).take pairs
  (first.zip ranks).map (fun p => (p.1, p.2, false))
    ++ (((List.range pairs).zip last).flatMap (fun p =>
      [(p.2, ranks.getD (alone + 2 * p.1) 0, false), (p.2, ranks.getD (alone + 2 * p.1 + 1) 0, true)]))

/-- Order in which folds are tried: lowest site with DET = 1; least last-known load with DRIFT = 1; else a free order. -/
def State.foldOrder (s : State) (ctx : Nat) : List Nat :=
  let fl := (s.ctx ctx).desc.flags
  let all := List.range 336
  if bit fl 0 then all
  else if bit fl 1 then sortBy (fun a b => (s.fold a).load ≤ (s.fold b).load) all
  else
    let k := Config.placementChoice s.tick % 336
    all.drop k ++ all.take k

/-- The tiles of a fold for a number of members: whole tiles alone where they are enough, else shadow banks too, those
before the tiles that may hold a pair. -/
def foldTiles (cap : Nat → Nat) (f n : Nat) : List Nat :=
  let whole := (sitesOfFold f).filter (fun t => cap t == 2)
  if n ≤ whole.length then whole else (sitesOfFold f).filter (fun t => cap t == 1) ++ whole

/-- The places of the members of a flock, if it fits in tiles that take as many vtiles as `cap` says. -/
def State.fitIn (s : State) (ctx i : Nat) (order : Nat × Nat → List Nat) (bound : List ((Nat × Nat) × Nat))
    (cap : Nat → Nat) : Option (List (Nat × Nat × Bool)) :=
  let vx := (s.ctx ctx).desc.vx
  let ranks := (s.flock ctx i).members vx
  match bindFolds order (fun f => ((sitesOfFold f).map cap).sum) bound (foldGroups vx ranks) [] with
  | none => none
  | some folds =>
    some ((folds.map Prod.fst).eraseDups.flatMap (fun f =>
      let mine := (folds.filter (fun p => p.1 == f)).flatMap Prod.snd
      seatFold (foldTiles cap f mine.length) mine))

/-- The folds to which a migration takes a flock (R337): none for a virtual fold that it does not name. -/
def Flock.bindOrder (f : Flock) (g : Nat × Nat) : List Nat := (f.binds.filter (fun b => b.1 == g)).map Prod.snd

/-- The places of a flock in the tiles that are free, and those of the flocks `more`: at the folds that a migration chose
where it fits there. -/
def State.fit (s : State) (ctx i : Nat) (more : List (Nat × Nat)) : Option (List (Nat × Nat × Bool)) :=
  let free (order : Nat × Nat → List Nat) : Option (List (Nat × Nat × Bool)) :=
    s.fitIn ctx i order (s.bindings ctx) (s.tileCap ctx i more)
  if (s.flock ctx i).binds.isEmpty then free (fun _ => s.foldOrder ctx)
  else (free (s.flock ctx i).bindOrder) <|> free (fun _ => s.foldOrder ctx)

/-! ## Ready flocks (R320) -/

/-- AGEQ in cycles. -/
def ModRegs.ageCycles (r : ModRegs) : Nat := max 1 r.ageq * usCycles

/-- QUANT in cycles. -/
def ModRegs.quantCycles (r : ModRegs) : Nat := r.quant * usCycles

/-- Effective level. -/
def State.level (s : State) (f : Flock) : Nat := f.prio - (s.regs.cycle - f.waitStart) / s.regs.ageCycles

/-- Ready flocks of contexts that are live. -/
def State.readyFlocks (s : State) : List (Nat × Nat × Flock) :=
  s.ctxs.flatMap (fun p =>
    if p.2.placing then
      (p.2.flocks.filter (fun q => q.2.ready && q.2.st != .resident)).map (fun q => (p.1, q.1, q.2))
    else [])

/-- The order of R320; contexts and flocks are listed by rising numbers. -/
def State.readyOrder (s : State) : List (Nat × Nat × Flock) :=
  sortBy (fun a b => s.level a.2.2 < s.level b.2.2
    || (s.level a.2.2 == s.level b.2.2 && a.2.2.waitStart ≤ b.2.2.waitStart)) s.readyFlocks

/-- Steps of aging that a flock has waited. -/
def State.agingDue (s : State) (f : Flock) : Nat := (s.regs.cycle - f.waitStart) / s.regs.ageCycles

/-- R321: urgent, at e = 0 after a wait of 8 × AGEQ. -/
def State.urgent (s : State) (f : Flock) : Bool := decide (f.prio ≤ s.agingDue f) && decide (8 ≤ s.agingDue f)

/-- The earliest urgent flock. -/
def State.firstUrgent (s : State) : Option (Nat × Nat × Flock) :=
  (sortBy (fun a b => a.2.2.waitStart ≤ b.2.2.waitStart) (s.readyFlocks.filter (fun x => s.urgent x.2.2))).head?

/-- Is a flock out of its tiles, so that it may be placed? -/
def Flock.out (f : Flock) : Bool := f.st == .waiting || f.st == .rotatedOut

/-! ## Victims (R321) -/

/-- Has a flock a halted member? -/
def State.flockHalted (s : State) (ctx i : Nat) : Bool := (s.members ctx i).any (fun v => (s.vt v).halted)

/-- Resident flocks that may be victims: no halted member, not of a context that is being torn down. -/
def State.residents (s : State) : List (Nat × Nat × Flock) :=
  s.ctxs.flatMap (fun p =>
    if p.2.regs.st == .tearing then []
    else
      (p.2.flocks.filter (fun q => q.2.st == .resident && !q.2.victim && !s.flockHalted p.1 q.1)).map
        (fun q => (p.1, q.1, q.2)))

/-- Victims of the first kind: finished and quiescent. -/
def State.idleVictims (s : State) : List (Nat × Nat × Flock) :=
  s.residents.filter (fun x => !x.2.2.run && (s.members x.1 x.2.1).all (fun v => (s.vt v).quiescent))

/-- Victims of the second kind: resident for QUANT, highest PRIO first, then most recently placed. -/
def State.longVictims (s : State) : List (Nat × Nat × Flock) :=
  sortBy (fun a b => b.2.2.prio < a.2.2.prio || (a.2.2.prio == b.2.2.prio && b.2.2.placedSeq ≤ a.2.2.placedSeq))
    (s.residents.filter (fun x => s.regs.quantCycles ≤ s.regs.cycle - x.2.2.residentSince
      && !s.idleVictims.any (fun y => y.1 == x.1 && y.2.1 == x.2.1)))

/-- Victims that a ready flock may take, in order. -/
def State.victimsFor (s : State) (f : Flock) : List (Nat × Nat × Flock) :=
  s.idleVictims ++ (if s.urgent f then s.longVictims else s.longVictims.filter (fun x => f.prio < x.2.2.prio))

/-- Sites of a flock's members. -/
def State.sitesOf (s : State) (x : Nat × Nat × Flock) : List Nat := (s.members x.1 x.2.1).map (fun v => (s.vt v).site)

/-- The flocks on their way out. -/
def State.leaving (s : State) : List (Nat × Nat) :=
  s.ctxs.flatMap (fun p => (p.2.flocks.filter (fun q => q.2.victim || q.2.st == .goingOut)).map (fun q => (p.1, q.1)))

/-- Would the flock fit if the flocks given had left? -/
def State.fitsWith (s : State) (ctx i : Nat) (more : List (Nat × Nat)) : Bool := (s.fit ctx i more).isSome

/-- Context and index of a listed flock. -/
def flockId (x : Nat × Nat × Flock) : Nat × Nat := (x.1, x.2.1)

/-- Of a run of victims with which the flock fits, beside those that leave, those without which it would not: the last ones
that do not help are left out first. -/
def State.helpful (s : State) (ctx i : Nat) (leaving : List (Nat × Nat)) (vs : List (Nat × Nat × Flock)) :
    List (Nat × Nat × Flock) :=
  vs.reverse.foldl (fun l x =>
    let rest := l.filter (fun y => flockId y != flockId x)
    if s.fitsWith ctx i (leaving ++ rest.map flockId) then rest else l) vs

/-- The shortest run of victims with which the flock fits, beside those that leave, without those that do not help. -/
def State.victimRun (s : State) (ctx i : Nat) (leaving : List (Nat × Nat)) (vs : List (Nat × Nat × Flock)) :
    Option (List (Nat × Nat × Flock)) :=
  (((List.range vs.length).map (fun k => vs.take (k + 1))).find? (fun t => s.fitsWith ctx i (leaving ++ t.map flockId))).map
    (s.helpful ctx i leaving)

/-- Resident flocks that may be victims later, once QUANT has passed. -/
def State.laterVictims (s : State) (f : Flock) : List (Nat × Nat × Flock) :=
  s.residents.filter (fun x => !(s.victimsFor f).any (fun y => flockId y == flockId x))

/-- Mark victims; tiles that the victims of an urgent flock free are held for it. -/
def State.takeVictims (s : State) (ctx i : Nat) (hold : Bool) (vs : List (Nat × Nat × Flock)) : State :=
  vs.foldl (fun s x =>
    let sites := s.sitesOf x
    let s := s.modFlock x.1 x.2.1 (fun f => { f with victim := true })
    if hold then
      { s with regs := { s.regs with held := sites.foldl (fun t n => Tbl.put t n (ctx, i)) s.regs.held } }
    else s) s

/-- R321: what makes room for a flock that does not fit: for the earliest urgent flock the next victim that helps it, as long as
those already leaving are not enough, of those that may leave now or later; or, while no urgent flock waits and nothing is
leaving, the victims of another. -/
def State.makeRoom (s : State) (ctx i : Nat) : Option State :=
  let f := s.flock ctx i
  let now := s.victimsFor f
  match s.firstUrgent with
  | some u =>
    if u.1 = ctx && u.2.1 = i && f.out && !s.fitsWith ctx i s.leaving then
      match s.victimRun ctx i s.leaving (now ++ s.laterVictims f) with
      | some vs => (vs.find? (fun x => now.any (fun y => flockId y == flockId x))).map (fun x => s.takeVictims ctx i true [x])
      | none => none
    else none
  | none =>
    if f.out && s.leaving.isEmpty then (s.victimRun ctx i [] now).map (fun vs => s.takeVictims ctx i false vs)
    else none

/-! ## PLACEMENT (R315 to R320) -/

/-- Seat the members: a member takes the bank that is not selected, the second of a pair the other. -/
def State.seat (s : State) (ctx i : Nat) (seats : List (Nat × Nat × Bool)) : State :=
  let s := seats.foldl (fun s p =>
    let v : VRef := ⟨ctx, p.2.1⟩
    let b := if p.2.2 then (s.tile p.1).sel else !(s.tile p.1).sel
    let pair := decide (1 < (seats.filter (fun q => q.1 == p.1)).length)
    (s.modVt v (fun t => { t with site := p.1, bank := b, slice := pair })).modTile p.1
      (fun t => if b then { t with bank1 := some v } else { t with bank0 := some v })) s
  let s := s.modFlock ctx i (fun f => { f with st := .goingIn, ready := false, aging := 0, binds := [] })
  { s with regs := { s.regs with held := s.regs.held.filter (fun p => p.2 != (ctx, i)) } }

/-- The first ready flock that fits in the free tiles, with its places; one that migrates comes first (R337). -/
def State.firstFit (s : State) : Option (Nat × Nat × List (Nat × Nat × Bool)) :=
  let (moving, others) := s.readyOrder.partition (fun x => !x.2.2.binds.isEmpty)
  (moving ++ others).findSome? (fun x =>
    if x.2.2.out then (s.fit x.1 x.2.1 []).map (fun seats => (x.1, x.2.1, seats)) else none)

/-- The first ready flock for which room can be made. -/
def State.firstRoom (s : State) : Option (Nat × Nat × State) :=
  s.readyOrder.findSome? (fun x => (s.makeRoom x.1 x.2.1).map (fun s' => (x.1, x.2.1, s')))

/-- Every unit of the vtile lies in its image. -/
def Vtile.allOut (t : Vtile) : Bool :=
  (List.range 512).all (fun k => setHas t.spOut k)
    && (List.range 64).all (fun col => (List.range 16).all (fun u => t.mx.bhwm ≤ 8192 * u || setHas t.mx.bsOut (16 * col + u)))

/-- The partner of a sliced pair that does not run and whose units are all in its image, with a tile of its fold that has
become free (R318). -/
def State.splitPair (s : State) (ctx i : Nat) : Option (VRef × Nat) :=
  if (s.flock ctx i).st != .resident || (s.flock ctx i).victim then none
  else (s.members ctx i).findSome? (fun v =>
    let t := s.vt v
    if t.slice && t.loc == .resident && !t.halted && !s.active v && t.allOut then
      ((sitesOfFold (foldOfSite t.site)).find? (fun n => s.tileCap ctx i [] n == 2)).map (fun n => (v, n))
    else none)

/-- Move a partner to a free tile: it leaves its bank, and goes into the shadow bank of the other tile, where a flip brings
it in. Neither is time-sliced any longer. -/
def State.splitTo (s : State) (v : VRef) (n : Nat) : State :=
  let old := (s.vt v).site
  let s := s.clearSite v
  let mate := (s.tile old).bank (s.tile old).sel
  let s := match mate with
    | some u => (s.modVt u (fun t => { t with slice := false })).writeRank u
    | none => s
  let b := !(s.tile n).sel
  let s := (s.modVt v (fun t => { t with loc := .transitIn, site := n, bank := b, slice := false, rot := t.rot + 1 })).modTile n
    (fun t => if b then { t with bank1 := some v } else { t with bank0 := some v })
  s.writeRank v

/-- R320 PLACEMENT: the first flock that fits is placed; where none fits, victims make room (R321). Of a resident flock, a
sliced pair is split (R318). -/
def execPlacement (ctx fidx : Nat) (s : State) : Host.Outcome State Fault Refusal :=
  match s.splitPair ctx fidx with
  | some (v, n) => .next (s.splitTo v n)
  | none =>
  match s.firstFit with
  | some (c, i, seats) => if c = ctx && i = fidx then .next (s.seat ctx fidx seats) else .refused (.notEnabled "PLACEMENT")
  | none => match s.firstRoom with
    | some (c, i, s') => if c = ctx && i = fidx then .next s' else .refused (.notEnabled "PLACEMENT")
    | none => .refused (.notEnabled "PLACEMENT")

/-! ## AGING_STEP (R320, R321) -/

/-- R320 AGING_STEP: a waiting flock's level falls by the steps that have passed. Whether it is urgent follows from its wait
(R321). -/
def execAgingStep (ctx fidx : Nat) (s : State) : Host.Outcome State Fault Refusal :=
  let f := s.flock ctx fidx
  if (s.ctx ctx).placing && f.ready && f.st != .resident && f.aging < s.agingDue f then
    let n := s.agingDue f
    .next (s.modFlock ctx fidx (fun f => { f with aging := n }))
  else .refused (.notEnabled "AGING_STEP")

/-! ## Drift (R337) -/

/-- The queued matches and READY slots of the resident vtile of a bank. -/
def State.bankLoad (s : State) (v : Option VRef) : Nat :=
  match v with
  | some v =>
    let t := s.vt v
    if t.loc == .resident then t.fq.length + (t.slots.toList.filter (fun sl => sl.status == .ready)).length else 0
  | none => 0

/-- The load of a fold: queued matches and READY slots over its live tiles, both vtiles of a sliced one. -/
def State.foldLoad (s : State) (f : Nat) : Nat :=
  (((sitesOfFold f).filter s.live).map (fun n => s.bankLoad (s.tile n).bank0 + s.bankLoad (s.tile n).bank1)).sum

/-- The neighbouring folds of a fold. -/
def foldNeighbours (f : Nat) : List Nat :=
  (if f % 24 = 0 then [] else [f - 1]) ++ (if f % 24 = 23 then [] else [f + 1])
    ++ (if f < 24 then [] else [f - 24]) ++ (if 312 ≤ f then [] else [f + 24])

/-- The neighbours of a fold whose last-known load lies below its own by more than DTHR. -/
def State.lighter (s : State) (f : Nat) : List Nat :=
  (foldNeighbours f).filter (fun g => Tbl.getD (s.fold f).known g 0 + s.regs.dthr < (s.fold f).load)

/-- Where a flock would migrate: for each of its virtual folds a lighter neighbour of the fold it is bound to, to which R315
allows the binding and whose free tiles take the members; with their tiles. No other flock's rank may bind the virtual
fold. -/
def State.migrationTo (s : State) (ctx i : Nat) : Option (List (Nat × Nat × Bool)) :=
  let vx := (s.ctx ctx).desc.vx
  let ms := s.members ctx i
  let others := ((s.ctx ctx).vts.filter (fun p => s.onTile ⟨ctx, p.1⟩ && !ms.any (fun v => v.rank == p.1))).map
    (fun p => (vfoldOf vx p.1, foldOfSite p.2.site))
  let now (g : Nat × Nat) : Nat := ((ms.find? (fun v => vfoldOf vx v.rank == g)).map (fun v => foldOfSite (s.vt v).site)).getD 0
  if ms.any (fun v => others.any (fun b => b.1 == vfoldOf vx v.rank)) then none
  else s.fitIn ctx i (fun g => s.lighter (now g)) others (s.tileCap ctx i [])

/-- Is a member of a flock halted or trapped? Such a flock does not migrate (R337). -/
def State.memberStopped (s : State) (ctx i : Nat) : Bool :=
  (s.members ctx i).any (fun v => (s.vt v).halted || (s.vt v).slots.toList.any (fun sl => sl.status == .trapped))

/-- May a resident flock migrate, its place apart (R337)? -/
def State.mayMigrate (s : State) (ctx : Nat) (q : Nat × Flock) : Bool :=
  let d := (s.ctx ctx).desc
  bit d.flags 1 && !bit d.flags 0 && (s.ctx ctx).placing && q.2.st == .resident && !q.2.victim
    && s.regs.quantCycles ≤ s.regs.cycle - q.2.residentSince
    && (q.2.lastMigration = 0 || 2 ^ 20 ≤ s.regs.cycle - q.2.lastMigration)
    && !s.memberStopped ctx q.1
    && (s.migrationTo ctx q.1).isSome

/-- Rotate a flock out to places that are held for it, where it is placed again at once. -/
def State.migrate (s : State) (ctx i : Nat) : State :=
  let now := s.regs.cycle
  let seats := (s.migrationTo ctx i).getD []
  let vx := (s.ctx ctx).desc.vx
  let binds := (seats.map (fun p => (vfoldOf vx p.2.1, foldOfSite p.1))).eraseDups
  let s := s.modFlock ctx i (fun f => { f with victim := true, ready := true, waitStart := now, lastMigration := now,
                                               binds := binds })
  { s with regs := { s.regs with held := seats.foldl (fun t p => Tbl.put t p.1 (ctx, i)) s.regs.held } }

/-- R337 DRIFT_LOAD_EXCHANGE: each fold sends its load to its neighbours, and a flock that may migrate does so or not, as
the shepherd chooses. -/
def execDriftLoadExchange (s : State) : Host.Outcome State Fault Refusal :=
  if 4096 ≤ s.regs.cycle - s.regs.lastDrift then
    let loads := (List.range 336).map s.foldLoad
    let s := (List.range 336).foldl (fun s f => s.modFold f (fun x =>
      { x with load := loads.getD f 0
               known := (foldNeighbours f).foldl (fun t g => Tbl.put t g (loads.getD g 0)) x.known })) s
    let s := { s with regs := { s.regs with lastDrift := s.regs.cycle } }
    let all := s.ctxs.flatMap (fun p => (p.2.flocks.filter (fun q => s.mayMigrate p.1 q)).map (fun q => (p.1, q.1)))
    .next (match all with
      | [] => s
      | x :: _ => if Config.placementChoice s.tick % 2 = 1 then s.migrate x.1 x.2 else s)
  else .refused (.notEnabled "DRIFT_LOAD_EXCHANGE")

end Sys2Proof.Machine
end

