-- ==== Sys2Proof/Machine/Rotate.lean ====
section
/-!
DEFINITION. Rotation (R323 to R336): the flip of a tile (R328, R329), rotations in and out (R325, R326), the exchange of
scratchpad and B-store units (R284, R197), the image of a vtile's state (R370), and time slicing (R318, R331).
-/
namespace Sys2Proof.Machine

/-! ## The image of a vtile's state (R370) -/

/-- State word of a slot. A park that R131 gives no kind for has an open one. -/
def Slot.stateWord (sl : Slot) (open_ : Nat) : Nat :=
  let st := match sl.status with
    | .free => 0 | .ready => 1 | .parked => 2 | .trapped => 3
  let kind := match sl.park with
    | none => 0
    | some (.fe _) => 0 | some (.aw _ _) => 1 | some (.hurdle _) => 2 | some (.batch _) => 3
    | some (.pending _) | some .hold => open_ % 8
  st + b2n sl.sup * 4 + kind * 8

/-- Park operand of a slot. -/
def Slot.parkWord (sl : Slot) (open_ : Nat) : Nat :=
  match sl.park with
  | none => 0
  | some (.fe ea) => ea
  | some (.aw a g) => a + g * 2 ^ 32
  | some (.hurdle h) => h
  | some (.batch n) => n
  | some (.pending _) | some .hold => open_

/-- A piece of the image of a vtile's state: its offset, its bytes, and what a vtile takes from such bytes. -/
structure ImgPiece where
  off : Nat
  bytes : List Byte
  load : List Byte → Vtile → Vtile

/-- Word i of a piece. -/
def pieceWord (bs : List Byte) (i : Nat) : Word := frameWord bs (8 * i)

/-- What a slot takes from its state word, next IX and park operand (R370). -/
def Slot.loadState (sl : Slot) (bs : List Byte) : Slot :=
  let w := (pieceWord bs 0).toNat
  let st : SlotStatus := match bits w 1 0 with
    | 0 => .free | 1 => .ready | 2 => .parked
    | _ => .trapped
  { sl with
    status := st, sup := bit w 2, ix := (pieceWord bs 1).toNat
    park := if st == .parked then some (parkCond (Fin.ofNat 4 (bits w 5 3)) (pieceWord bs 2)) else none }

/-- The frame of slot s as its image holds it (R344). -/
def Slot.imageFrame (sl : Slot) : List Byte :=
  frameBytes sl sl.tcause sl.tval sl.tinst sl.ix (recsOf 0 (sl.ops.take 32))

/-- A piece of a slot. -/
def slotPiece (s off : Nat) (bytes : List Byte) (load : List Byte → Slot → Slot) : ImgPiece :=
  { off := 0x2000 * s + off, bytes := bytes
    load := fun bs t => { t with slots := vmod t.slots s (load bs) } }

/-- The pieces of slot s, its frame apart. -/
def Slot.imagePieces (sl : Slot) (s : Nat) : List ImgPiece :=
  let open_ := (openAt 0 8 s).toNat
  [slotPiece s 0x1000 ((sl.x.toList.drop 16).flatMap (fun x => toBytes 8 x.toNat)) (fun bs sl =>
     { sl with x := (List.range 16).foldl (fun (x : Vector Word 32) i => vset x (16 + i) (pieceWord bs i)) sl.x }),
   slotPiece s 0x1080 (toBytes 8 (sl.stateWord open_) ++ toBytes 8 sl.ix ++ toBytes 8 (sl.parkWord open_)) (fun bs sl => sl.loadState bs),
   slotPiece s 0x1800 (sl.v.toList.flatMap (fun v => toBytes 128 v.toNat)) (fun bs sl =>
     { sl with v := (List.range 16).foldl (fun (v : Vector VWord 16) i => vset v i (frameV bs (128 * i))) sl.v })]

/-- A ring's 16 bytes, RES in its last word (R38, R219). -/
def Ring.bytes (g : Ring) : List Byte :=
  toBytes 8 (g.base + g.logsz * 2 ^ 22 + g.fill * 2 ^ 32) ++ toBytes 8 (g.drain + g.res * 2 ^ 32)

/-- A ring that takes its fields from two words. -/
def Ring.load (g : Ring) (a b : Nat) : Ring :=
  { g with base := bits a 21 0, logsz := bits a 26 22, fill := bits a 63 32, drain := bits b 31 0, res := bits b 63 32 }

/-- A stream record's 16 bytes (R163). -/
def RngRec.bytes (g : RngRec) : List Byte := toBytes 8 (g.sid + b2n g.exh * 2 ^ 32) ++ toBytes 8 g.ctr

/-- The row-major accumulator image. -/
def Matrix.accBytes (m : Matrix) : List Byte :=
  (List.range 4096).flatMap (fun k => toBytes 4 (Tbl.getD m.acc k 0).toNat)

/-- Accumulators from that image. -/
def Matrix.loadAcc (m : Matrix) (bs : List Byte) : Matrix :=
  { m with acc := (List.range 4096).foldl (fun t k => Tbl.putSparse t k 0 (BitVec.ofNat 32 (ofBytes ((bs.drop (4 * k)).take 4)))) [] }

/-- A vector of k elements taken from a piece. -/
def loadAll {α : Type} {n : Nat} (v : Vector α n) (f : Nat → α → α) : Vector α n :=
  (List.range n).foldl (fun v i => vmod v i (f i)) v

/-- The words at 0x1_0500. `%rank` and `%batch` follow from other state: what the image holds of them is not read. -/
def Vtile.imageWords (t : Vtile) (rank : Nat) : List Nat :=
  [t.sticky.toNat, t.satcount, (destWord rank 0 t.inc).toNat, t.batchWord.toNat, t.mseq, t.oseq, t.cseq, t.defer.toNat]
    ++ t.rptr.toList ++ [t.tfbase, t.hgroups.toNat, t.pend.toNat, t.holdWord.toNat]

/-- What a vtile takes from them. -/
def Vtile.loadWords (t : Vtile) (bs : List Byte) : Vtile :=
  let w (i : Nat) : Nat := (pieceWord bs i).toNat
  { t with
    sticky := BitVec.ofNat 8 (w 0), satcount := w 1 % 2 ^ 48, mseq := w 4 % 2 ^ 32, oseq := w 5 % 2 ^ 32, cseq := w 6 % 2 ^ 32
    defer := BitVec.ofNat 32 (w 7), rptr := loadAll t.rptr (fun i _ => w (8 + i) % 32)
    tfbase := w 16 % 2 ^ 22, hgroups := word (w 17), pend := BitVec.ofNat 16 (w 18), hold := ⟨bit (w 19) 1, bit (w 19) 2⟩ }

/-- The pieces of the vtile state at 0x041_0000 whose layout the rules give, the slots' frames apart (R370). -/
def Vtile.imagePieces (t : Vtile) (rank : Nat) : List ImgPiece :=
  (((List.range 8).zip t.slots.toList).flatMap (fun p => p.2.imagePieces p.1)) ++
  [⟨0x10000, t.ports.toList.flatMap (fun p => toBytes 8 p.desc.toNat),
      fun bs t => { t with ports := loadAll t.ports (fun i p => p.setLow (pieceWord bs i).toNat) }⟩,
   ⟨0x10100, t.pats.toList.flatMap (fun e => toBytes 16 e.toNat),
      fun bs t => { t with pats := loadAll t.pats (fun i _ => BitVec.ofNat 128 (ofBytes ((bs.drop (16 * i)).take 16))) }⟩,
   ⟨0x10300, t.hnds.toList.flatMap (fun h => toBytes 8 h.toNat),
      fun bs t => { t with hnds := loadAll t.hnds (fun i _ => pieceWord bs i) }⟩,
   ⟨0x10400, t.rings.toList.flatMap Ring.bytes,
      fun bs t => { t with rings := loadAll t.rings (fun i g => g.load (pieceWord bs (2 * i)).toNat (pieceWord bs (2 * i + 1)).toNat) }⟩,
   ⟨0x10500, (t.imageWords rank).flatMap (toBytes 8), fun bs t => t.loadWords bs⟩,
   ⟨0x12000, t.rng.toList.flatMap RngRec.bytes,
      fun bs t => { t with rng := loadAll t.rng (fun i _ =>
        let a := (pieceWord bs (2 * i)).toNat
        ⟨bits a 31 0, bit a 32, (pieceWord bs (2 * i + 1)).toNat⟩) }⟩,
   ⟨0x14000, t.mx.accBytes, fun bs t => { t with mx := t.mx.loadAcc bs }⟩]

/-- k open words: of items whose own rule gives no layout. -/
def openWords (tick k : Nat) : List Byte := (List.range k).flatMap (fun i => toBytes 8 (openAt tick 9 i).toNat)

/-- Where a slot's frame lies in the image. -/
def frameOff (s : Nat) : Nat := 0x2000 * s

/-- Write the state of a vtile to its image. The firing queue, the matrix state other than the accumulators, and the copies have
no layout in the spec: their bytes are open (log 97). -/
def State.writeImage (s : State) (v : VRef) : State :=
  let t := s.vt v
  let at_ := s.image v + 0x410000
  let tick := s.tick + 2 ^ 40 * v.ctx + 2 ^ 12 * v.rank
  let pieces := ((List.range 8).map (fun i => (frameOff i, (s.slot ⟨v, Fin.ofNat 8 i⟩).imageFrame)))
    ++ (t.imagePieces v.rank).map (fun p => (p.off, p.bytes))
    ++ [(0x11000, openWords tick 512), (0x13000, openWords (tick + 512) 512), (0x20000, openWords (tick + 1024) 512)]
  pieces.foldl (fun s p => s.rimWriteBytes (at_ + p.1) p.2) (s.rimZero at_ 0xF0000)

/-- After a step: the image of every absent vtile that the step changed, or populated, holds it as it now is (R324, R353,
R370). -/
def State.syncImages (s before : State) : State :=
  s.ctxs.foldl (fun s p => p.2.vts.foldl (fun s q =>
    if q.2.loc == .absent && Tbl.find? (before.ctx p.1).vts q.1 != some q.2 then s.writeImage ⟨p.1, q.1⟩ else s) s) s

/-- Bytes of rim memory. -/
def State.rimBytes (s : State) (a n : Nat) : List Byte := (List.range n).map (fun i => memGet s.rim.mem (a + i))

/-- A slot's frame is read back: where its bytes are not those that the slot gave, its registers and its records are taken
from them, the records as at a trap return (R348). -/
def State.loadFrame (s : State) (r : SRef) (bs : List Byte) : State :=
  let sl := s.slot r
  if bs == sl.imageFrame then s
  else
    let saved := (List.range 32).zip (sl.ops.take 32)
    let s := s.modSlot r (fun sl => { sl.frameRegs bs with
      tcause := frameWord bs 0, tval := frameWord bs 8, tinst := frameWord bs 16, ops := sl.ops.drop 32 })
    let s := (List.range 32).foldl (fun s k => s.replayRec r bs saved k) s
    s.modSlot r (fun sl => { sl with ops := sortBy (fun a b => a.id ≤ b.id) sl.ops })

/-- The preload of a bank from the image (R325): what the image holds as it was written leaves the vtile as it was (R324),
and what has been written over it since is taken. An uncorrectable error met in a slot's part loses the slot, and elsewhere
starts the context's teardown (R356, R359). -/
def State.preload (s : State) (v : VRef) : State :=
  let at_ := s.image v + 0x410000
  let bad (off n : Nat) : Bool := s.rimPoisoned (at_ + off) n
  let lost := (List.range 8).filter (fun i => bad (frameOff i) 0x2000)
  let s := lost.foldl (fun s i => (s.logError 4 1 v.ctx (s.vt v).site i).slotLost ⟨v, Fin.ofNat 8 i⟩) s
  let s := if bad 0x10000 0xE0000 then (s.logError 5 1 v.ctx (s.vt v).site 0).startTeardown v.ctx 0x14 else s
  let kept := (List.range 8).filter (fun i => !lost.contains i)
  let from_ := s
  let s := kept.foldl (fun s i => s.loadFrame ⟨v, Fin.ofNat 8 i⟩ (from_.rimBytes (at_ + frameOff i) 0xCC0)) s
  ((from_.vt v).imagePieces v.rank).foldl (fun s p =>
    let bs := from_.rimBytes (at_ + p.off) p.bytes.length
    if bs == p.bytes || lost.any (fun i => p.off / 0x2000 == i) then s else s.modVt v (p.load bs)) s

/-! ## The ends of rotations -/

/-- The flock's members are all resident: it is resident, its record is written, and its launch messages go out (R234,
R325). -/
def State.flockIn (s : State) (ctx i : Nat) : State :=
  if (s.flock ctx i).st == .goingIn && (s.members ctx i).all (fun v => (s.vt v).loc == .resident) then
    let seq := s.regs.placeSeq + 1
    let now := s.regs.cycle
    let s := { s with regs := { s.regs with placeSeq := seq } }
    let s := s.modFlock ctx i (fun f => { f with st := .resident, residentSince := now, placedSeq := seq, ready := false,
                                                 victim := false })
    (s.writeFlock ctx i).sendLaunch ctx i
  else s

/-- A member with every unit spilled is absent, and its bank is free; a flock with every member absent is rotated out
(R326, R320). -/
def State.outCheck (s : State) (v : VRef) : State :=
  let t := s.vt v
  if t.loc == .transitOut && t.allOut then
    let s := s.modVt v (fun t => { t with loc := .absent })
    let s := (s.writeRank v).clearSite v
    let i := t.flock
    let now := s.regs.cycle
    let s := if (s.flock v.ctx i).st == .goingOut && (s.members v.ctx i).all (fun u => (s.vt u).loc == .absent) then
        (s.modFlock v.ctx i (fun f =>
          { f with st := .rotatedOut, everOut := true, faultRaised := false, ready := f.ready || f.run, aging := 0,
                   waitStart := if f.ready then f.waitStart else now })).writeFlock v.ctx i
      else s
    s.suspendCheck v.ctx
  else s

/-! ## Units that an access needs at once (R284) -/

/-- The records of a vtile's slots that are due are written, where their units lie in the tile (R345). -/
def State.landRecords (s : State) (v : VRef) : State :=
  (List.range 8).foldl (fun s i => s.landSaved v ⟨v, Fin.ofNat 8 i⟩ 32) s

/-- The running vtile's units of a range come into the tile before an access that a flip makes to them (R284): records that
waited for them are written, and the partner whose units they displaced may be out with them. -/
def State.bringUnits (s : State) (v : VRef) (a n : Nat) : State :=
  if s.landWaits v a n then
    let u := s.partner v
    let s := (s.bringIn v a n).landRecords v
    match u with
    | some u => s.outCheck u
    | none => s
  else s

/-! ## Saving a bank (R328) -/

/-- One slot at a flip: its stores leave the buffer, into units that are brought in for them, and short operations land; what
is long or waits stays in flight. The stop acts as a fence of scope WAFER, which tags the firing's later writes (R276). -/
def State.saveSlot (s : State) (r : SRef) : State :=
  let s := (s.slot r).sb.foldl (fun s e => if e.kind == .cSt then s else s.bringUnits r.vt e.addr e.n) s
  let s := s.drainStores r
  let s := s.performDrained r (s.slot r).unperformed
  let s := s.landAll r ((s.slot r).ops.filter (fun f => f.res.isSome && !trigAbandoned f.trig))
  let s := s.modSlot r (fun sl => { sl with stopId := sl.nextId })
  if (s.slot r).status == .free then s
  else
    let tag := s.makeTag r 3
    s.modSlot r (fun sl => { sl with relTag := some tag })

/-- The slots of a vtile that leaves the current bank. Its accesses after the stop wait for those before it that are still to be
performed (R276). -/
def State.saveBank (s : State) (v : VRef) : State :=
  let s := (List.range 8).foldl (fun s i => s.saveSlot ⟨v, Fin.ofNat 8 i⟩) s
  let n := (s.ctx v.ctx).nextId
  s.modVt v (fun t => { t with stopAt := n })

/-! ## ROTATION_IN and ROTATION_OUT (R325, R326) -/

/-- R325 ROTATION_IN: the entries go to in transit, the shadow banks are preloaded, and the flip is broadcast. -/
def execRotationIn (ctx fidx : Nat) (s : State) : Host.Outcome State Fault Refusal :=
  let ms := s.members ctx fidx
  if (s.flock ctx fidx).st == .goingIn && ms.all (fun v => (s.vt v).loc == .absent) then
    .next (ms.foldl (fun s v => ((s.preload v).modVt v (fun t => { t with loc := .transitIn })).writeRank v) s)
  else .refused (.notEnabled "ROTATION_IN")

/-- Is the flock to be rotated out: a victim, or a flock of a context that is being suspended (R310, R321)? One that migrates is
not while a member is trapped (R337). -/
def State.rotatesOut (s : State) (ctx i : Nat) : Bool :=
  let f := s.flock ctx i
  f.st == .resident && !s.flockHalted ctx i && ((f.victim && (f.binds.isEmpty || !s.memberStopped ctx i)) || (s.ctx ctx).regs.suspending || (s.ctx ctx).regs.st == .suspended)

/-- R326 ROTATION_OUT: the flip is broadcast. -/
def execRotationOut (ctx fidx : Nat) (s : State) : Host.Outcome State Fault Refusal :=
  if s.rotatesOut ctx fidx then
    .next (s.modFlock ctx fidx (fun f => { f with st := .goingOut, victim := false }))
  else .refused (.notEnabled "ROTATION_OUT")

/-! ## FLIP (R327 to R330) -/

/-- Is the vtile of a bank on its way out: still resident, of a flock that rotates out? -/
def State.leaves (s : State) (v : Option VRef) : Option VRef :=
  match v with
  | some v => if (s.vt v).loc == .resident && (s.flock v.ctx (s.vt v).flock).st == .goingOut then some v else none
  | none => none

/-- Is the vtile of a bank on its way in? -/
def State.enters (s : State) (v : Option VRef) : Option VRef :=
  match v with
  | some v => if (s.vt v).loc == .transitIn then some v else none
  | none => none

/-- A vtile stops: its bank is saved, its rank entry is in transit, and it has rotated once more (R276). When the last
member of the flock has stopped, the flock's holding sets settle (R226). -/
def State.leave (s : State) (v : VRef) : State :=
  let s := (s.saveBank v).modVt v (fun t => { t with loc := .transitOut, rot := t.rot + 1 })
  let s := s.writeRank v
  let ms := s.members v.ctx (s.vt v).flock
  let s := if ms.all (fun u => (s.vt u).loc != .resident) then
      s.settleRanks v.ctx (fun k => ms.any (fun u => u.rank == k)) none
    else s
  s.outCheck v

/-- A vtile starts: its entry is resident, and its parked messages re-enter (R328, R335), into a port store whose units are
brought in for them (R284). -/
def State.enter (s : State) (v : VRef) : State :=
  let s := (s.modVt v (fun t => { t with loc := .resident })).writeRank v
  let s := if (s.vt v).halted then s
    else
      let s := if (s.vt v).pen.isEmpty then s else s.bringUnits v (s.vt v).psBase (s.vt v).psSize
      (s.reinject v (fun _ => true)).evalDefer v
  s.flockIn v.ctx (s.vt v).flock

/-- Does the other bank hold a vtile that has its place there and is still to be preloaded? The flip waits for it, so that its
bank is the new one (R325, R326). -/
def State.awaits (s : State) (v : Option VRef) : Bool :=
  match v with
  | some v => (s.vt v).loc == .absent
  | none => false

/-- May the incoming vtile take the place of the current one: no vtile runs there, or it leaves, or it is the partner? -/
def State.makesWay (s : State) (cur : Option VRef) : Bool :=
  match cur with
  | some v => (s.leaves cur).isSome || (s.vt v).loc != .resident || (s.vt v).slice
  | none => true

/-- R328 FLIP: the bank select changes; the outgoing vtile, with its partner of a sliced pair, stops, and the incoming one
starts. An issued pair completes first. -/
def execFlip (site : Nat) (s : State) : Host.Outcome State Fault Refusal :=
  let t := s.tile site
  let cur := t.bank t.sel
  let other := t.bank (!t.sel)
  let inn := if s.makesWay cur then s.enters other else none
  let outs := (s.leaves cur).toList ++ (if inn.isNone then (s.leaves other).toList else [])
  if (outs.isEmpty && inn.isNone) || (!outs.isEmpty && s.awaits other) || (match cur with
      | some v => s.midPair v
      | none => false) then .refused (.notEnabled "FLIP")
  else
    let s := if outs.isEmpty then (match cur with
        | some v => if (s.vt v).loc == .resident then s.saveBank v else s
        | none => s)
      else s
    let s := outs.foldl (fun s v => s.leave v) s
    let now := s.regs.cycle
    let s := s.modTile site (fun t => { t with sel := !t.sel, lastSwitch := now, idleSince := now, pairNext := none })
    .next (match inn with
      | some v => s.enter v
      | none => s)

/-! ## Units (R284, R197) -/

/-- May units of the vtile be spilled: it has stopped, or it is the partner that does not run? -/
def State.spills (s : State) (v : VRef) : Bool :=
  let t := s.vt v
  t.loc == .transitOut || (t.loc == .resident && t.slice && !s.active v)

/-- May a unit of a kind be restored: the vtile runs, the unit is in its image, and its partner's unit at the offset is
not in the tile? -/
def State.restores (s : State) (v : VRef) (out : Vtile → Bool) : Bool :=
  s.active v && out (s.vt v) && (match s.partner v with
    | some u => out (s.vt u)
    | none => true)

/-- Bring a B-store unit back: its lines are written anew. The elements of a poisoned burst of the image carry its error (R283, R286). -/
def State.restoreBs (s : State) (v : VRef) (col u : Nat) : State :=
  let lo := bsKey col (8192 * u)
  let img := s.image v + 0x800000
  let cells := memShift (memRange s.rim.mem (img + lo) 8192) (img + lo) lo
  let bad := (List.range 128).filter (fun b => s.rimPoisoned (img + lo + 64 * b) 64)
  s.bsWriteLines v ((List.range 128).map (fun b => bsLine col (8192 * u + 64 * b))) (fun s => s.modVt v (fun t => { t with mx := { t.mx with
    bstore := memReplace t.mx.bstore lo 8192 cells
    bsOut := setDel t.mx.bsOut (16 * col + u)
    bpoison := bad.foldl (fun m b => markLine m (lo + 64 * b)) t.mx.bpoison } }))

/-- May the unit be spilled (R284, R326)? -/
def State.maySpill (s : State) (v : VRef) (u : UnitId) : Bool :=
  let t := s.vt v
  s.spills v && (match u with
    | .sp n => n < 512 && !setHas t.spOut n
    | .bs col n => col < 64 && n < 16 && 8192 * n < t.mx.bhwm && !t.mx.bsUnitOut col (8192 * n))

/-! ### The order of restoring: what an access waits for, then ascending offsets (R284, R197) -/

/-- Does an instruction of the current slot raise a trap that it does not stall at? -/
def instrTraps (i : Instr) (s : State) : Bool :=
  match instrParts i with
  | some (mvs, imm, tail) => s.movesTrap mvs imm tail
  | none => !(s.slot s.cur).sup

/-- Runs that a slot's entry into a trap waits for: its frame, and its buffered stores. -/
def State.trapDemands (s : State) (r : SRef) : List (Nat × Nat) :=
  ((s.vt r.vt).frameAddr r, 0xCC0) :: (s.slot r).sb.map (fun e => (e.addr, if e.kind == .cSt then 0 else e.n))

/-- Runs of scratchpad that a slot's accesses wait for: those not performed, the head of its buffer, its instruction, its entry
into a trap, and records of its frame that are due. -/
def State.slotDemands (s : State) (r : SRef) : List (Nat × Nat) :=
  let sl := s.slot r
  let next := if (sl.status == .ready || sl.status == .trapped) && sl.pendTrap.isNone then
      (match s.nextIssue r with
        | (s', .insn i) =>
          let s' := { s' with cur := r }
          s'.instrReach r i ++ s'.movesReach r i ++ (if instrTraps i s' then s.trapDemands r else [])
        | _ => s.trapDemands r)
    else []
  (sl.unperformed.filter (fun f => !trigIsCommons f.trig)).map (fun f => (f.ea, f.bytes))
    ++ (sl.sb.take 1).map (fun e => (e.addr, if e.kind == .cSt then 0 else e.chunk)) ++ next
    ++ (if sl.pendTrap.isSome || s.heldFor r then s.trapDemands r else [])
    ++ (sl.saved.filter (fun p => p.2.due)).map (fun p => (recordAddr sl p.1, 32))

/-- Runs that the landings of a copy issued by u wait for in v: local ones, a send's destination, an arrival word. -/
def State.copyDemands (s : State) (v u : VRef) (c : Copy) : List (Nat × Nat) :=
  let ready := c.segs.filter (fun g => match g.st with
    | .ready _ => true
    | _ => false)
  let there := s.segTarget u c == some v
  (if u == v then ready.map (fun g => (g.loc, g.len)) else [])
    ++ (if there && cpeRemote c.op then ready.map (fun g => (g.addr, g.len)) else [])
    ++ (if there && dAwen c.desc && !ready.isEmpty then [(dAw c.desc, 16)] else [])

/-- Runs that a message for v waits for. -/
def State.msgDemands (s : State) (v : VRef) (m : Msg) : List (Nat × Nat) :=
  let t := s.vt v
  if m.drank != v.rank then []
  else match m.ring with
    | some i =>
      let g := vget t.rings i Ring.blank
      (g.base, 2 ^ g.logsz) :: (match m.aw with
        | some w => [(w, 16)]
        | none => [])
    | none => [(t.psBase, t.psSize)]

/-- Every run of scratchpad that an access of the vtile, or a landing in it, waits for. -/
def State.spDemands (s : State) (v : VRef) : List (Nat × Nat) :=
  let t := s.vt v
  let c := s.ctx v.ctx
  (List.range 8).flatMap (fun i => s.slotDemands ⟨v, Fin.ofNat 8 i⟩)
    ++ (t.mx.queue.take 1).flatMap (fun e => (mxTouches e t.mx.run).1)
    ++ (if t.fq.isEmpty then [] else [(t.psBase, t.psSize)])
    ++ c.vts.flatMap (fun p => (p.2.copies.filter (fun k => !k.finished)).flatMap (fun k => s.copyDemands v ⟨v.ctx, p.1⟩ k)
        ++ p.2.outq.flatMap (fun m => s.msgDemands v m))
    ++ c.msgs.flatMap (fun m => s.msgDemands v m)

/-- The scratchpad units to be restored next. -/
def State.nextSp (s : State) (v : VRef) : List Nat :=
  let out := (s.vt v).spOut
  let runs := s.spDemands v
  let wanted := out.filter (fun k => runs.any (fun x => x.2 != 0 && decide (8192 * k < x.1 + x.2) && decide (x.1 < 8192 * k + 8192)))
  if wanted.isEmpty then out.take 1 else wanted

/-- The B-store units to be restored next, as numbers 16 × column + unit. -/
def State.nextBs (s : State) (v : VRef) : List Nat :=
  let t := s.vt v
  let cells := (t.mx.queue.take 1).flatMap (fun e => (mxTouches e t.mx.run).2
    ++ (if mxOp e.c == 2 && mxRim e.c then (t.mx.run.segs.filter (fun g => match g.st with
        | .ready _ => true
        | _ => false)).flatMap (fun g => bloadCells e.c g.row) else []))
  let wanted := t.mx.bsOut.filter (fun k => cells.any (fun p => 16 * p.1 + p.2 / 8192 == k))
  if wanted.isEmpty then t.mx.bsOut.take 1 else wanted

/-- May the unit be restored (R284, R197)? -/
def State.mayRestore (s : State) (v : VRef) (u : UnitId) : Bool :=
  match u with
  | .sp n => n < 512 && s.restores v (fun t => setHas t.spOut n) && (s.nextSp v).contains n
  | .bs col n => col < 64 && n < 16 && (s.nextBs v).contains (16 * col + n) && s.active v && (s.vt v).mx.bsUnitOut col (8192 * n) && (match s.partner v with
      | some w => (s.vt w).mx.bhwm ≤ 8192 * n || (s.vt w).mx.bsUnitOut col (8192 * n)
      | none => true)

/-- R284, R326 UNIT_SPILL. -/
def execUnitSpill (v : VRef) (u : UnitId) (s : State) : Host.Outcome State Fault Refusal :=
  if s.maySpill v u then
    .next ((match u with
      | .sp n => s.spillSp v n
      | .bs col n => s.spillBs v col n).outCheck v)
  else .refused (.notEnabled "UNIT_SPILL")

/-- R284, R197 UNIT_RESTORE. -/
def execUnitRestore (v : VRef) (u : UnitId) (s : State) : Host.Outcome State Fault Refusal :=
  if s.mayRestore v u then
    .next (match u with
      | .sp n => (s.restoreSp v n).landRecords v
      | .bs col n => s.restoreBs v col n)
  else .refused (.notEnabled "UNIT_RESTORE")

/-! ## Time slicing (R318, R331) -/

/-- Has the vtile a READY slot or a queued match? -/
def Vtile.hasWork (t : Vtile) : Bool := !t.fq.isEmpty || t.slots.toList.any (fun sl => sl.status == .ready)

/-- The running vtile and its partner of a sliced tile: both resident, the running one not halted. -/
def State.slicePair (s : State) (site : Nat) : Option (VRef × VRef) :=
  let t := s.tile site
  match t.bank t.sel, t.bank (!t.sel) with
  | some v, some u =>
    if (s.vt v).loc == .resident && (s.vt u).loc == .resident && (s.vt v).slice && !(s.vt v).halted
        && (s.leaves (some v)).isNone && !s.midPair v then some (v, u) else none
  | _, _ => none

/-- The switch: the running vtile's bank is saved, and its partner runs. -/
def State.sliceSwitch (s : State) (site : Nat) (v : VRef) : State :=
  let now := s.regs.cycle
  (s.saveBank v).modTile site (fun t => { t with sel := !t.sel, lastSwitch := now, idleSince := now, pairNext := none })

/-- R318 TIME_SLICE_SWITCH. -/
def execTimeSliceSwitch (site : Nat) (s : State) : Host.Outcome State Fault Refusal :=
  match s.slicePair site with
  | some (v, u) =>
    if max 1 s.regs.sliceq * 1024 ≤ s.regs.cycle - (s.tile site).lastSwitch && (s.vt u).hasWork then
      .next (s.sliceSwitch site v)
    else .refused (.notEnabled "TIME_SLICE_SWITCH")
  | none => .refused (.notEnabled "TIME_SLICE_SWITCH")

/-- R318 IDLE_SLICE_SWITCH. -/
def execIdleSliceSwitch (site : Nat) (s : State) : Host.Outcome State Fault Refusal :=
  match s.slicePair site with
  | some (v, u) =>
    if 4096 ≤ s.regs.cycle - (s.tile site).idleSince && !(s.vt v).hasWork && (s.vt u).hasWork then
      .next (s.sliceSwitch site v)
    else .refused (.notEnabled "IDLE_SLICE_SWITCH")
  | none => .refused (.notEnabled "IDLE_SLICE_SWITCH")

end Sys2Proof.Machine
end

