-- ==== Sys2Proof/Machine/Croft.lean ====
section
/-!
DEFINITION. What the croft does through the module register space (chapter 14): context commands (R308 to R310, R356,
R357), launch-queue registers (R312 to R314), invalidations (R302, R303), key slots (R292, R293), the feature mask (R397),
context images (R369), the message and commons ports (R399), halt groups (R402), routes (R409), every other register
(R394), and loads and stores of harts (R398).
-/
namespace Sys2Proof.Machine

/-! ## CREATE (R309, R310, R298, R290) -/

/-- A number read from system physical memory. -/
def State.physRead (s : State) (pa n : Nat) : Nat := ofBytes (s.homeBytes pa n)

/-- Does a context record break R309? -/
def recordBad (r : Nat) : Bool :=
  let vx := bits r 471 448
  let vy := bits r 495 472
  bits r 6 0 != 0 || bits r 76 64 != 0 || bits r 140 128 != 0 || bits r 215 192 != 0 || vx = 0 || vy = 0 || 2 ^ 24 < vx * vy
    || bits r 503 500 != 0 || bits r 767 504 != 0

/-- Does a memory descriptor break R298, its key slot apart? -/
def descBad (w : Nat) : Bool :=
  bits w 12 0 != 0 || bits w 77 64 != 0 || bits w 140 129 != 0 || bits w 207 204 != 0 || bits w 255 208 != 0
    || bits w 257 256 != 0 || 65536 < bits w 351 320 || 16 < bits w 359 352 || bits w 367 360 != 0 || bits w 383 380 != 0
    || bits w 511 384 != 0 || bits w 543 512 != 0

/-- The fields that a reload takes from a memory descriptor (R303). -/
def CtxDesc.reload (d : CtxDesc) (w : Nat) : CtxDesc :=
  { d with
    s1root := bits w 63 13 * 8192, iroot := bits w 127 78 * 16384, s2root := bits w 191 141 * 8192, s2en := bit w 128
    vmid := bits w 203 192, bkey := bits w 379 368
    fmttab := Vector.ofFn (fun (i : Fin 16) => BitVec.ofNat 32 (bits w (543 + 32 * i.val) (512 + 32 * i.val))) }

/-- The whole descriptor of a context from its record and memory descriptor; the map apart. -/
def descOf (r w : Nat) : CtxDesc :=
  let d : CtxDesc := { CtxDesc.blank with
    memdesc := bits r 63 0, ranktab := bits r 127 64, flocktab := bits r 191 128, imgarea := bits r 255 192
    supdest := word (bits r 319 256), dldest := word (bits r 383 320), smdest := word (bits r 447 384)
    vx := bits r 471 448, vy := bits r 495 472, flags := bits r 499 496, seed := BitVec.ofNat 256 (bits r 1023 768)
    cmapBase := bits w 319 256, cpsize := bits w 351 320, pench := bits w 359 352 }
  d.reload w

/-- Is a key slot LOADED and owned by the context (R292)? -/
def State.keyOk (s : State) (ctx k : Nat) : Bool :=
  let e := Tbl.getD s.keys k KeySlot.blank
  e.st == .loaded && e.owner == ctx

/-- Fold, chunk and key slot of a map entry (R289). -/
def cmFold (e : Word32) : Nat := bits e.toNat 9 1
def cmChunk (e : Word32) : Nat := bits e.toNat 18 10
def cmKey (e : Word32) : Nat := bits e.toNat 30 19
def cmPlace (e : Word32) : Nat := cmFold e * 512 + cmChunk e

/-- Is a fold site usable for commons (R290, R396)? -/
def State.foldUsable (s : State) (f : Nat) : Bool := f < 336 && !setHas s.ident.deadFolds f

/-- Does a commons map break R290? -/
def State.mapBad (s : State) (ctx : Nat) (m : List Word32) : Bool :=
  let places := m.map cmPlace
  m.any (fun e => !bit e.toNat 0 || bit e.toNat 31 || !s.foldUsable (cmFold e) || 383 < cmChunk e || !s.keyOk ctx (cmKey e))
    || places.eraseDups.length != places.length
    || s.ctxs.any (fun p => p.1 != ctx && p.2.regs.st != .none && p.2.desc.cmap.any (fun e => places.contains (cmPlace e)))

/-- Set fields of a context's registers. -/
def State.modRegs (s : State) (ctx : Nat) (f : CtxRegs → CtxRegs) : State := s.modCtx ctx (fun c => { c with regs := f c.regs })

/-- A command was refused or failed (R308). -/
def State.cmdFails (s : State) (ctx reason : Nat) : State := s.modRegs ctx (fun g => { g with err := true, reason := reason })

/-- CREATE in a context whose STATE is 0. -/
def State.createRun (s : State) (ctx : Nat) : State :=
  let r := s.physRead (s.ctx ctx).regs.recAddr 128
  if recordBad r then s.cmdFails ctx 1
  else
    let w := s.physRead (bits r 63 0) 128
    if descBad w || !s.keyOk ctx (bits w 379 368) then s.cmdFails ctx 2
    else
      let d := descOf r w
      let m := (List.range (d.cpsize + d.pench)).map (fun i => BitVec.ofNat 32 (s.physRead (d.cmapBase + 4 * i) 4))
      if s.mapBad ctx m then s.cmdFails ctx 3
      else
        let s := (s.rimZero (s.rimAt d.ranktab) (8 * (d.vx * d.vy))).rimZero (s.rimAt d.flocktab) (16 * 16384)
        s.modCtx ctx (fun c => { Ctx.blank with
          regs := { c.regs with st := .live, sseq := 0, suspending := false, busy := false }
          desc := { d with cmap := m }
          s1gen := c.s1gen + 1 })

/-- A CTXCMD write to a busy context is ignored and sets ERR (R308). -/
def State.cmdBusy (s : State) (ctx : Nat) : State := s.modRegs ctx (fun g => { g with err := true })

/-- A command in a STATE that does not allow it (R310). -/
def State.command (s : State) (ctx : Nat) (allowed : CtxState → Bool) (run : State → State) : State :=
  let g := (s.ctx ctx).regs
  if g.busy then s.cmdBusy ctx
  else if !allowed g.st then s.cmdFails ctx 4
  else run s

def State.cmdCreate (s : State) (ctx : Nat) : State := s.command ctx (· == .none) (fun s => s.createRun ctx)

/-- R310 CREATE. -/
def execCreate (ctx : Nat) (s : State) : Host.Outcome State Fault Refusal := .next (s.cmdCreate ctx)

/-! ## SUSPEND and RESUME (R310, R314) -/

/-- SUSPEND: the queues are switched out; resident flocks follow by ROTATION_OUT. -/
def State.cmdSuspend (s : State) (ctx : Nat) : State :=
  s.command ctx (· == .live) (fun s =>
    (s.modCtx ctx (fun c => { c with
      regs := { c.regs with suspending := true, busy := true }
      queues := c.queues.map (fun q => if q.active then { q with swout := true, want := q.tail != q.head } else q) })).suspendCheck
        ctx)

/-- R310 SUSPEND. -/
def execSuspend (ctx : Nat) (s : State) : Host.Outcome State Fault Refusal := .next (s.cmdSuspend ctx)

/-- A switched-out queue without WANT is active again while there is room; one with WANT follows by QUEUE_SWITCH_IN. -/
def State.queueReturns (s : State) (ctx q : Nat) : State :=
  let x := s.queue ctx q
  if x.en && x.swout && !x.want && s.activeQueues.length < 512 then s.modQueue ctx q (fun x => { x with swout := false }) else s

/-- RESUME: waits start again. -/
def State.cmdResume (s : State) (ctx : Nat) : State :=
  s.command ctx (· == .suspended) (fun s =>
    let now := s.regs.cycle
    let s := s.modCtx ctx (fun c => { c with
      regs := { c.regs with st := .live }
      flocks := c.flocks.map (fun p => (p.1, if p.2.ready then { p.2 with waitStart := now, aging := 0 } else p.2)) })
    (List.range 16).foldl (fun s q => s.queueReturns ctx q) s)

/-- R310 RESUME. -/
def execResume (ctx : Nat) (s : State) : Host.Outcome State Fault Refusal := .next (s.cmdResume ctx)

/-! ## Key slots (R292, R293) -/

def State.modKey (s : State) (k : Nat) (f : KeySlot → KeySlot) : State := { s with keys := Tbl.upsert s.keys k KeySlot.blank f }

/-- Lines of the commons of a context, those of its pen with them, that lie under a key slot. -/
def Ctx.linesUnder (c : Ctx) (k : Nat) : List Nat :=
  ((List.range c.desc.cmap.length).zip c.desc.cmap).flatMap (fun p =>
    if cmKey p.2 = k then (List.range 16384).map (fun i => 16384 * p.1 + i) else [])

/-- Does an offset lie under a key slot? -/
def Ctx.underKey (c : Ctx) (k ea : Nat) : Bool := bits (c.mapEntry ea) 30 19 == k

/-- A context whose key is gone: operations in flight under the slot are discarded, its lines fail their tags (R295), and
its B-stores in the tiles read as open bytes where BKEY names the slot. Lines of another BKEY keep what `recipherLine` made of
them, since their ciphertext and the key they are read under stay. -/
def Ctx.loseKey (c : Ctx) (k tick : Nat) : Ctx :=
  let lines := c.linesUnder k
  { c with
    bankOps := c.bankOps.filter (fun u => !c.underKey k u.ea)
    holding := c.holding.filter (fun h => !c.underKey k (8 * h.word))
    condemned := lines.foldl setIns c.condemned
    vts := if c.desc.bkey = k then c.vts.map (fun p => (p.1, { p.2 with mx := { p.2.mx with
        bstore := (List.range (64 * 131072)).filterMap (fun a =>
          let b := (openAt tick 5 (2 ^ 23 * p.1 + a)).setWidth 8
          if p.2.mx.bhwm ≤ a % 131072 || p.2.mx.bsUnitOut (a / 131072) (a % 131072) || b = 0 then none else some (a, b)) } }))
      else c.vts }

/-- An operation that is discarded never lands (R293). -/
def State.dropOps (s : State) (ctx : Nat) (l : List BankOp) : State :=
  l.foldl (fun s u => s.engineNever ⟨ctx, u.rank⟩ u.slot u.fser u.fid) s

/-- A command that is reading or writing a B-store whose key is gone retires as a discarded one does: STATUS 1, no other
effect (log 23). -/
def State.dropMatrix (s : State) (v : VRef) : State :=
  match (s.vt v).mx.queue with
  | e :: q =>
    if (s.vt v).mx.run.started && (mxOp e.c == 2 || mxIsMma e.c) then
      ((s.modMx v (fun m => { m with queue := q, run := .start })).mxDrop v [e]).mxDropGone v
    else s
  | [] => s

/-- Steps 2 to 4 of R293: what is in flight under the slot is discarded, KEY is overwritten, and the slot is EMPTY. -/
def State.zeroiseEnd (s : State) (k : Nat) : State :=
  let tick := s.tick
  let owner := (Tbl.getD s.keys k KeySlot.blank).owner
  let c := s.ctx owner
  let ops := c.bankOps.filter (fun u => c.underKey k u.ea)
  let late := (c.holding.filter (fun h => c.underKey k (8 * h.word) && commonsLate h.u.op)).map (fun h => h.u)
  let s := (s.modKey k (fun e => { e with st := .empty, key := 0 })).inCtx owner (fun c => c.loseKey k tick)
  let s := s.dropOps owner (ops ++ late)
  if c.desc.bkey = k && c.regs.st != .none then c.vts.foldl (fun s p => s.dropMatrix ⟨owner, p.1⟩) s else s

/-- Zeroise a slot (R293): step 1. An EMPTY one has nothing in flight under it. -/
def State.zeroise (s : State) (k : Nat) : State := s.modKey k (fun e => { e with st := .zeroising })

/-- The zeroising slots. -/
def State.zeroising (s : State) : List Nat := (s.keys.filter (fun p => p.2.st == .zeroising)).map Prod.fst

/-- A write of the control register of slot k. One that sets both LOAD and ZERO while STATE = 0 zeroises and does not load:
R292 does not say which acts (log 98). -/
def State.keyWrite (s : State) (k val : Nat) : State :=
  if 4096 ≤ k then s
  else
    let empty := (Tbl.getD s.keys k KeySlot.blank).st == .empty
    let s := if empty then s.modKey k (fun e => { e with owner := bits val 7 0 }) else s
    if bit val 11 then s.zeroise k
    else if bit val 10 && empty then s.modKey k (fun e => { e with st := .loaded })
    else s

/-- R292 KEY_LOAD. -/
def execKeyLoad (slot : Nat) (owner : Byte) (s : State) : Host.Outcome State Fault Refusal :=
  .next (s.keyWrite slot (owner.toNat + 2 ^ 10))

/-- R293 KEY_ZERO: the write of ZERO; of a slot that is being zeroised, the end of that. -/
def execKeyZero (slot : Nat) (owner : Byte) (s : State) : Host.Outcome State Fault Refusal :=
  .next (if (Tbl.getD s.keys slot KeySlot.blank).st == .zeroising then s.zeroiseEnd slot
    else s.keyWrite slot (owner.toNat + 2 ^ 11))

/-! ## TEARDOWN (R356, R357) -/

/-- Steps 1 to 5 of R357: holding sets are settled (R226), then nothing of the context runs or is sent any more, and its keys
are zeroised. -/
def State.tearStart (s : State) (ctx cause : Nat) : State :=
  let s := s.settleRanks ctx (fun _ => true) none
  let owned := (s.keys.filter (fun p => p.2.owner == ctx)).map Prod.fst
  let s := s.modCtx ctx (fun c => { c with
    regs := { c.regs with st := .tearing, busy := true, suspending := false, reason := cause }
    vts := [], flocks := [], herds := [], msgs := [], misses := [], bankOps := [], holding := [] })
  let s := owned.foldl (fun s k => s.zeroise k) s
  { s with
    tiles := s.tiles.map (fun p => (p.1, { p.2 with
      bank0 := if p.2.bank0.any (fun v => v.ctx == ctx) then none else p.2.bank0
      bank1 := if p.2.bank1.any (fun v => v.ctx == ctx) then none else p.2.bank1
      icache := p.2.icache.filter (fun l => l.ctx != ctx)
      itlb := p.2.itlb.filter (fun e => e.ctx != ctx) }))
    folds := s.folds.map (fun p => (p.1, { p.2 with tlb := p.2.tlb.filter (fun e => e.ctx != ctx) }))
    regs := { s.regs with held := s.regs.held.filter (fun p => p.2.1 != ctx) } }

/-- Step 6: its keys are gone, what the context held is freed, and its ranks are unpopulated. -/
def State.tearEnd (s : State) (ctx : Nat) : State :=
  let d := (s.ctx ctx).desc
  let s : State := { s with keys := s.keys.map (fun (p : Nat × KeySlot) =>
    if p.2.owner == ctx && p.2.st == .zeroising then (p.1, { p.2 with st := .empty, key := 0 }) else p) }
  (s.rimZero (s.rimAt d.ranktab) (8 * (d.vx * d.vy))).modCtx ctx (fun c =>
    { Ctx.blank with regs := { c.regs with st := .none, busy := false }, s1gen := c.s1gen + 1 })

/-- TEARDOWN written by the croft (R310). -/
def State.cmdTeardown (s : State) (ctx : Nat) : State :=
  s.command ctx (fun st => st == .live || st == .suspended) (fun s => s.tearStart ctx 0x10)

/-- R357 TEARDOWN: with cause 0x10 the croft's command, with another the device's own; cause 0 is the end of a teardown
that has begun. -/
def execTeardown (ctx : Nat) (cause : Byte) (s : State) : Host.Outcome State Fault Refusal :=
  let st := (s.ctx ctx).regs.st
  if cause = 0 then
    (if st == .tearing then .next (s.tearEnd ctx) else .refused (.notEnabled "TEARDOWN"))
  else if cause.toNat = 0x10 then .next (s.cmdTeardown ctx)
  else .next (if st == .live || st == .suspended then s.tearStart ctx cause.toNat else s)

/-! ## Harts -/

/-- Does a hart act: it has been released (R406) and is not in debug mode (R402)? -/
def State.hartActs (s : State) (h : Fin 32) : Bool := !setHas s.crook.hartHalted h.val

/-- A step of a hart, which does not happen while the hart is in debug mode. -/
def byHart (h : Fin 32) (name : String) (s : State) (f : State) : Host.Outcome State Fault Refusal :=
  if s.hartActs h then .next f else .refused (.notEnabled name)

/-! ## Launch-queue registers (R312 to R314, R400) -/

/-- Is a context window closed to ordinary accesses (R400)? -/
def State.windowShut (s : State) (ctx : Nat) : Bool :=
  let st := (s.ctx ctx).regs.st
  st == .none || st == .tearing || 256 ≤ ctx

/-- A write to LQCFG. -/
def State.lqcfg (s : State) (ctx q val : Nat) : State :=
  if s.windowShut ctx then s
  else
    let x := s.queue ctx q
    let logn := bits val 4 0
    let base := bits val 52 6 * 64
    let en := bit val 5
    if 16 < logn || base % (64 * 2 ^ logn) != 0 || !x.idle then s.modQueue ctx q (fun x => { x with err := true })
    else
      let now := s.regs.cycle
      let opens := en && !x.en
      let (s, out) := if !opens then (s, x.swout && en)
        else match s.queueSlot with
          | some s => (s, false)
          | none => (s, true)
      s.modQueue ctx q (fun x => { x with
        logn := logn, en := en, base := base, swout := out, want := x.want && out, err := x.err && !bit val 54
        head := if opens then x.tail else x.head
        prog := if opens then x.tail else x.prog
        idleSince := if opens then now else x.idleSince })

/-- A write to LQTAIL. -/
def State.lqtail (s : State) (ctx q val : Nat) : State :=
  if s.windowShut ctx then s
  else
    let x := s.queue ctx q
    let d := wrap ((val : Int) - x.tail) 32
    if 2 ^ 32 ≤ val || 2 ^ x.logn < d + wrap ((x.tail : Int) - x.head) 32 then s.modQueue ctx q (fun x => { x with err := true })
    else s.modQueue ctx q (fun x => { x with tail := val, want := x.want || (x.swout && val != x.head) })

/-- R312 LQCFG_WRITE. -/
def execLqcfgWrite (ctx : Nat) (q : Fin 16) (val : Word) (s : State) : Host.Outcome State Fault Refusal :=
  .next (s.lqcfg ctx q.val val.toNat)

/-- R313 LQTAIL_WRITE. -/
def execLqtailWrite (h : Fin 32) (ctx : Nat) (q : Fin 16) (val : Word) (s : State) : Host.Outcome State Fault Refusal :=
  byHart h "LQTAIL_WRITE" s (s.lqtail ctx q.val val.toNat)

/-! ## Invalidations (R302 to R304) -/

/-- The range that TINVADDR and TINVLEN give: first byte and length. -/
def ModRegs.tinvRange (r : ModRegs) : Nat × Nat := (r.tinvAddr, 8192 * r.tinvLen)

def State.dropTlb (s : State) (p : TlbEntry → Bool) : State :=
  { s with folds := s.folds.map (fun f => (f.1, { f.2 with tlb := f.2.tlb.filter (fun e => !p e) })) }

/-- Kind 0. -/
def State.invS1 (s : State) (ctx : Nat) : State := s.inCtx ctx (fun c => { c with s1gen := c.s1gen + 1 })

/-- Kind 4: the instruction entries and lines of a context, those of every fold with them. -/
def State.invInsn (s : State) (ctx : Nat) : State :=
  { s.dropTlb (fun e => e.insn && e.ctx == ctx) with tiles := s.tiles.map (fun p => (p.1, { p.2 with
      icache := p.2.icache.filter (fun l => l.ctx != ctx), itlb := p.2.itlb.filter (fun e => e.ctx != ctx) })) }

/-- A line of a vtile's B-store that was encrypted under one key and is read under another (R286, R294): each byte takes the
sum of the two keystreams. -/
def recipherLine (k k' : BitVec 256) (site version l : Nat) (m : Memory) : Memory :=
  let at_ := 64 * l
  let ks := aesXor (bsStream k (site * 2 ^ 19 + l) version) (bsStream k' (site * 2 ^ 19 + l) version)
  memReplace m at_ 64 ((List.range 64).filterMap (fun i =>
    let b := memGet m (at_ + i) ^^^ BitVec.ofNat 8 (ks.getD i 0)
    if b = 0 then none else some (at_ + i, b)))

/-- The lines of a vtile's B-store that lie in its tile and hold data. -/
def Matrix.linesIn (m : Matrix) : List Nat :=
  (List.range (64 * 2048)).filter (fun l => !m.bsUnitOut (l / 2048) (l % 2048 * 64)
    && (l % 2048 * 64 < m.bhwm || !(memRange m.bstore (64 * l) 64).isEmpty))

/-- A vtile's B-store when BKEY changes from a key to another: the lines in its tile stay as they were encrypted, and those in
the image lie in plain text (R286). -/
def State.recipher (s : State) (v : VRef) (k k' : BitVec 256) : State :=
  let site := (s.vt v).site
  s.modVt v (fun t => { t with mx := { t.mx with
    bstore := t.mx.linesIn.foldl (fun m l => recipherLine k k' site (Tbl.getD (s.tile site).bver l 0) l m) t.mx.bstore } })

/-- The key of a slot. -/
def State.keyOf (s : State) (k : Nat) : BitVec 256 := (Tbl.getD s.keys k KeySlot.blank).key

/-- A context takes the fields of its memory descriptor anew. -/
def State.reloadDesc (s : State) (ctx w : Nat) : State :=
  let old := (s.ctx ctx).desc.bkey
  let s := s.inCtx ctx (fun c => { c with desc := c.desc.reload w })
  let new := (s.ctx ctx).desc.bkey
  if s.keyOf old = s.keyOf new then s
  else (s.ctx ctx).vts.foldl (fun s p => s.recipher ⟨ctx, p.1⟩ (s.keyOf old) (s.keyOf new)) s

/-- What a request of a kind does at once. -/
def State.invKind (s : State) (kind ctx vmid : Nat) : State :=
  let (a, n) := s.regs.tinvRange
  match kind with
  | 0 => s.invS1 ctx
  | 1 => s.dropTlb (fun e => e.ctx == ctx && runsMeet e.va e.size a n)
  | 2 => { s with s2gen := Tbl.put s.s2gen vmid (Tbl.getD s.s2gen vmid 0 + 1) }
  | 3 => s.dropTlb (fun e => e.vmid == vmid && runsMeet e.gpa e.size a n)
  | 4 => s.invInsn ctx
  | _ =>
    let w := s.physRead (s.ctx ctx).desc.memdesc 128
    ((s.reloadDesc ctx w).invS1 ctx).invInsn ctx

/-- Is the segment translated and not performed? -/
def Seg.isReady (g : Seg) : Bool := match g.st with
  | .ready _ => true
  | _ => false

/-- Apply a function to every segment of a vtile's copies and of its matrix command. -/
def Vtile.mapSegs (t : Vtile) (f : Seg → Seg) : Vtile :=
  { t with
    copies := t.copies.map (fun c => if c.finished || cpeRemote c.op then c else { c with idxSegs := c.idxSegs.map f, segs := c.segs.map f })
    mx := { t.mx with run := { t.mx.run with segs := t.mx.run.segs.map f } } }

/-- Does a request remove the entry that a translated segment of a context was translated under (R303)? -/
def State.tinvCovers (s : State) (kind target n : Nat) (c : Ctx) (g : Seg) : Bool :=
  let (a, len) := s.regs.tinvRange
  g.isReady && (match kind with
    | 0 | 5 => n == target
    | 1 => n == target && runsMeet g.page.va g.page.size a len
    | 2 => c.desc.vmid == target
    | 3 => c.desc.vmid == target && runsMeet g.page.gpa g.page.size a len
    | _ => false)

/-- The segments that a request waits for are marked as it arrives. -/
def State.tinvMark (s : State) (kind target : Nat) : State :=
  { s with ctxs := s.ctxs.map (fun p => (p.1, { p.2 with vts := p.2.vts.map (fun q =>
      (q.1, q.2.mapSegs (fun g => { g with dying := s.tinvCovers kind target p.1 p.2 g }))) })) }

/-- A write to TINVREQ. -/
def State.tinvreq (s : State) (val : Nat) : State :=
  let kind := bits val 2 0
  let ctx := bits val 10 3
  let vmid := bits val 22 11
  if s.regs.tinvBusy || 5 < kind || bits val 63 23 != 0 || ((kind = 1 || kind = 3) && s.regs.tinvLen = 0) then
    { s with regs := { s.regs with tinvErr := true } }
  else
    let s := (s.tinvMark kind (if kind = 2 || kind = 3 then vmid else ctx)).invKind kind ctx vmid
    { s with regs := { s.regs with tinvBusy := true } }

/-- The value of TINVREQ for a kind. -/
def tinvWord (kind ctx vmid : Nat) : Nat := kind + ctx % 256 * 8 + vmid % 4096 * 2 ^ 11

/-- R303 STAGE1_ALL. -/
def execStage1All (ctx : Nat) (s : State) : Host.Outcome State Fault Refusal := .next (s.tinvreq (tinvWord 0 ctx 0))

/-- R303 STAGE1_RANGE. -/
def execStage1Range (ctx : Nat) (s : State) : Host.Outcome State Fault Refusal := .next (s.tinvreq (tinvWord 1 ctx 0))

/-- R303 STAGE2_ALL. -/
def execStage2All (vmid : Nat) (s : State) : Host.Outcome State Fault Refusal := .next (s.tinvreq (tinvWord 2 0 vmid))

/-- R303 STAGE2_RANGE. -/
def execStage2Range (vmid : Nat) (s : State) : Host.Outcome State Fault Refusal := .next (s.tinvreq (tinvWord 3 0 vmid))

/-- R303 INSTRUCTION_ALL. -/
def execInstructionAll (ctx : Nat) (s : State) : Host.Outcome State Fault Refusal := .next (s.tinvreq (tinvWord 4 ctx 0))

/-- R303 DESCRIPTOR_RELOAD. -/
def execDescriptorReload (ctx : Nat) (s : State) : Host.Outcome State Fault Refusal := .next (s.tinvreq (tinvWord 5 ctx 0))

/-- The segments of a vtile that have been translated and not performed. -/
def Vtile.translatedSegs (t : Vtile) : List Seg :=
  ((t.copies.filter (fun c => !c.finished && !cpeRemote c.op)).flatMap (fun c => c.idxSegs ++ c.segs) ++ t.mx.run.segs).filter
    Seg.isReady

/-- Does a segment that the request in progress covers wait to be performed? -/
def State.tinvWaits (s : State) : Bool := s.ctxs.any (fun p => p.2.vts.any (fun q => q.2.translatedSegs.any Seg.dying))

/-- R303 INVALIDATION_COMPLETE. -/
def execInvalidationComplete (s : State) : Host.Outcome State Fault Refusal :=
  if s.regs.tinvBusy && !s.tinvWaits then
    .next { s with regs := { s.regs with tinvBusy := false, tinvDone := (s.regs.tinvDone + 1) % 2 ^ 32 } }
  else .refused (.notEnabled "INVALIDATION_COMPLETE")

/-! ## Features and images (R376, R396, R397, R368, R369) -/

/-- FEATP (R376): NORM on stepping B1, FABRIC when a route to another module is valid. -/
def State.featp (s : State) : Nat :=
  0x67 + b2n s.ident.steppingB1 * 2 ^ 3
    + b2n ((List.range 768).any (fun m => m != s.modId && (Tbl.getD s.fabric.routes (2 * m + 1) 0).getLsbD 0)) * 2 ^ 4

/-- The active set (R376). -/
def State.active_ (s : State) : Nat := (word s.featp &&& ~~~s.ident.featm).toNat

/-- A write to FEATM (R397). -/
def State.featmWrite (s : State) (val : Word) : State :=
  if s.ctxs.any (fun p => p.2.regs.st != .none) || val.getLsbD 0 then s
  else { s with ident := { s.ident with featm := val } }

/-- R397 FEATM_WRITE. -/
def execFeatmWrite (val : Word) (s : State) : Host.Outcome State Fault Refusal := .next (s.featmWrite val)

/-- What a context image restores beyond its header: where the parts of the image lie the spec does not say, so the context
that it gives is open (log 14). -/
opaque restoredCtx : (tick : Nat) → Ctx

/-- Sparse bytes brought into their one form. -/
def memCanon (m : Memory) : Memory := m.foldl (fun acc c => memPut acc c.1 c.2) []

/-- A table brought into its one form: keys rising, no entry equal to the default. -/
def tblCanon {α : Type} [DecidableEq α] (d : α) (t : Tbl α) : Tbl α := t.foldl (fun acc c => Tbl.putSparse acc c.1 d c.2) []

/-- A vtile with its sparse parts in their one form. -/
def Vtile.canon (t : Vtile) : Vtile :=
  { t with sp := memCanon t.sp, fe := t.fe.foldl setIns [], spOut := t.spOut.foldl setIns []
           marks := t.marks.foldl (fun acc c => Tbl.put acc c.1 c.2) []
           mx := { t.mx with bstore := memCanon t.mx.bstore, acc := tblCanon 0 t.mx.acc, bsOut := t.mx.bsOut.foldl setIns [] } }

/-- A restored context: it has the window of the one it is restored into, nothing of it is in a tile, and its sparse parts
are in their one form. -/
def Ctx.restored (c : Ctx) (old : CtxRegs) : Ctx :=
  { c with
    commons := memCanon c.commons
    regs := { old with rimg := old.rimg, st := if c.regs.st == .suspended then .suspended else .live, rpn := c.regs.rpn,
                       sseq := c.regs.sseq }
    vts := c.vts.map (fun p => (p.1, { p.2.canon with loc := .absent }))
    flocks := c.flocks.map (fun p => (p.1, { p.2 with
      st := match p.2.st with
        | .nonexistent => .nonexistent
        | .waiting => .waiting
        | _ => .rotatedOut })) }

/-- What the header of an image gives the restored context: the features that it used, and its RPN. -/
def Ctx.withHeader (c : Ctx) (h : Nat) : Ctx :=
  { c with live := word (bits h 191 128), regs := { c.regs with rpn := bits h 223 192 } }

/-- The feature bit that a saved record of a trigger needs (R97, R376). -/
def trigFeature : Trig → Option Nat
  | .vec .exp _ | .vec .log _ | .vec .rcp _ | .vec .rsqrt _ | .vec .tanh _ | .vec .sigm _ => some 2
  | .rng .norm => some 3
  | _ => none

/-- Does a vtile hold a record that needs a feature: of an operation of a slot, or of an MMA.g of its matrix queue (R185)? -/
def Vtile.needs (t : Vtile) (bit_ : Nat) : Bool :=
  t.slots.toList.any (fun sl => (sl.ops ++ sl.saved.map Prod.snd).any (fun f => trigFeature f.trig == some bit_))
    || (bit_ == 1 && t.mx.queue.any (fun e => mxOp e.c == 4))

/-- The features that a context used (R368): those that its loaded images required, and those that its saved records need. -/
def Ctx.liveMask (c : Ctx) : Nat :=
  [1, 2, 3].foldl (fun n k => n ||| (b2n (c.vts.any (fun p => p.2.needs k)) * 2 ^ k)) c.live.toNat

/-- The 64 bytes that begin a context's image in point n (R368). -/
def State.imageHeader (s : State) (c : Ctx) (n : Nat) : List Byte :=
  toBytes 4 1 ++ toBytes 4 3 ++ toBytes 8 s.featp ++ toBytes 8 c.liveMask ++ toBytes 4 n ++ toBytes 4 (b2n s.ident.steppingB1)
    ++ List.replicate 32 0

/-- A write to RIMG (R369). -/
def State.rimgWrite (s : State) (ctx : Nat) (val : Word) : State :=
  let s := s.modRegs ctx (fun g => { g with rimg := val })
  if (s.ctx ctx).regs.st != .none then s
  else
    let h := s.physRead val.toNat 64
    if bits h 31 0 != 1 || bits h 63 32 != 3 then s.cmdFails ctx 0x21
    else if (word (bits h 191 128) &&& ~~~(word s.active_)) != 0 then s.cmdFails ctx 0x20
    else
      let tick := s.tick
      s.modCtx ctx (fun c => ((restoredCtx tick).restored c.regs).withHeader h)

/-- R369 RIMG_RESTORE. -/
def execRimgRestore (ctx : Nat) (val : Word) (s : State) : Host.Outcome State Fault Refusal := .next (s.rimgWrite ctx val)

/-! ## The croft's message and commons ports (R399) -/

/-- The tag of a hart's port write: DOMAIN once the hart has executed a FENCE with W among its predecessors, else none
(R399). -/
def State.portTag (s : State) (ctx : Nat) (h : Fin 32) : Option RelTag :=
  if setHas s.croft.fenced h.val then some { scope := 4, ctx := ctx, rank := 0xFFFFFF, inc := 0, site := none, rot := 0 } else none

/-- A write to CMSEND. -/
def State.cmsend (s : State) (ctx : Nat) (tag : Option RelTag) : State :=
  if s.windowShut ctx then s
  else
    let g := (s.ctx ctx).regs
    if destReserved g.cmdest || (s.ctx ctx).ranks ≤ destRank g.cmdest then
      s.modRegs ctx (fun g => { g with cmstat := g.cmstat ||| (1#64 <<< 32) })
    else
      let m : Msg := { kind5 g.cmdest 0xFFFFFF 0 g.sseq 0 [g.cmw0, g.cmw1] none false with kind := 0, tags := tag.toList }
      (s.post ctx m).modRegs ctx (fun g => { g with
        cmstat := word (setBits g.cmstat.toNat 31 0 g.sseq)
        sseq := (g.sseq + 1) % 2 ^ 32 })

/-- R399 CMSEND. -/
def execCmsend (h : Fin 32) (ctx : Nat) (s : State) : Host.Outcome State Fault Refusal :=
  byHart h "CMSEND" s (s.cmsend ctx (s.portTag ctx h))

/-- Is the croft's commons offset one that is refused? -/
def State.ccBad (s : State) (ctx : Nat) : Bool :=
  let c := s.ctx ctx
  let ea := c.regs.ccoff.toNat
  ea % 8 != 0 || c.desc.cpsize * 2 ^ 20 < ea + 8

/-- A CCOP is refused: ERR of CCSTAT. -/
def State.ccRefuse (s : State) (ctx : Nat) : State := s.modRegs ctx (fun g => { g with ccstat := 1 })

/-- The croft's c.ld. -/
def State.ccLoad (s : State) (ctx : Nat) : State :=
  if s.windowShut ctx then s
  else if s.ccBad ctx then s.ccRefuse ctx
  else
    let ea := (s.ctx ctx).regs.ccoff.toNat
    let s := s.settleWord ctx (ea / 8)
    let bad := (s.ctx ctx).lineBad ea
    let s := s.readCommons ctx ea
    if bad then s.ccRefuse ctx
    else
      let s := s.checkRead ctx ea 0xFFFFFF 0 none
      let x := word (memRead (s.ctx ctx).commons ea 8)
      s.modRegs ctx (fun g => { g with ccdata := x })

/-- The croft's c.st. -/
def State.ccStore (s : State) (ctx : Nat) (tag : Option RelTag) : State :=
  if s.windowShut ctx then s
  else if s.ccBad ctx then s.ccRefuse ctx
  else
    let g := (s.ctx ctx).regs
    let ea := g.ccoff.toNat
    let s := s.settleWord ctx (ea / 8)
    if setHas (s.ctx ctx).condemned (ea / 64) then s.ccRefuse ctx
    else (s.commonsWrite ctx ea 8 g.ccdata.toNat tag).inCtx ctx (fun c => { c with decTags := Tbl.del c.decTags (ea / 32) })

/-- R399 CCOP with OP 1. -/
def execCcopLd (ctx : Nat) (s : State) : Host.Outcome State Fault Refusal := .next (s.ccLoad ctx)

/-- R399 CCOP with OP 2. -/
def execCcopSt (h : Fin 32) (ctx : Nat) (s : State) : Host.Outcome State Fault Refusal :=
  byHart h "CCOP_ST" s (s.ccStore ctx (s.portTag ctx h))

/-! ## Halt groups (R402) -/

/-- R402 HSTOP. -/
def execHstop (mask : Word) (s : State) : Host.Outcome State Fault Refusal := .next (s.stopGroups mask)

/-- Resume halt groups. -/
def State.resumeGroups (s : State) (mask : Word) : State :=
  { s with crook := { s.crook with stopped := s.crook.stopped &&& ~~~mask } }

/-- R402 HRESUME. -/
def execHresume (mask : Word) (s : State) : Host.Outcome State Fault Refusal := .next (s.resumeGroups mask)

/-! ## Routes (R408, R409) -/

/-- Write one half of a routing entry; entries for m ≥ 768 are ignored. -/
def State.routeWrite (s : State) (m : Nat) (second : Bool) (val : Word) : State :=
  let routes := Tbl.put s.fabric.routes (2 * m + b2n second) (if second then val &&& 1 else val)
  if 768 ≤ m then s else { s with fabric := { s.fabric with routes := routes } }

/-- R409 ROUTE_WRITE: requests are performed one at a time here, so none is outstanding. -/
def execRouteWrite (m : Nat) (second : Bool) (val : Word) (s : State) : Host.Outcome State Fault Refusal :=
  .next (s.routeWrite m second val)

/-! ## The module register space (R394 to R413) -/

/-- RSB and the size of the space (R296, R394). -/
def rsb : Nat := 0x20000000000000
def rsbSize : Nat := 0x100000000000

/-- Where the model puts the error log's ring (R404): in the management block, which holds the error log (R394; log 15), and its
size. -/
def elogBase : Nat := 0x20000000740000
def elogSize : Nat := 131072

/-- Does an access lie in the ring? -/
def inElog (loc n : Nat) : Bool := elogBase ≤ loc && loc + n ≤ elogBase + elogSize

/-- A write to CTXCMD (R308). What a nonzero reserved bit [63:3] does the spec does not say (R7 speaks of privileged registers
of the tiles): the model ignores those bits (log 98). -/
def State.ctxcmd (s : State) (ctx val : Nat) : State :=
  match bits val 2 0 with
  | 1 => s.cmdCreate ctx
  | 2 => s.cmdSuspend ctx
  | 3 => s.cmdResume ctx
  | 4 => s.cmdTeardown ctx
  | _ => s.cmdBusy ctx

/-- A write to a register of a launch queue (R312). -/
def State.queueWrite (s : State) (ctx q off val : Nat) : State :=
  match off with
  | 0x00 => s.lqcfg ctx q val
  | 0x08 => s.lqtail ctx q val
  | 0x10 | 0x18 => if 2 ^ 32 ≤ val then s.modQueue ctx q (fun x => { x with err := true }) else s
  | _ => s

/-- A write to offset off of the window of context n (R308, R355, R363, R369, R399, R400). -/
def State.windowWrite (s : State) (h : Fin 32) (n off : Nat) (val : Word) : State :=
  let v := val.toNat
  if off = 0x000 then
    (if (s.ctx n).regs.st == .none then s.modRegs n (fun g => { g with recAddr := v / 128 * 128 }) else s)
  else if off = 0x008 then s.ctxcmd n v
  else if off = 0x010 then s.modRegs n (fun g => { g with err := g.err && !bit v 3 })
  else if off = 0x320 then s.rimgWrite n val
  else if s.windowShut n then s
  else if 0x100 ≤ off && off < 0x300 then s.queueWrite n ((off - 0x100) / 0x20) (off % 0x20) v
  else match off with
    | 0x300 => if v % 16384 = 0 then s.modRegs n (fun g => { g with flogAddr := v }) else s
    | 0x310 => s.modRegs n (fun g => { g with rp := bit v 0 })
    | 0x328 => s.modRegs n (fun g => { g with cfie := bit v 0 })
    | 0x380 => s.modRegs n (fun g => { g with cmdest := val })
    | 0x388 => s.modRegs n (fun g => { g with cmw0 := val })
    | 0x390 => s.modRegs n (fun g => { g with cmw1 := val })
    | 0x398 => s.cmsend n (s.portTag n h)
    | 0x3A0 => s.modRegs n (fun g => { g with cmstat := g.cmstat &&& ~~~(val &&& (1#64 <<< 32)) })
    | 0x3C0 => s.modRegs n (fun g => { g with ccoff := val })
    | 0x3C8 => s.modRegs n (fun g => { g with ccdata := val })
    | 0x3D0 => if bits v 1 0 = 1 then s.ccLoad n else if bits v 1 0 = 2 then s.ccStore n (s.portTag n h) else s
    | 0x3D8 => s.modRegs n (fun g => { g with ccstat := g.ccstat &&& ~~~(val &&& 1) })
    | _ => s

/-- A write to SHCFG (R319). -/
def State.shcfgWrite (s : State) (v : Nat) : State :=
  { s with regs := { s.regs with ageq := bits v 15 0, quant := bits v 31 16, sliceq := bits v 39 32, dthr := bits v 47 40 } }

/-- A write to the crook block (R402). -/
def State.crookWrite (s : State) (off : Nat) (val : Word) : State :=
  if off < 0x200 then
    (if s.crook.stopped.getLsbD (off / 8) then s
     else { s with crook := { s.crook with owners := Tbl.put s.crook.owners (off / 8) (bits val.toNat 7 0, val.getLsbD 8) } })
  else if off = 0x200 then s.stopGroups val
  else if off = 0x208 then s.resumeGroups val
  else if 0x400 ≤ off && off < 0x500 then
    { s with crook := { s.crook with hartGrp := Tbl.put s.crook.hartGrp ((off - 0x400) / 8) val } }
  else s

/-- A write to the fabric block (R408). -/
def State.fabricWrite (s : State) (off : Nat) (val : Word) : State :=
  let v := val.toNat
  let f := s.fabric
  if off = 0x00 then
    let id := if bit f.ctl.toNat 10 || 768 ≤ bits v 9 0 then bits f.ctl.toNat 9 0 else bits v 9 0
    let since := if bit v 10 && !bit f.ctl.toNat 10 then s.ambient.time else f.since
    { s with fabric := { f with ctl := word (id + b2n (bit v 10) * 2 ^ 10), since := since } }
  else if off = 0x08 then { s with fabric := { f with rpint := word (v % 2 ^ 32) } }
  else if off = 0x10 then { s with fabric := { f with buddy := word (bits v 9 0) } }
  else if 0x1000 ≤ off then s.routeWrite ((off - 0x1000) / 16) (off % 16 = 8) val
  else s

/-- A write to the register at an offset from RSB; offsets that are not listed ignore it. The reserved bits XWIN [63:10] and
PWRLVL [63:2], to which R398 and R412 give no access code, are dropped (log 98). -/
def State.regWrite (s : State) (h : Fin 32) (off : Nat) (val : Word) : State :=
  let v := val.toNat
  let blk := off / 0x100000
  let o := off % 0x100000
  if off % 8 != 0 then s
  else if blk = 0 then (if o = 0x10 then s.featmWrite val else s)
  else if blk = 1 then
    (if o < 0x40000 then s.windowWrite h (o / 0x400) (o % 0x400) val
     else if o = 0x40000 then s.shcfgWrite v else s)
  else if blk = 2 then
    (if o % 0x40 = 0 then s.keyWrite (o / 0x40) v
     else if 0x20 ≤ o % 0x40 && o / 0x40 < 4096 && (Tbl.getD s.keys (o / 0x40) KeySlot.blank).st == .empty then
       let i := (o % 0x40 - 0x20) / 8
       s.modKey (o / 0x40) (fun e => { e with key := BitVec.ofNat 256 (setBits e.key.toNat (64 * i + 63) (64 * i) v) })
     else s)
  else if blk = 3 then
    (if o = 0x00 then s.tinvreq v
     else if o = 0x08 then { s with regs := { s.regs with tinvAddr := v / 8192 * 8192 } }
     else if o = 0x10 then { s with regs := { s.regs with tinvLen := v % 2 ^ 32 } }
     else if o = 0x18 then { s with regs := { s.regs with tinvErr := s.regs.tinvErr && !bit v 1 } }
     else s)
  else if blk = 4 then
    (if o < 0x200 then { s with croft := { s.croft with xwin := Tbl.put s.croft.xwin (o / 8) (word (bits v 9 0)) } } else s)
  else if blk = 5 then s.crookWrite o val
  else if blk = 6 then s.fabricWrite o val
  else if blk = 7 then
    (if o = 0x10 then { s with ambient := { s.ambient with pwrlvl := word (bits v 1 0) } } else s)
  else s

/-- R394 REGISTER_WRITE: an aligned 64-bit write of a hart to an address of the register space. -/
def execRegisterWrite (h : Fin 32) (loc : Nat) (val : Word) (s : State) : Host.Outcome State Fault Refusal :=
  byHart h "REGISTER_WRITE" s (if rsb ≤ loc && loc < rsb + rsbSize then s.regWrite h (loc - rsb) val else s)

/-! ## Reading registers -/

/-- CTXSTAT (R308). -/
def Ctx.stat (c : Ctx) : Nat :=
  let st := match c.regs.st with
    | .none => 0 | .live => 1 | .suspended => 2 | .tearing => 3
  st + b2n c.regs.busy * 4 + b2n c.regs.err * 8 + c.regs.reason % 256 * 2 ^ 8 + c.nres * 2 ^ 32

/-- LQCFG as it reads (R312). -/
def LaunchQueue.cfgWord (x : LaunchQueue) : Nat :=
  x.logn + b2n x.en * 2 ^ 5 + x.base + b2n x.swout * 2 ^ 53 + b2n x.err * 2 ^ 54 + b2n x.want * 2 ^ 55

/-- A read of a context window. -/
def State.windowRead (s : State) (n off : Nat) : Nat :=
  let c := s.ctx n
  let g := c.regs
  let q := s.queue n ((off - 0x100) / 0x20)
  if off = 0x000 then g.recAddr
  else if off = 0x010 then c.stat
  else if off = 0x320 then g.rimg.toNat
  else if s.windowShut n then 0
  else if 0x100 ≤ off && off < 0x300 then
    (match off % 0x20 with
     | 0x00 => q.cfgWord
     | 0x08 => q.tail
     | 0x10 => q.head
     | 0x18 => q.prog
     | _ => 0)
  else match off with
    | 0x300 => g.flogAddr
    | 0x308 => g.flogCnt + g.flogLost * 2 ^ 32
    | 0x310 => b2n g.rp
    | 0x318 => g.rpn + g.exposed * 2 ^ 32
    | 0x328 => b2n g.cfie
    | 0x380 => g.cmdest.toNat
    | 0x388 => g.cmw0.toNat
    | 0x390 => g.cmw1.toNat
    | 0x3A0 => g.cmstat.toNat
    | 0x3C0 => g.ccoff.toNat
    | 0x3C8 => g.ccdata.toNat
    | 0x3D8 => g.ccstat.toNat
    | _ => 0

/-- LIVE of a bin (R1, R396). -/
def liveTiles (bin : BitVec 2) : Nat := match bin.toNat with
  | 0 => 5120
  | 1 => 4608
  | _ => 4096

/-- IDENT (R396). -/
def State.identWord (s : State) : Nat :=
  s.modId + s.ident.bin.toNat * 2 ^ 10 + b2n s.ident.steppingB1 * 2 ^ 12 + 3 * 2 ^ 13 + liveTiles s.ident.bin * 2 ^ 16

/-- 64 flags from a number on, as a word. -/
def flagWord (f : Nat → Bool) (k : Nat) : Nat := (List.range 64).foldl (fun acc i => acc + b2n (f (64 * k + i)) * 2 ^ i) 0

/-- A read of the identity block. -/
def State.identRead (s : State) (o : Nat) : Nat :=
  if o = 0x00 then s.identWord
  else if o = 0x08 then s.featp
  else if o = 0x10 then s.ident.featm.toNat
  else if o = 0x18 then s.ident.serial.toNat % 2 ^ 64
  else if o = 0x20 then s.ident.serialHi.toNat
  else if 0x100 ≤ o && o < 0x3A0 then flagWord s.live ((o - 0x100) / 8)
  else if 0x400 ≤ o && o < 0x430 then flagWord s.foldUsable ((o - 0x400) / 8)
  else 0

/-- The 32 bytes of an error-log entry (R404). -/
def ErrEntry.bytes (e : ErrEntry) : List Byte :=
  toBytes 8 e.cycle ++ toBytes 1 e.struct_ ++ toBytes 1 e.what ++ toBytes 2 e.ctx ++ toBytes 4 e.place ++ toBytes 8 e.addr
    ++ toBytes 8 e.merged

/-- A read of the register at an offset from RSB; offsets that are not listed read zero. -/
def State.regRead (s : State) (off : Nat) : Nat :=
  let blk := off / 0x100000
  let o := off % 0x100000
  if off % 8 != 0 then 0
  else if blk = 0 then s.identRead o
  else if blk = 1 then
    (if o < 0x40000 then s.windowRead (o / 0x400) (o % 0x400)
     else if o = 0x40000 then s.regs.ageq + s.regs.quant * 2 ^ 16 + s.regs.sliceq * 2 ^ 32 + s.regs.dthr * 2 ^ 40
     else 0)
  else if blk = 2 then
    (if o % 0x40 = 0 then
       let e := Tbl.getD s.keys (o / 0x40) KeySlot.blank
       e.owner + (match e.st with | .empty => 0 | .loaded => 1 | .zeroising => 2) * 2 ^ 8
     else 0)
  else if blk = 3 then
    (if o = 0x18 then b2n s.regs.tinvBusy + b2n s.regs.tinvErr * 2 + s.regs.tinvDone * 2 ^ 32 else 0)
  else if blk = 4 then (if o < 0x200 then (Tbl.getD s.croft.xwin (o / 8) 0).toNat else 0)
  else if blk = 5 then
    (if o < 0x200 then
       let (c, b) := Tbl.getD s.crook.owners (o / 8) (0, true)
       c + b2n b * 2 ^ 8
     else if o = 0x210 then s.crook.stopped.toNat
     else if 0x400 ≤ o && o < 0x500 then (Tbl.getD s.crook.hartGrp ((o - 0x400) / 8) 0).toNat
     else 0)
  else if blk = 6 then
    (if o = 0x00 then s.fabric.ctl.toNat
     else if o = 0x08 then s.fabric.rpint.toNat
     else if o = 0x10 then s.fabric.buddy.toNat
     else if o = 0x18 then s.fabric.portUp.toNat
     else if 0x1000 ≤ o && o < 0x4000 then
       (Tbl.getD s.fabric.routes (2 * ((o - 0x1000) / 16) + o % 16 / 8) 0).toNat
     else 0)
  else if blk = 7 then
    (if o = 0x00 then elogBase + s.modId * 2 ^ 54
     else if o = 0x08 then s.croft.elogCnt
     else if o = 0x10 then s.ambient.pwrlvl.toNat
     else 0)
  else 0

/-- A byte of the error log's ring (R404); an entry that has not been written reads as zero. -/
def State.elogByte (s : State) (k : Nat) : Byte :=
  match Tbl.find? s.croft.elog (k / 32) with
  | some e => e.bytes.getD (k % 32) 0
  | none => 0

/-- A read of n bytes of the ring. -/
def State.elogRead (s : State) (loc n : Nat) : Nat := ofBytes ((List.range n).map (fun i => s.elogByte (loc - elogBase + i)))

/-! ## CROFT_MEMORY_ACCESS (R398, R280, R395) -/

/-- Where a croft physical address leads: an address of this module, another module, an access fault, or nowhere. -/
inductive CroftPlace where
  | here (loc : Nat)
  | there (loc : Nat)
  | denied
  | nowhere
  deriving DecidableEq, Repr, Inhabited

/-- R398: PA[55] and the windows. A request to a module without a route is denied as R408 has it: it faults. -/
def State.croftPlace (s : State) (h : Fin 32) (pa : Nat) : CroftPlace :=
  let loc := pa % 2 ^ 54
  if 2 ^ 56 ≤ pa then .nowhere
  else if !bit pa 55 then (if bit pa 54 then .denied else .here loc)
  else
    let m := (Tbl.getD s.croft.xwin (2 * h.val + b2n (bit pa 54)) 0).toNat
    if m = s.modId then .here loc else if s.routed m then .there loc else .denied

/-- Is the address in the register space? -/
def inRegs (loc : Nat) : Bool := rsb ≤ loc && loc < rsb + rsbSize

/-- Is the address in rim memory? -/
def inRim (loc n : Nat) : Bool := loc + n ≤ rimSize

/-- A load's value: none where the access faults. Register space of another module reads zero; its memory, and a poisoned
burst, read an open value. -/
def State.croftLoad (s : State) (h : Fin 32) (pa n : Nat) : Option Word :=
  let open_ : Word := word ((openAt s.tick 6 pa).toNat % 2 ^ (8 * n))
  match s.croftPlace h pa with
  | .denied | .nowhere => none
  | .here loc =>
    if inRim loc n then some (if s.rimPoisoned loc n then open_ else word (s.rimRead loc n))
    else if inElog loc n then some (word (s.elogRead loc n))
    else if inRegs loc then some (if n = 8 && loc % 8 = 0 then word (s.regRead (loc - rsb)) else 0)
    else none
  | .there loc => if inRim loc n then some open_ else if inRegs loc then some 0 else none

/-- A store: none where the access faults. What it writes in another module is not this module's state. -/
def State.croftStore (s : State) (h : Fin 32) (pa n : Nat) (val : Word) : Option State :=
  match s.croftPlace h pa with
  | .denied | .nowhere => none
  | .here loc =>
    if inRim loc n then some (s.rimWrite loc n val.toNat)
    else if inRegs loc then some (if n = 8 && loc % 8 = 0 then s.regWrite h (loc - rsb) val else s)
    else none
  | .there loc => if inRim loc n || inRegs loc then some s else none

/-- An access that reaches nothing: the hart takes an access fault where R398 or R408 says so; at an address where the spec
puts nothing the machine stops. -/
def State.croftFault (s : State) (h : Fin 32) (pa : Nat) : Host.Outcome State Fault Refusal :=
  if s.croftPlace h pa == .denied then
    .next { s with croft := { s.croft with faulted := setIns s.croft.faulted h.val } }
  else .fault .croftAccess

/-- A write that leaves the recovery domain (R365): an immediate one is released and logged with the number of the last
committed point (0 before any); another waits in the egress buffer, and a full buffer stalls the hart. -/
def State.outside (s : State) (ctx : Nat) (immediate : Bool) (val : Word) : Option State :=
  let w : OutWrite := ⟨ctx, s.recovery.rpn, (s.recovery.committed.map Snapshot.rpn).getD 0, val⟩
  if immediate then
    some { s with croft := { s.croft with released := s.croft.released ++ [val], immediates := s.croft.immediates ++ [w] } }
  else if s.croft.egress.length < Config.egressRoom then some { s with croft := { s.croft with egress := s.croft.egress ++ [w] } }
  else none

/-- R398 CROFT_MEMORY_ACCESS. A FENCE orders the hart's accesses, which are performed in order here, and tags the port writes
after it (R399). A hart in debug mode makes no access. -/
def execCroftMemoryAccess (h : Fin 32) (op : CroftOp) (s : State) : Host.Outcome State Fault Refusal :=
  if !s.hartActs h then .refused (.notEnabled "CROFT_MEMORY_ACCESS")
  else
    let s := { s with croft := { s.croft with faulted := setDel s.croft.faulted h.val } }
    match op with
    | .load pa n => match s.croftLoad h pa.toNat n with
      | some x => .next { s with croft := { s.croft with loads := Tbl.put s.croft.loads h.val x } }
      | none => s.croftFault h pa.toNat
    | .store pa n val => match s.croftStore h pa.toNat n val with
      | some s => .next s
      | none => s.croftFault h pa.toNat
    | .fence _ w _ _ => .next (if w then { s with croft := { s.croft with fenced := setIns s.croft.fenced h.val } } else s)
    | .outside ctx immediate val => match s.outside ctx immediate val with
      | some s => .next s
      | none => .refused (.notEnabled "CROFT_MEMORY_ACCESS")

end Sys2Proof.Machine
end

