-- ==== Sys2Proof/Machine/Halt.lean ====
section
/-!
DEFINITION. Halt groups reaching their members (R361, R362).
-/
namespace Sys2Proof.Machine

/-- The groups that a member belongs to. -/
def State.groupsOf (s : State) (t : HaltTarget) : Word :=
  match t with
  | .vtile v => (s.vt v).hgroups
  | .hart h => Tbl.getD s.crook.hartGrp h.val 0

/-- Is the member halted? -/
def State.haltedNow (s : State) (t : HaltTarget) : Bool :=
  match t with
  | .vtile v => (s.vt v).halted
  | .hart h => setHas s.crook.hartHalted h.val

/-- Is the member there? -/
def State.targetThere (s : State) (t : HaltTarget) : Bool :=
  match t with
  | .vtile v => s.hasVt v
  | .hart _ => true

/-- Does one of the member's groups stand stopped? -/
def State.groupStopped (s : State) (t : HaltTarget) : Bool := (s.groupsOf t &&& s.crook.stopped) != 0

/-- Does a stop take effect now? -/
def State.haltsNow (s : State) (t : HaltTarget) : Bool :=
  s.targetThere t && !s.haltedNow t && s.groupStopped t && (match t with
    | .vtile v => !s.midPair v
    | .hart _ => true)

/-- The debug halt of a croft hart, which no group of it has asked for, stops its groups (R361). -/
def State.debugHalt (s : State) (t : HaltTarget) : Option State :=
  match t with
  | .hart h =>
    if s.haltedNow t || s.groupStopped t then none
    else some { s.stopGroups (s.groupsOf t) with crook := { (s.stopGroups (s.groupsOf t)).crook with
      hartHalted := setIns s.crook.hartHalted h.val } }
  | .vtile _ => none

/-- R361 HALT_STOP: a stop reaches a member, or a croft hart's debugger halts it. A hart that halts enters debug mode, in
which it does nothing (R402). -/
def execHaltStop (t : HaltTarget) (s : State) : Host.Outcome State Fault Refusal :=
  if s.haltsNow t then
    .next (match t with
      | .vtile v => (s.modVt v (fun x => { x with halted := true })).suspendCheck v.ctx
      | .hart h => { s with crook := { s.crook with hartHalted := setIns s.crook.hartHalted h.val } })
  else match s.debugHalt t with
    | some s => .next s
    | none => .refused (.notEnabled "HALT_STOP")

/-- R361, R362 HALT_RESUME: the last of the member's stopped groups has been resumed; a vtile's parked messages re-enter. -/
def execHaltResume (t : HaltTarget) (s : State) : Host.Outcome State Fault Refusal :=
  if s.targetThere t && s.haltedNow t && !s.groupStopped t then
    .next (match t with
      | .vtile v => (s.modVt v (fun x => { x with halted := false })).penResume v
      | .hart h => { s with crook := { s.crook with hartHalted := setDel s.crook.hartHalted h.val } })
  else .refused (.notEnabled "HALT_RESUME")

end Sys2Proof.Machine
end

