-- ==== Sys2Proof/Machine/Recovery.lean ====
section
/-!
DEFINITION. Recovery points and rollbacks (R363 to R367). The other modules of the domain, and the mirror in the buddy
module, are outside; what this module captures, commits and restores is here.
-/
namespace Sys2Proof.Machine

/-! ## RECOVERY_POINT_CUT (R364, R410) -/

/-- Cycles of a millisecond. -/
def msCycles : Nat := 1250000

/-- RPINT in cycles. -/
def State.cutPeriod (s : State) : Nat := s.fabric.rpint.toNat * msCycles

/-- The latest multiple of RPINT from the moment FABEN was set. -/
def State.cutTime (s : State) : Nat :=
  s.fabric.since + (s.ambient.time - s.fabric.since) / s.cutPeriod * s.cutPeriod

/-- Is a cut due: FABEN set, RPINT nonzero, and a multiple of it passed since the latest cut? A cut waits until the point before
it has committed (R365). -/
def State.cutDue (s : State) : Bool :=
  bit s.fabric.ctl.toNat 10 && s.fabric.rpint != 0 && s.fabric.since + s.cutPeriod ≤ s.ambient.time
    && s.recovery.lastCut < s.cutTime && s.recovery.pending.isNone

/-- Does a step answer a next state? -/
def answers (o : Host.Outcome State Fault Refusal) : Bool :=
  match o with
  | .next _ => true
  | _ => false

/-- Has a copy of a vtile a step that it can take? -/
def State.copyMoves (s : State) (v : VRef) (c : Copy) : Bool :=
  let q := BitVec.ofNat 32 c.cseq
  let n := c.idxSegs.length + c.segs.length
  !c.finished && ((List.range n).any (fun k => (s.toTranslate v (.copy q) k).isSome || (s.toLand v (.copy q) k).isSome)
    || c.idxReady.isSome || (s.toReserve v c.cseq).isSome)

/-- Can a message be delivered now? -/
def State.msgMoves (s : State) (ctx : Nat) (m : Msg) : Bool :=
  match s.msgOf ctx m.id with
  | some (_, m) => s.msgReady ctx m
  | none => false

/-- Can the head of a slot's store buffer be performed in commons? -/
def State.storeMoves (s : State) (r : SRef) : Bool :=
  match (s.slot r).sb.head? with
  | some e => e.kind == .cSt && s.active r.vt && s.sbReady r e
  | none => false

/-- Has a context come to rest: no copy, commons operation or message of an engine can move, and no flock is in transit? What
waits on a fault, or behind what does, is captured where it stands (R364). -/
def State.atRest (s : State) (ctx : Nat) : Bool :=
  let c := s.ctx ctx
  !c.bankOps.any (s.bankReady ctx) && !c.msgs.any (s.msgMoves ctx) && c.misses.isEmpty
    && !c.vts.any (fun p => (List.finRange 8).any (fun k => s.storeMoves ⟨⟨ctx, p.1⟩, k⟩))
    && c.flocks.all (fun p => p.2.st != .goingIn && p.2.st != .goingOut)
    && c.vts.all (fun p => p.2.copies.all (fun k => !s.copyMoves ⟨ctx, p.1⟩ k))

/-- The contexts that take recovery points. -/
def State.rpCtxs (s : State) : Tbl Ctx := s.ctxs.filter (fun p => p.2.regs.rp && p.2.regs.st != .none && p.2.regs.st != .tearing)

/-- Clear D in the entries of a page table, from a level down (R364). -/
def State.clearD (s : State) : (fuel lvl at_ : Nat) → State
  | 0, _, _ => s
  | k + 1, lvl, at_ =>
    (List.range 1024).foldl (fun s i =>
      match s.home (at_ + 8 * i) with
      | .rim a =>
        let e := s.rimRead a 8
        if !pteV e then s
        else if pteLeaf e then (if pteD e then s.rimWrite a 8 (setBits e 9 9 0) else s)
        else s.clearD k (lvl + 1) (pteAddr e)
      | _ => s) s

/-- Clear the D bits of a context's final stage, and of the translations that are held. -/
def State.clearDirty (s : State) (ctx : Nat) : State :=
  let d := (s.ctx ctx).desc
  let s := s.clearD 4 0 (if d.s2en then d.s2root else d.s1root)
  { s with folds := s.folds.map (fun p => (p.1, { p.2 with
      tlb := p.2.tlb.map (fun e => if e.ctx == ctx || e.vmid == d.vmid then { e with d := false } else e) })) }

/-- What a point captures. -/
def State.capture (s : State) (n : Nat) : Snapshot :=
  { rpn := n, headers := s.rpCtxs.map (fun p => (p.1, s.imageHeader p.2 n)), ctxs := s.rpCtxs, tiles := s.tiles, rim := s.rim, keys := s.keys, croft := s.croft, regs := s.regs,
    crook := s.crook, kernels := s.kernels }

/-- R364 RECOVERY_POINT_CUT: first the participating contexts stop; when all of them are at rest, the point is captured and
they go on. -/
def execRecoveryPointCut (s : State) : Host.Outcome State Fault Refusal :=
  if s.recovery.cutting then
    if s.rpCtxs.all (fun p => s.atRest p.1) then
      let n := s.recovery.rpn + 1
      let s := { s with recovery := { s.recovery with cutting := false, rpn := n, pending := some (s.capture n) } }
      .next (s.rpCtxs.foldl (fun s p => s.clearDirty p.1) s)
    else .refused (.notEnabled "RECOVERY_POINT_CUT")
  else if s.cutDue then
    .next { s with recovery := { s.recovery with cutting := true, lastCut := s.cutTime } }
  else .refused (.notEnabled "RECOVERY_POINT_CUT")

/-! ## POINT_COMMIT (R365) -/

/-- R365 POINT_COMMIT: the point replaces the one before it, and egress writes issued before its cut are released. -/
def execPointCommit (s : State) : Host.Outcome State Fault Refusal :=
  match s.recovery.pending with
  | none => .refused (.notEnabled "POINT_COMMIT")
  | some p =>
    let s := { s with
      recovery := { s.recovery with committed := some p, pending := none }
      croft := { s.croft with
        egress := s.croft.egress.filter (fun e => p.rpn ≤ e.cut)
        released := s.croft.released ++ (s.croft.egress.filter (fun e => e.cut < p.rpn)).map OutWrite.val
        immediates := s.croft.immediates.filter (fun e => p.rpn ≤ e.cut) } }
    .next (p.ctxs.foldl (fun s c => s.inCtx c.1 (fun x => { x with regs := { x.regs with rpn := p.rpn } })) s)

/-! ## ROLLBACK (R366, R367) -/

/-- Tear a context down at once. -/
def State.tearWhole (s : State) (ctx cause : Nat) : State := (s.tearStart ctx cause).tearEnd ctx

/-- The number of immediate writes that a context issued after the cut: those of before it were dropped at its commit. -/
def State.exposedOf (s : State) (ctx : Nat) : Nat := s.croft.immediates.countP (fun e => e.ctx == ctx)

/-- A context resumes at the cut, and its supervisor port hears of it. -/
def State.resumeAt (s : State) (p : Snapshot) (ctx n : Nat) : State :=
  let s := s.inCtx ctx (fun c => { c with regs := { c.regs with rpn := p.rpn, exposed := min n 0xFFFF } })
  s.postSup ctx 0xFFFFFF 0 0 0x2A [word p.rpn, word n]

/-- The state at the committed point. What lies outside the recovery domain stays: the fabric, the identity, the error
log. -/
def State.reload (s : State) (p : Snapshot) (keep : Nat → Bool) : State :=
  let gone (v : Option VRef) : Option VRef := if v.any (fun v => keep v.ctx) then v else none
  { s with
    ctxs := (p.ctxs.filter (fun c => keep c.1)).foldl (fun t c => Tbl.put t c.1 c.2) (s.ctxs.filter (fun c => !keep c.1))
    tiles := p.tiles.map (fun x => (x.1, { x.2 with
      bank0 := gone x.2.bank0, bank1 := gone x.2.bank1, icache := [], itlb := [] }))
    folds := s.folds.map (fun x => (x.1, { x.2 with tlb := [] }))
    rim := p.rim
    keys := (p.keys.filter (fun k => keep k.2.owner)).foldl (fun t k => Tbl.put t k.1 k.2) s.keys
    regs := p.regs
    crook := p.crook
    kernels := p.kernels
    croft := { p.croft with elog := s.croft.elog, elogCnt := s.croft.elogCnt, irqs := s.croft.irqs,
                            exposedLog := s.croft.exposedLog, released := s.croft.released, immediates := [], egress := [] } }

/-- R366, R367 ROLLBACK: contexts that take no points are torn down, the others resume at the committed point, and those
that it does not hold were not there. -/
def execRollback (s : State) : Host.Outcome State Fault Refusal :=
  let alive := (s.ctxs.filter (fun c => c.2.regs.st != .none)).map Prod.fst
  let held := match s.recovery.committed with
    | some p => (p.ctxs.map Prod.fst).filter (fun n => (s.ctx n).regs.rp)
    | none => []
  let counts : List (Nat × Nat) := held.map (fun n => (n, s.exposedOf n))
  let logged := s.croft.immediates
  let s := (alive.filter (fun n => !held.contains n)).foldl (fun s n => s.tearWhole n 0x15) s
  let s := { s with
    inputs := s.inputs.filter (fun i => match i with
      | .teardown _ cause => cause.toNat == 0x10
      | _ => true)
    recovery := { s.recovery with pending := none, cutting := false } }
  let s := match s.recovery.committed with
    | none => { s with croft := { s.croft with egress := [] } }
    | some p =>
      let s := s.reload p (fun n => held.contains n)
      let s := counts.foldl (fun (s : State) (c : Nat × Nat) => s.resumeAt p c.1 c.2) s
      { s with
        recovery := { s.recovery with rpn := p.rpn }
        croft := { s.croft with exposedLog := s.croft.exposedLog ++ logged } }
  .next (s.raiseIrq 3)

end Sys2Proof.Machine
end

