-- ==== Sys2Proof/Machine/Boot.lean ====
section
/-!
DEFINITION. Boot, firmware and measurement (R405 to R407), the error events of R359 and R360, and background activity
(R411 to R413).
-/
namespace Sys2Proof.Machine

/-! ## Images (R405) -/

/-- A field of an image header. -/
def imgField (img : List Byte) (off n : Nat) : List Byte := (img.drop off).take n

/-- LEN, the body, and SVN of an image. -/
def imgLen (img : List Byte) : Nat := ofBytes (imgField img 8 8)
def imgBody (img : List Byte) : List Byte := (img.drop 256).take (imgLen img)
def imgSvn (img : List Byte) : Nat := ofBytes (imgField img 4 4)
def imgDigest (img : List Byte) : List Byte := imgField img 16 64

/-- The four conditions of R405. -/
def Ident.verifies (d : Ident) (img : List Byte) : Bool :=
  256 ≤ img.length && imgDigest img == shake256 (imgBody img) 64
    && ed448Holds d.publicKey (img.take 80) (imgField img 80 114)
    && d.minSvn ≤ imgSvn img && (imgField img 194 62).all (fun b => b == 0)

/-- The folds whose pasture passes the test at boot: what the test finds is the part's own (log 4). -/
def foundFolds (tick : Nat) : List Nat := (List.range 336).filter (fun f => (openAt tick 13 f).getLsbD 0)

/-- The module started with an image (R406 step 4): everything zeroised, every key slot EMPTY. Rim memory is not
zeroised. -/
def State.start (s : State) (img : List Byte) (fromB : Bool) : State :=
  { State.reset with
    rim := s.rim, inputs := s.inputs, tick := s.tick
    ident := { s.ident with
      featm := 0, runningB := fromB, booted := true, m0 := BitVec.ofNat 512 (ofBytes (imgDigest img)), m1 := 0,
      deadFolds := foundFolds s.tick, report := [] } }

/-- Boot from slot A, else from slot B, else wait for an image (R406 steps 1 to 3), a stop past a trip point behind it (R413). -/
def State.bootRun (s : State) : State :=
  if s.ident.verifies s.ident.slotA then s.start s.ident.slotA false
  else if s.ident.verifies s.ident.slotB then s.start s.ident.slotB true
  else { s with ident := { s.ident with booted := false }, ambient := { s.ambient with tripped := [] } }

/-- R406 BOOT. -/
def execBoot (s : State) : Host.Outcome State Fault Refusal := .next s.bootRun

/-- R406 FIRMWARE_UPDATE: the inactive slot of a booted module is written; one that waits for an image takes the first that
verifies into slot A and boots again. -/
def execFirmwareUpdate (image : List Byte) (s : State) : Host.Outcome State Fault Refusal :=
  if s.ident.booted then
    .next { s with ident := if s.ident.runningB then { s.ident with slotA := image } else { s.ident with slotB := image } }
  else if s.ident.verifies image then .next ({ s with ident := { s.ident with slotA := image } } : State).bootRun
  else .next s

/-- The image that runs. -/
def Ident.running (d : Ident) : List Byte := if d.runningB then d.slotB else d.slotA

/-- R406 SVN_RAISE: the fused minimum only rises, and only to the SVN of the running image. -/
def execSvnRaise (s : State) : Host.Outcome State Fault Refusal :=
  .next (if s.ident.booted then
      { s with ident := { s.ident with minSvn := max s.ident.minSvn (imgSvn s.ident.running) } }
    else s)

/-- R406 LOADER_MEASUREMENT: M1 (step 5). -/
def execLoaderMeasurement (digest : LineWord) (s : State) : Host.Outcome State Fault Refusal :=
  .next (if s.ident.booted then { s with ident := { s.ident with m1 := digest } } else s)

/-- M2 (R407): over FABCTL and the routing entries. -/
def State.m2 (s : State) : List Byte :=
  shake256 (toBytes 8 s.fabric.ctl.toNat
    ++ (List.range 1536).flatMap (fun i => toBytes 8 (Tbl.getD s.fabric.routes i 0).toNat)) 64

/-- Bytes 0 to 263 of a report (R407). -/
def State.reportHead (s : State) (nonce : BitVec 256) : List Byte :=
  toBytes 4 0x54415850 ++ toBytes 4 s.modId ++ toBytes 8 s.ident.serial.toNat ++ toBytes 8 s.ident.serialHi.toNat
    ++ toBytes 8 s.identWord ++ toBytes 8 s.featp ++ toBytes 32 nonce.toNat ++ toBytes 64 s.ident.m0.toNat
    ++ toBytes 64 s.ident.m1.toNat ++ s.m2

/-- R407 ATTESTATION_REPORT. -/
def execAttestationReport (nonce : BitVec 256) (s : State) : Host.Outcome State Fault Refusal :=
  let head := s.reportHead nonce
  .next { s with ident := { s.ident with report := head ++ ed448Sign s.ident.identKey (shake256 head 64) } }

/-! ## Errors (R359) -/

/-- Structure numbers of the error log, in the row order of R359, and the site or fold of a target. -/
def errStruct : ErrTarget → Nat
  | .scratchpad _ _ => 0 | .bstore _ _ _ => 1 | .commons _ _ => 2 | .rim _ => 3 | .slotState _ => 4
  | .vtileState _ => 5 | .icache _ _ _ => 6 | .shepherdState _ => 7 | .croft => 8

/-- Log an event at a target: what 0 corrected, 1 uncorrectable. -/
def State.logAt (s : State) (t : ErrTarget) (what : Nat) : State :=
  let k := errStruct t
  match t with
  | .scratchpad v a => s.logError k what v.ctx (s.vt v).site (a / 8 * 8)
  | .bstore v col off => s.logError k what v.ctx (s.vt v).site (bsKey col off)
  | .commons c a => s.logError k what c (bankSite ((s.ctx c).bankOf a)) a
  | .rim a => s.logError k what 0xFFFF 0 (a / 64 * 64)
  | .slotState r => s.logError k what r.vt.ctx (s.vt r.vt).site r.slot.val
  | .vtileState v => s.logError k what v.ctx (s.vt v).site 0
  | .icache n c l => s.logError k what c n (64 * l)
  | .shepherdState c => s.logError k what (c.getD 0xFFFF) 0 0
  | .croft => s.logError k what 0xFFFF 0 0

/-- A rollback is to follow (R366). -/
def State.startRollback (s : State) : State := { s with inputs := .rollback :: s.inputs }

/-- Record a correctable mark at a key, unless the place is marked already. -/
def Tbl.mark {α : Type} (l : Tbl α) (k : Nat) (a : α) : Tbl α := if (Tbl.find? l k).isSome then l else Tbl.put l k a

/-- A correctable error: it waits for its next reader or the scrubber where one of them can meet it. -/
def State.softCorrectable (s : State) (t : ErrTarget) : State :=
  match t with
  | .scratchpad v a => s.modVt v (fun x => { x with marks := Tbl.mark x.marks (a / 8) .correctable })
  | .bstore v col off => s.modVt v (fun x => { x with mx := { x.mx with bpoison := Tbl.mark x.mx.bpoison (bsBit col off 0) false } })
  | .commons c a => s.inCtx c (fun x => { x with cmarks := Tbl.mark x.cmarks (a / 64) .correctable })
  | .rim a => { s with rim := { s.rim with weak := setIns s.rim.weak (a / 64) } }
  | .icache n c l => s.modTile n (fun x => { x with icache := x.icache.map (fun e =>
      if e.ctx == c && e.line == l then { e with data := e.data ^^^ 1 } else e) })
  | _ => s.logAt t 0

/-- An uncorrectable error (R359). -/
def State.softFatal (s : State) (t : ErrTarget) : State :=
  match t with
  | .scratchpad v a => s.modVt v (fun x => { x with marks := Tbl.put x.marks (a / 8) .poison })
  | .bstore v col off => s.modVt v (fun x => { x with mx := { x.mx with bpoison := markLine x.mx.bpoison (bsKey col off) } })
  | .commons c a => s.inCtx c (fun x => { x with cmarks := Tbl.put x.cmarks (a / 64) .poison })
  | .rim a => { s with rim := { s.rim with poison := setIns s.rim.poison (a / 64), weak := setDel s.rim.weak (a / 64) } }
  | .slotState r => (s.logAt t 1).slotLost r
  | .vtileState v => (s.logAt t 1).startTeardown v.ctx 0x14
  | .icache n c l => s.modTile n (fun x => { x with icache := x.icache.map (fun e =>
      if e.ctx == c && e.line == l then { e with data := e.data ^^^ 1 } else e) })
  | .shepherdState c => match c with
    | some c => (s.logAt t 1).startTeardown c 0x14
    | none => (s.logAt t 1).startRollback
  | .croft => (s.logAt t 1).startRollback

/-- R359 SOFT_ERROR. -/
def execSoftError (t : ErrTarget) (uncorrectable : Bool) (s : State) : Host.Outcome State Fault Refusal :=
  .next (if uncorrectable then s.softFatal t else s.softCorrectable t)

/-- Does a byte of the B-store hold an error, uncorrectable or not? -/
def Matrix.byteMarked (m : Matrix) (col off : Nat) (fatal : Bool) : Bool :=
  (List.range 8).any (fun i => Tbl.find? m.bpoison (bsBit col off i) == some fatal)

/-- R359 SCRUB: a corrected word is written back and logged; an uncorrectable one is logged, and a commons line
condemned. -/
def State.scrubAt (s : State) (t : ErrTarget) : State :=
  match t with
  | .scratchpad v a => match Tbl.find? (s.vt v).marks (a / 8) with
    | some .correctable => (s.logAt t 0).modVt v (fun x => { x with marks := Tbl.del x.marks (a / 8) })
    | some .poison => s.logAt t 1
    | none => s
  | .bstore v col off =>
    let m := (s.vt v).mx
    if m.byteMarked col off true then s.logAt t 1
    else if m.byteMarked col off false then
      (s.logAt t 0).modVt v (fun x => { x with mx := { x.mx with
        bpoison := (List.range 8).foldl (fun m i => Tbl.del m (bsBit col off i)) x.mx.bpoison } })
    else s
  | .commons c a => if (Tbl.find? (s.ctx c).cmarks (a / 64)).isSome then (s.readCommons c a) else s
  | .rim a =>
    if setHas s.rim.poison (a / 64) then s.logAt t 1
    else if setHas s.rim.weak (a / 64) then
      let s := s.logAt t 0
      { s with rim := { s.rim with weak := setDel s.rim.weak (a / 64) } }
    else s
  | _ => s

/-- R359 SCRUB. -/
def execScrub (t : ErrTarget) (s : State) : Host.Outcome State Fault Refusal := .next (s.scrubAt t)

/-! ## Links (R360, R408, R409) -/

/-- Does the loss of a port leave a valid route's set of ports that are up empty, which was not before (R409)? -/
def State.losesRoute (s : State) (p : Nat) : Bool :=
  (List.range 768).any (fun m =>
    let set := Tbl.getD s.fabric.routes (2 * m) 0 &&& s.fabric.portUp
    (Tbl.getD s.fabric.routes (2 * m + 1) 0).getLsbD 0 && set != 0 && (set &&& ~~~(1#64 <<< p)) == 0)

/-- A link is retired. A fabric port leaves PORTUP, and a route left empty is followed by a rollback; whether the mesh has
another way round one of its links the spec does not say. -/
def State.retireLink (s : State) (link : Nat) (port : Option (Fin 64)) : State :=
  let s := s.logError 9 2 0xFFFF link 0
  match port with
  | some p =>
    let lost := s.losesRoute p.val
    let s := { s with fabric := { s.fabric with portUp := s.fabric.portUp &&& ~~~(1#64 <<< p.val) } }
    let s := s.raiseIrq 3
    if lost then s.startRollback else s
  | none =>
    let s := { s with fabric := { s.fabric with linksDown := setIns s.fabric.linksDown link } }
    let s := s.raiseIrq 3
    if (openAt s.tick 14 0).getLsbD 0 then s else s.startRollback

/-- R360 LINK_FLIT_RETRY: a flit is resent up to eight times; a link that fails beyond that is retired. -/
def execLinkFlitRetry (link : Nat) (port : Option (Fin 64)) (fails : Nat) (s : State) : Host.Outcome State Fault Refusal :=
  .next (if 8 < fails then s.retireLink link port else s)

/-- R411 MESH_LINK_CALIBRATION adds latency only. -/
def execMeshLinkCalibration (_link : Nat) (s : State) : Host.Outcome State Fault Refusal := .next s

/-- R411 FABRIC_LANE_CALIBRATION adds latency only. -/
def execFabricLaneCalibration (_port : Fin 64) (s : State) : Host.Outcome State Fault Refusal := .next s

/-- R408 LINK_UP. -/
def execLinkUp (port : Fin 64) (s : State) : Host.Outcome State Fault Refusal :=
  .next { s with fabric := { s.fabric with portUp := s.fabric.portUp ||| (1#64 <<< port.val) } }

/-! ## Power, heat, refresh (R411 to R413) -/

/-- R411 TELEMETRY_SAMPLE changes nothing that programs or the croft see. -/
def execTelemetrySample (s : State) : Host.Outcome State Fault Refusal := .next s

/-- R412 POWER_THROTTLE inserts idle cycles: timing only. -/
def execPowerThrottle (s : State) : Host.Outcome State Fault Refusal := .next s

/-- R413 THERMAL_THROTTLE: idle cycles, and an entry of the error log. -/
def execThermalThrottle (field : Nat) (s : State) : Host.Outcome State Fault Refusal :=
  .next (s.logError 10 3 0xFFFF field 0)

/-- R413 THERMAL_TRIP: the module stops. -/
def execThermalTrip (field : Nat) (s : State) : Host.Outcome State Fault Refusal :=
  let s := s.logError 10 4 0xFFFF field 0
  .next { s with ambient := { s.ambient with tripped := setIns s.ambient.tripped field } }

/-- R411 HBM4E_REFRESH adds latency only. -/
def execHbm4eRefresh (_stack : Fin 32) (s : State) : Host.Outcome State Fault Refusal := .next s

end Sys2Proof.Machine
end

