-- ==== Sys2Proof/Machine/Container.lean ====
section
/-!
DEFINITION. Twiuster containers: the header and the tables (R371, R372, R374, R375, R381), relocation records (R106),
metadata records (R104, R105), and the lifetime and determinism classes of a text (R71, R77, R98, R379, R391).
-/
namespace Sys2Proof.Machine

/-- A little-endian field of a file. -/
def fld (b : List Byte) (off n : Nat) : Nat := ofBytes ((b.drop off).take n)

/-- Does a table of n entries of a size lie in the file? -/
def tableFits (b : List Byte) (off n size : Nat) : Bool := off + n * size ≤ b.length

/-- A relocation record (R106). -/
structure Rel where
  offset : Nat
  kind : Nat
  field : Nat
  rsv : Nat
  sym : Nat
  addend : Int
  deriving DecidableEq, Repr, Inhabited

/-- A section (R372). -/
structure Sec where
  idx : Nat
  kind : Nat
  align : Nat
  unit : Nat
  size : Nat
  pref : Nat
  data : List Byte
  rels : List Rel
  deriving DecidableEq, Repr, Inhabited

/-- A symbol (R374), with its name. -/
structure Sym where
  name : List Byte
  sect : Nat
  skind : Nat
  value : Nat
  deriving DecidableEq, Repr, Inhabited

/-- An image-table entry (R375). -/
structure Img where
  idx : Nat
  unit : Nat
  prefer : Nat
  gen : Nat
  step : Nat
  cls : Nat
  req : Nat
  ops : Nat
  deriving DecidableEq, Repr, Inhabited

/-- A function entry (R375). -/
structure Fn where
  firstImg : Nat
  nImg : Nat
  firstPf : Nat
  nPf : Nat
  deriving DecidableEq, Repr, Inhabited

/-- A portable entry (R381). -/
structure PfEntry where
  sect : Nat
  level : Nat
  formv : Nat
  rsv : Nat
  xsect : Nat
  deriving DecidableEq, Repr, Inhabited

/-- A container as the loader reads it. -/
structure Cont where
  secs : List Sec
  syms : List Sym
  fns : List Fn
  imgs : List Img
  pfs : List PfEntry
  deriving DecidableEq, Repr, Inhabited

def readRel (b : List Byte) (o : Nat) : Rel :=
  { offset := fld b o 8, kind := fld b (o + 8) 1, field := fld b (o + 9) 1, rsv := fld b (o + 10) 2,
    sym := fld b (o + 12) 4, addend := sext (fld b (o + 16) 8) 64 }

def readSec (b : List Byte) (i o : Nat) : Sec :=
  { idx := i, kind := fld b (o + 4) 1, align := fld b (o + 5) 1, unit := fld b (o + 6) 2, size := fld b (o + 16) 8,
    pref := fld b (o + 24) 8, data := (b.drop (fld b (o + 8) 8)).take (fld b (o + 16) 8),
    rels := (List.range (fld b (o + 40) 4)).map (fun k => readRel b (fld b (o + 32) 8 + 24 * k)) }

/-- The name at an offset of the string table: the bytes before the first NUL from there on; none where the file ends
first (R371). -/
def nameAt (b : List Byte) (off : Nat) : Option (List Byte) :=
  let from_ := b.drop (fld b 48 8 + off)
  let name := from_.takeWhile (fun x => x != 0)
  if name.length < from_.length then some name else none

/-- Is a string UTF-8? `more` bytes are still to come of the character that was begun, the next one between lo and hi. -/
def utf8Ok : (more lo hi : Nat) → List Byte → Bool
  | more, _, _, [] => more == 0
  | 0, _, _, b :: bs =>
    let x := b.toNat
    if x < 0x80 then utf8Ok 0 0 0 bs
    else if 0xC2 ≤ x && x ≤ 0xDF then utf8Ok 1 0x80 0xBF bs
    else if 0xE0 ≤ x && x ≤ 0xEF then utf8Ok 2 (if x = 0xE0 then 0xA0 else 0x80) (if x = 0xED then 0x9F else 0xBF) bs
    else if 0xF0 ≤ x && x ≤ 0xF4 then utf8Ok 3 (if x = 0xF0 then 0x90 else 0x80) (if x = 0xF4 then 0x8F else 0xBF) bs
    else false
  | more + 1, lo, hi, b :: bs => decide (lo ≤ b.toNat) && decide (b.toNat ≤ hi) && utf8Ok more 0x80 0xBF bs

/-- Is there no name at an offset of the string table? -/
def nameBad (b : List Byte) (off : Nat) : Bool :=
  match nameAt b off with
  | some n => !utf8Ok 0 0 0 n
  | none => true

def readSym (b : List Byte) (o : Nat) : Sym :=
  ⟨(nameAt b (fld b o 4)).getD [], fld b (o + 4) 2, fld b (o + 6) 1, fld b (o + 8) 8⟩

def readImg (b : List Byte) (i o : Nat) : Img :=
  { idx := i, unit := fld b o 2, prefer := fld b (o + 2) 1, gen := fld b (o + 3) 1, step := fld b (o + 4) 1,
    cls := fld b (o + 5) 1, req := fld b (o + 8) 8, ops := fld b (o + 16) 4 }

def readFn (b : List Byte) (o : Nat) : Fn := ⟨fld b (o + 4) 2, fld b (o + 6) 2, fld b (o + 8) 2, fld b (o + 10) 2⟩

def readPf (b : List Byte) (o : Nat) : PfEntry :=
  ⟨fld b o 4, fld b (o + 4) 1, fld b (o + 5) 1, fld b (o + 6) 2 + fld b (o + 12) 4, fld b (o + 8) 4⟩

/-- Counts and offsets of the header (R371). -/
def hdrNfunc (b : List Byte) : Nat := fld b 6 2
def hdrNsect (b : List Byte) : Nat := fld b 8 4
def hdrNsym (b : List Byte) : Nat := fld b 12 4
def hdrSectab (b : List Byte) : Nat := fld b 16 8
def hdrSymtab (b : List Byte) : Nat := fld b 24 8
def hdrFunctab (b : List Byte) : Nat := fld b 32 8
def hdrImgtab (b : List Byte) : Nat := fld b 40 8

def hdrFns (b : List Byte) : List Fn := (List.range (hdrNfunc b)).map (fun i => readFn b (hdrFunctab b + 16 * i))

/-- Native images and portable entries that the functions name. -/
def nImages (fns : List Fn) : Nat := fns.foldl (fun n f => if f.nImg = 0 then n else max n (f.firstImg + f.nImg)) 0
def nForms (fns : List Fn) : Nat := fns.foldl (fun n f => if f.nPf = 0 then n else max n (f.firstPf + f.nPf)) 0

/-- Does a section header break R372? -/
def secBad (b : List Byte) (o : Nat) : Bool :=
  let kind := fld b (o + 4) 1
  let al := fld b (o + 5) 1
  kind = 0 || 6 < kind || fld b (o + 44) 4 != 0
    || (if kind = 1 then al < 6 || fld b (o + 16) 8 % 64 != 0 else 22 < al)
    || !tableFits b (fld b (o + 8) 8) (fld b (o + 16) 8) 1 || !tableFits b (fld b (o + 32) 8) (fld b (o + 40) 4) 24

/-- Does a symbol break R374? -/
def symBad (b : List Byte) (nsect o : Nat) : Bool :=
  let y := readSym b o
  (y.sect != 0xFFFF && nsect ≤ y.sect) || 2 < y.skind || fld b (o + 7) 1 != 0 || fld b (o + 16) 8 != 0
    || (y.skind = 2 && y.value != 0)

/-- Does an image-table entry break R375? -/
def imgBad (b : List Byte) (o : Nat) : Bool :=
  fld b o 2 = 0 || 3 < fld b (o + 5) 1 || fld b (o + 6) 2 != 0 || fld b (o + 20) 12 != 0

/-- Does the container break R371 to R375? -/
def contBad (b : List Byte) (pfTab : Nat) : Bool :=
  b.length < 64 || fld b 0 4 != 0x54535754 || fld b 4 2 != 1 || hdrNfunc b = 0 || hdrNsect b = 0 || 65535 < hdrNsect b
    || fld b 56 8 != 0 || b.length < fld b 48 8
    || (List.range (hdrNsect b)).any (fun i => nameBad b (fld b (hdrSectab b + 48 * i) 4))
    || (List.range (hdrNsym b)).any (fun i => nameBad b (fld b (hdrSymtab b + 24 * i) 4))
    || (List.range (hdrNfunc b)).any (fun i => nameBad b (fld b (hdrFunctab b + 16 * i) 4))
    || !tableFits b (hdrSectab b) (hdrNsect b) 48 || !tableFits b (hdrSymtab b) (hdrNsym b) 24
    || !tableFits b (hdrFunctab b) (hdrNfunc b) 16
    || !tableFits b (hdrImgtab b) (nImages (hdrFns b)) 32 || !tableFits b pfTab (nForms (hdrFns b)) 16
    || (List.range (hdrNsect b)).any (fun i => secBad b (hdrSectab b + 48 * i))
    || (List.range (hdrNsym b)).any (fun i => symBad b (hdrNsect b) (hdrSymtab b + 24 * i))
    || (List.range (hdrNfunc b)).any (fun i => fld b (hdrFunctab b + 16 * i + 12) 4 != 0)
    || (List.range (nImages (hdrFns b))).any (fun i => imgBad b (hdrImgtab b + 32 * i))

/-- The tables of a container. -/
def contOf (b : List Byte) (pfTab : Nat) : Cont :=
  { secs := (List.range (hdrNsect b)).map (fun i => readSec b i (hdrSectab b + 48 * i))
    syms := (List.range (hdrNsym b)).map (fun i => readSym b (hdrSymtab b + 24 * i))
    fns := hdrFns b
    imgs := (List.range (nImages (hdrFns b))).map (fun i => readImg b i (hdrImgtab b + 32 * i))
    pfs := (List.range (nForms (hdrFns b))).map (fun i => readPf b (pfTab + 16 * i)) }

/-- Does every loaded section of a unit above 0 belong to exactly one image (R373)? -/
def Cont.unitsOk (c : Cont) : Bool :=
  let us := c.imgs.map Img.unit
  us.eraseDups.length == us.length
    && c.secs.all (fun s => s.unit = 0 || 4 < s.kind || us.contains s.unit)

/-- Read a container: none is status BAD_CONTAINER. -/
def readContainer (b : List Byte) (pfTab : Nat) : Option Cont :=
  if contBad b pfTab then none
  else if (contOf b pfTab).unitsOk then some (contOf b pfTab) else none

/-- The sections of a load unit. -/
def Cont.unit (c : Cont) (u : Nat) : List Sec := c.secs.filter (fun s => s.unit == u && decide (s.kind ≤ 4))

/-! ## Metadata records (R104, R105) -/

/-- A metadata record: its index and offset in its section, TYPE, LEN, OWNER and payload. -/
structure MetaRec where
  idx : Nat
  off : Nat
  type : Nat
  len : Nat
  owner : Nat
  body : List Byte
  deriving DecidableEq, Repr, Inhabited

/-- The records of a section from an offset on; none where one runs past the end. The spec names no status for padding bytes
of a record that are not zero: the loader of the model passes over them (R105; log 98). -/
def metaRecs (data : List Byte) : (fuel idx off : Nat) → Option (List MetaRec)
  | 0, _, _ => none
  | k + 1, i, off =>
    if data.length ≤ off then some []
    else
      let len := fld data (off + 2) 2
      let next := off + 8 + (len + 7) / 8 * 8
      if data.length < next then none
      else (metaRecs data k (i + 1) next).map (fun rs =>
        { idx := i, off := off, type := fld data off 2, len := len, owner := fld data (off + 4) 4,
          body := (data.drop (off + 8)).take len } :: rs)

/-- The records of a meta section. -/
def Sec.records (s : Sec) : Option (List MetaRec) := metaRecs s.data (s.data.length / 8 + 1) 0 0

/-- A payload field. -/
def MetaRec.f (r : MetaRec) (off n : Nat) : Nat := fld r.body off n

/-- Payload lengths of the record types. -/
def metaLen (r : MetaRec) : Nat :=
  match r.type with
  | 1 => 16 | 2 => 24 | 3 => 16 + 4 * r.f 4 4 | 4 => 16 | 5 => 32 | 6 => 16 | 7 => 4
  | _ => 4

/-- Does the owner of a record, or the record that it names, exist as a record of a type? -/
def isRec (rs : List MetaRec) (type i : Nat) : Bool := rs.any (fun r => r.idx == i && r.type == type)

/-- Does a record break R104, R105 or R376, beside the records of its section? What R35, R36 and R209 ask is checked on
the template. -/
def metaBad (rs : List MetaRec) (r : MetaRec) : Bool :=
  r.type = 0 || 8 < r.type || r.len != metaLen r
    || (match r.type with
      | 1 => r.f 12 4 != 0
      | 2 => !isRec rs 1 (r.f 4 4)
      | 3 => r.f 4 4 = 0 || 16 < r.f 4 4 || (List.range (r.f 4 4)).any (fun k => !isRec rs 2 (r.f (16 + 4 * k) 4))
      | 4 => 31 < r.f 0 4 || r.f 4 4 != 0 || !isRec rs 1 r.owner
      | 5 => 31 < r.f 0 4 || r.f 4 12 != 0 || !isRec rs 1 r.owner
      | 6 => 31 < r.f 0 4 || r.f 4 4 != 0 || !isRec rs 1 r.owner
      | 7 => 6 < r.f 0 4
      | _ => 2 < r.f 0 4)

/-- The number of HERD records of a unit (R375). -/
def Cont.herds (c : Cont) (u : Nat) : Nat :=
  ((c.unit u).flatMap (fun s => if s.kind = 4 then s.records.getD [] else [])).countP (fun r => r.type == 3)

/-! ## The text (R77, R98, R379, R391) -/

/-- The moves of a 96-bit word, as 31-bit fields (R82). -/
def rawMoves (w : Nat) : List Nat :=
  match bits w 95 93 with
  | 0 => [bits w 92 62, bits w 61 31, bits w 30 0]
  | 1 => [bits w 92 62, bits w 61 31]
  | 2 | 3 => [bits w 92 62]
  | _ => []

/-- The trigger of a move field. -/
def rawTrig (mv : Nat) : Option Trig := trigOfCode (bits mv 14 3)

/-- Class D(g) and class X(s) triggers of this part (R97). -/
def trigDeprecated : Trig → Bool
  | .vec .sigm _ => true
  | _ => false
def trigExperimental : Trig → Bool
  | .rng .norm => true
  | _ => false

/-- The generation from which a deprecated trigger is gone (R97). -/
def trigGone : Trig → Nat
  | .vec .sigm _ => 4
  | _ => 0

/-- The determinism class of a trigger (R71): 0 SCALAR-EXACT, 1 REPRODUCIBLE, 2 UNORDERED. -/
def trigDet : Trig → Nat
  | .lsu .cAddU | .lsu .cMinU | .lsu .cMaxU | .lsu .cCasU | .lsu .cSwapU | .vec .redaddU _ | .mxq .poll => 2
  | .vec .exp _ | .vec .log _ | .vec .rcp _ | .vec .rsqrt _ | .vec .tanh _ | .vec .sigm _ => 1
  | .vec .bfenc _ | .vec .bfalign _ | .vec .bfdec _ => 1
  | .rng .draw | .rng .unif | .rng .norm => 1
  | _ => 0

/-- The class of a special register as a source (R71). -/
def specClass : SpecReg → Nat
  | .cycle | .slot | .firing => 2
  | _ => 0

/-- The class of a move field. -/
def rawClass (mv : Nat) : Nat :=
  let src := match srcOfCode (bits mv 26 15) with
    | some (.spec r) => specClass r
    | _ => 0
  max src (((rawTrig mv).map trigDet).getD 0)

/-- The lowest class of a list: the highest number. -/
def lowestClass (l : List Nat) : Nat := l.foldl max 0

/-- The moves of a fetch line at an offset of a text. -/
def lineMoves (data : List Byte) (o : Nat) : List Nat :=
  (List.range 5).flatMap (fun i => rawMoves (fld data (o + 12 * i) 12))

/-- Offsets of the lines of a text. -/
def lineOffsets (data : List Byte) : List Nat := (List.range (data.length / 64)).map (fun k => 64 * k)

/-- The lifetime check (R379): the first status that applies. -/
def lifeStatus (b1 : Bool) (texts : List (List Byte)) : Option LoadStatus :=
  let trigs (d : List Byte) : List Trig := (lineOffsets d).flatMap (fun o => (lineMoves d o).filterMap rawTrig)
  let lifeWrong (d : List Byte) : Bool := (lineOffsets d).any (fun o =>
    let ts := (lineMoves d o).filterMap rawTrig
    let lw := fld d (o + 60) 4
    bit lw 14 != ts.any trigDeprecated || bit lw 15 != ts.any trigExperimental)
  if texts.any lifeWrong then some .life
  else if texts.any (fun d => (trigs d).any (fun t => trigDeprecated t && decide (trigGone t ≤ 3))) then some .removed
  else if !b1 && texts.any (fun d => (trigs d).any trigExperimental) then some .stepping
  else none

/-- The class of the triggers and source reads of a text (R391). -/
def textClass (data : List Byte) : Nat :=
  lowestClass ((lineOffsets data).map (fun o => lowestClass ((lineMoves data o).map rawClass)))

/-- IPAR and LPAR recomputed over a line of 64 bytes (R77, R380). -/
def reparity (line : List Byte) : List Byte :=
  let lw := fld line 60 4
  let ipar := (List.range 5).foldl (fun n i => n + b2n (parity 96 (fld line (12 * i) 12)) * 2 ^ i) 0
  let lw := setBits lw 13 9 ipar
  line.take 60 ++ toBytes 4 (setBits lw 31 31 (b2n (parity 31 lw)))

end Sys2Proof.Machine
end

