-- ==== Sys2Proof/Machine/Forms.lean ====
section
/-!
DEFINITION. Portable forms (R381 to R388): which entry the loader translates, whether its section is well-formed, its
determinism class, and the records of a flock-level form. The translation of a firing's code is the loader's own choice
(R388) and stands in Config as an open value.
-/
namespace Sys2Proof.Machine

/-- A node with the MORE nodes after it (R384). `more` lists ARG2, ARG3 and DST2 of each. -/
structure Node where
  idx : Nat
  op : Nat
  mod : Nat
  flg : Nat
  dst : Nat
  a0 : Nat
  a1 : Nat
  more : List (Nat × Nat × Nat)
  deriving DecidableEq, Repr, Inhabited

/-- No value. -/
def noVal : Nat := 0xFFFFFFFF

def Node.a2 (n : Node) : Nat := ((n.more.head?).map Prod.fst).getD noVal
def Node.a3 (n : Node) : Nat := ((n.more.head?).map (fun m => m.2.1)).getD noVal
def Node.dst2 (n : Node) : Nat := ((n.more.head?).map (fun m => m.2.2)).getD noVal

/-- The nodes from a list of 16-byte pieces: none where a MORE node is ill-formed. -/
def nodesOf : List (Nat × List Byte) → List Node → Option (List Node)
  | [], acc => some acc.reverse
  | (i, b) :: rest, acc =>
    let op := fld b 0 2
    if op = 0 then
      match acc with
      | [] => none
      | n :: ns =>
        let room := if n.op = 0x2006 then 8 else 1
        if fld b 2 2 != 0 || room ≤ n.more.length then none
        else nodesOf rest ({ n with more := n.more ++ [(fld b 4 4, fld b 8 4, fld b 12 4)] } :: ns)
    else nodesOf rest (⟨i, op, fld b 2 1, fld b 3 1, fld b 4 4, fld b 8 4, fld b 12 4, []⟩ :: acc)

/-- A form: its nodes, its number of values, the node that runs first, and its constant pool. -/
structure Form where
  nodes : List Node
  count : Nat
  nval : Nat
  entry : Nat
  pool : List Byte
  deriving DecidableEq, Repr, Inhabited

/-- The form of a portable section: none where R383 or R384's MORE rules are broken. -/
def readForm (data : List Byte) (level : Nat) : Option Form :=
  let nnode := fld data 8 4
  let nval := fld data 12 4
  let nodes := fld data 16 4
  let pool := fld data 20 4
  let len := fld data 24 4
  if data.length < 32 || fld data 0 4 != 0x46505754 || fld data 4 1 != level || fld data 5 1 != 1 || fld data 6 2 != 0
      || nnode = 0 || 2 ^ 24 < nnode || 2 ^ 24 < nval || nodes % 16 != 0 || pool % 8 != 0
      || data.length < nodes + 16 * nnode || data.length < pool + len || nnode ≤ fld data 28 4 then none
  else
    (nodesOf ((List.range nnode).map (fun i => (i, (data.drop (nodes + 16 * i)).take 16))) []).map (fun ns =>
      { nodes := ns, count := nnode, nval := nval, entry := fld data 28 4, pool := (data.drop pool).take len })

/-! ## Node kinds (R385 to R387) -/

/-- The trigger of an operation node, with OP = 0x0100 + 0x100 × N + offset. -/
def opTrig (op : Nat) : Option Trig := if 0x100 ≤ op && op < 0xE00 then trigOfCode (op + 0x100) else none

/-- May an operation node stand at a level, on a stepping, with a modifier? -/
def opNodeOk (level : Nat) (b1 : Bool) (n : Node) : Bool :=
  match opTrig n.op with
  | none => false
  | some t =>
    let u := unitNum (trigUnit t)
    (level == 3 || (level == 2 && (decide (u ≤ 4) || decide (8 ≤ u)))) && (b1 || !trigExperimental t)
      && decide (n.mod < 8) && modAccepts (dstClass (.trig t)) (BitVec.ofNat 3 n.mod)

/-- Kinds that a level admits beside operation nodes. -/
def kindOk (level op : Nat) : Bool :=
  match level with
  | 3 => [0x0001, 0x0002, 0x0003, 0x0004, 0x0E01, 0x0E02, 0x0E03, 0x0E04, 0x0E05, 0x0E06, 0x0E07, 0x0E08, 0x0E09,
      0x0E0A].contains op
  | 2 => [0x0001, 0x0002, 0x0003, 0x0004, 0x0E04, 0x0E05, 0x0E06, 0x0E07, 0x0E08, 0x0E09, 0x1001, 0x1002, 0x1003,
      0x1004, 0x1005, 0x1006, 0x1007, 0x1008].contains op
  | _ => decide (0x2001 ≤ op) && decide (op ≤ 0x2008)

/-- The flags that a kind names. -/
def kindFlags (op : Nat) : Nat :=
  match op with
  | 0x1003 => 7 | 0x1005 => 1 | 0x2004 => 1
  | _ => 0

/-- The operands of a node that are values read before it; the back edge of a PHI is read apart. -/
def reads (n : Node) : List Nat :=
  let all := [n.a0, n.a1, n.a2, n.a3]
  (match n.op with
    | 0x0001 | 0x0002 | 0x0003 | 0x0E03 | 0x0E04 | 0x0E06 | 0x0E07 | 0x0E0A => []
    | 0x0004 | 0x0E01 | 0x0E02 | 0x0E05 | 0x0E08 | 0x1002 | 0x1005 => [n.a0]
    | 0x0E09 | 0x1004 | 0x1008 => [n.a1, n.a2, n.a3]
    | 0x1001 => [n.a1]
    | 0x1003 | 0x1006 => [n.a0, n.a1, n.a2]
    | 0x1007 => [n.a0, n.a1]
    | op => if 0x2001 ≤ op then [] else all).filter (fun v => v != noVal)

/-- The values that a node writes. -/
def writes (n : Node) : List Nat := [n.dst, n.dst2].filter (fun v => v != noVal)

/-- Does a range of the pool exist? -/
def Form.inPool (f : Form) (off n : Nat) : Bool := off + n ≤ f.pool.length

/-- Is a number the index of an openable loop: a LOOP or a FOR node? -/
def Form.opAt (f : Form) (i : Nat) : Nat := ((f.nodes.find? (fun n => n.idx == i)).map Node.op).getD 0

/-- A tensor record (R386): space, dimensions, format record and extents; none where it is ill-formed. -/
def Form.tensor (f : Form) (off : Nat) : Option (Nat × Nat × Nat × List Nat) :=
  let ext := (List.range 4).map (fun k => fld f.pool (off + 8 + 4 * k) 4)
  let nd := fld f.pool (off + 1) 1
  if !f.inPool off 64 || 2 < fld f.pool off 1 || nd = 0 || 4 < nd || fld f.pool (off + 2) 2 != 0
      || recordIllFormed (fld f.pool (off + 4) 4) || (ext.drop nd).any (fun e => e != 1)
      || fld f.pool (off + 56) 8 != 0 then none
  else some (fld f.pool off 1, nd, fld f.pool (off + 4) 4, ext)

/-- The tensor that a value holds. -/
def Form.tensorVal (f : Form) (v : Nat) : Option (Nat × Nat × Nat × List Nat) :=
  match f.nodes.find? (fun n => n.op == 0x1001 && n.dst == v) with
  | some n => f.tensor n.a0
  | none => none

/-- Element size in bits of a format record (R47). -/
def recordBits (r : Nat) : Nat :=
  match bits r 3 0 with
  | 1 | 7 => 32 | 2 | 3 => 16 | 5 => 6 | 8 => 64
  | _ => 8

/-- Two-dimensional: rows and columns of a tensor, with dimension 1 as the row. -/
def Form.matrix (f : Form) (v : Nat) : Option (Nat × Nat × Nat) :=
  match f.tensorVal v with
  | some (_, 2, fmt, ext) => some (ext.getD 1 1, ext.getD 0 1, bits fmt 3 0)
  | _ => none

/-- The rules of one kind, apart from values, nesting and entries of other sections. -/
def Form.kindRules (f : Form) (c : Cont) (fn : Fn) (n : Node) : Bool :=
  let isTensor (v : Nat) : Bool := (f.tensorVal v).isSome
  let entryLevel (k lo : Nat) : Bool := decide (k < fn.nPf) &&
    (match c.pfs[fn.firstPf + k]? with
      | some e => decide (lo ≤ e.level) && e.formv == 1
      | none => false)
  match n.op with
  | 0x0001 => n.mod ≤ 1 && f.inPool n.a0 (if n.mod = 0 then 8 else 128)
  | 0x0002 => 1 ≤ n.a0 && n.a0 ≤ 47
  | 0x0003 => (match srcOfCode n.a0 with
      | some (.spec _) | some (.trap _) => true
      | _ => false)
  | 0x0004 => f.opAt n.a1 = 0x0E01 || f.opAt n.a1 = 0x1002
  | 0x0E05 => n.mod ≤ 3
  | 0x0E06 | 0x0E07 => n.a0 < 16
  | 0x0E09 => (match c.syms[n.a0]? with
      | some y => y.skind == 1
      | none => false)
  | 0x0E0A => n.a0 < 2 ^ 16
  | 0x1001 => (f.tensor n.a0).isSome
  | 0x1003 => (match f.matrix n.a0, f.matrix n.a1, f.matrix n.a2 with
      | some (m, k, _), some (m1, k1, fa), some (k2, n2, fb) =>
        n.mod ≤ 3 && m == m1 && k1 == k2 && k == n2 && (!bit n.flg 0 || (fa == 5 && fb == 5))
      | _, _, _ => false)
  | 0x1004 => isTensor n.a1 && entryLevel n.a0 3 && [n.a2, n.a3].all (fun v => v == noVal || isTensor v)
  | 0x1005 => n.mod ≤ 2 && (match f.tensorVal n.a0 with
      | some (_, _, fmt, _) => bits fmt 3 0 == 1
      | none => false)
  | 0x1006 => (match f.tensorVal n.a0, f.tensorVal n.a1 with
      | some (_, _, fa, ea), some (_, _, fb, eb) => ea == eb && recordBits fa == recordBits fb
      | _, _ => false)
  | 0x1007 => n.mod ≤ 1
  | 0x1008 => entryLevel n.a0 3
  | 0x2002 => n.a0 < 32 && f.inPool n.a1 8
  | 0x2003 => n.a0 < 32 && f.inPool n.a1 16
  | 0x2004 => n.a0 < 32 && entryLevel n.a1 2
  | 0x2005 => f.opAt n.a0 = 0x2001 && f.inPool n.a1 16
  | 0x2006 =>
    let fl := (n.more.flatMap (fun m => [m.1, m.2.1])).take n.a1
    1 ≤ n.a1 && n.a1 ≤ 16 && fl.length == n.a1 && fl.all (fun i => f.opAt i == 0x2005)
      && (match c.syms[n.a0]? with
        | some y => y.skind == 2
        | none => false)
  | 0x2007 => n.a0 ≤ 6
  | 0x2008 => n.a0 ≤ 2
  | _ => true

/-- Nesting of LOOP, IF, ELSE, FOR and END (R385): the open constructs, innermost first, as kind, END index and whether its
ELSE was met. -/
def nests : List Node → List (Nat × Nat × Bool) → Bool
  | [], st => st.isEmpty
  | n :: ns, st =>
    if n.op = 0x0E01 || n.op = 0x0E02 || n.op = 0x1002 then nests ns ((n.op, n.a1, false) :: st)
    else if n.op = 0x0E03 then
      match st with
      | (0x0E02, e, false) :: rest => nests ns ((0x0E02, e, true) :: rest)
      | _ => false
    else if n.op = 0x0E04 then
      match st with
      | (_, e, _) :: rest => e == n.idx && nests ns rest
      | [] => false
    else nests ns st

/-- PHI nodes stand first in the body of the loop that they name. -/
def phisFirst : Option Nat → List Node → Bool
  | _, [] => true
  | body, n :: ns =>
    if n.op = 0x0004 then body == some n.a1 && phisFirst body ns
    else phisFirst (if n.op = 0x0E01 || n.op = 0x1002 then some n.idx else none) ns

/-- Every value is read after the node that writes it. -/
def readsAfter : List Nat → List Node → Bool
  | _, [] => true
  | seen, n :: ns => (reads n).all seen.contains && readsAfter (writes n ++ seen) ns

/-- The nodes that run, in order: those from ENTRY on (R383). -/
def Form.runs (f : Form) : List Node := f.nodes.filter (fun n => decide (f.entry ≤ n.idx))

/-- PORT, PATTERN and HANDLER nodes belong to a VTILE node before them (R387). -/
def vtileFirst : List Node → Bool
  | [] => true
  | n :: ns => n.op == 0x2001 || (!(n.op == 0x2002 || n.op == 0x2003 || n.op == 0x2004) && vtileFirst ns)

/-- Is an xref section an array of entries as R382 has them? -/
def xrefOk (data : List Byte) : Bool :=
  data.length % 16 == 0 && (List.range (data.length / 16)).all (fun k =>
    decide (1 ≤ fld data (16 * k) 1) && decide (fld data (16 * k) 1 ≤ 3) && decide (fld data (16 * k + 1) 1 ≤ 3)
      && fld data (16 * k + 2) 2 == 0)

/-- Does a portable entry name a section of kind 6, or none (R381)? Where it names no such section, or one that breaks R382,
the loader passes over the entry: the spec names no consequence (log 98). -/
def Cont.xsectOk (c : Cont) (e : PfEntry) : Bool :=
  e.xsect == 0xFFFFFFFF || (match c.secs[e.xsect]? with
    | some x => x.kind == 6 && xrefOk x.data
    | none => false)

/-- The rules of R383 to R387 on one section. -/
def Form.wellFormed (f : Form) (c : Cont) (fn : Fn) (level : Nat) (b1 : Bool) : Bool :=
  let ws := f.nodes.flatMap writes
  f.nodes.all (fun n => (kindOk level n.op || opNodeOk level b1 n) && (n.flg ||| kindFlags n.op) == kindFlags n.op
      && f.kindRules c fn n)
    && ws.all (fun v => decide (v < f.nval)) && ws.length == f.nval && ws.eraseDups.length == ws.length
    && readsAfter [] f.runs && f.nodes.any (fun n => n.idx == f.entry) && vtileFirst f.nodes
    && f.nodes.all (fun n => n.op != 0x0004 || n.a2 == noVal || ws.contains n.a2)
    && nests f.nodes [] && nests f.runs [] && phisFirst none f.nodes

/-- The class of one node's own operation (R386). -/
def nodeClass (n : Node) : Nat :=
  match n.op with
  | 0x0003 => (match srcOfCode n.a0 with
      | some (.spec r) => specClass r
      | _ => 0)
  | 0x1003 => if bit n.flg 0 || bit n.flg 2 then 1 else 0
  | 0x1005 => if bit n.flg 0 then 0 else 2
  | _ => ((opTrig n.op).map trigDet).getD 0

/-- The entries that a node invokes or names as a handler's body. -/
def nodeEntries (n : Node) : List Nat :=
  match n.op with
  | 0x1004 | 0x1008 => [n.a0]
  | 0x2004 => [n.a1]
  | _ => []

/-- The classes that a form declares: those of its PROMISE nodes (R387). -/
def Form.promises (f : Form) : List Nat := (f.nodes.filter (fun n => n.op == 0x2008)).map Node.a0

/-- The latest node of a kind and number that belongs to a VTILE node: those up to the next VTILE (R105, R387). -/
def Form.owned (f : Form) (v : Node) (op i : Nat) : Option Node :=
  ((f.nodes.filter (fun n => decide (v.idx < n.idx))).takeWhile (fun n => n.op != 0x2001)).reverse.find?
    (fun n => n.op == op && n.a0 == i)

/-- Does a pattern of a form's vtiles name a port with ORD = 0, so that its consumption is UNORDERED (R71)? -/
def Form.takesUnordered (f : Form) : Bool :=
  (f.nodes.filter (fun n => n.op == 0x2001)).any (fun v => (List.range 32).any (fun i => match f.owned v 0x2003 i with
    | some p => (patPairs (BitVec.ofNat 128 (fld f.pool p.a1 16))).any (fun q =>
        !bit (((f.owned v 0x2002 q.1).map (fun d => fld f.pool d.a1 8)).getD 0) 9)
    | none => false))

/-- The class of a well-formed form, over the entries it invokes; none where it, or one of them, is ill-formed, or where it
declares a class above the one computed, as a PROMISE record would have its unit rejected (R391). The class is the lower of
the two (R381). Each entry invoked has a higher level, so three rounds reach all. -/
def formClass (c : Cont) (b1 : Bool) (fn : Fn) : (fuel k : Nat) → Option Nat
  | 0, _ => none
  | fuel + 1, k => do
    let e ← c.pfs[k]?
    let sec ← c.secs[e.sect]?
    if sec.kind != 5 || e.rsv != 0 || e.formv != 1 || !c.xsectOk e then none
    else
      let f ← readForm sec.data e.level
      if !f.wellFormed c fn e.level b1 then none
      else
        let inner ← (f.nodes.flatMap nodeEntries).mapM (fun i => formClass c b1 fn fuel (fn.firstPf + i))
        let cls := lowestClass ((if f.takesUnordered then 2 else 0) :: f.nodes.map nodeClass ++ inner)
        if f.promises.any (fun p => decide (p < cls)) then none else pure (lowestClass (cls :: f.promises))

/-- The portable entries of a function that the loader takes, in rising LEVEL (R381). -/
def formOrder (c : Cont) (fn : Fn) : List Nat :=
  let ks := (List.range fn.nPf).map (fun i => fn.firstPf + i)
  let lv (k : Nat) : Nat := ((c.pfs[k]?).map PfEntry.level).getD 0
  (ks.filter (fun k => decide (1 ≤ lv k) && decide (lv k ≤ 3) && ((c.pfs[k]?).map PfEntry.formv) == some 1)).mergeSort
    (fun a b => decide (lv a ≤ lv b))

/-! ## The records of a flock-level form (R387) -/

/-- A metadata record: its header and its payload, padded (R105). -/
def metaRecBytes (type owner : Nat) (payload : List Byte) : List Byte :=
  toBytes 2 type ++ toBytes 2 payload.length ++ toBytes 4 owner ++ payload ++ List.replicate ((8 - payload.length % 8) % 8) 0

/-- n bytes of the pool. -/
def Form.poolAt (f : Form) (off n : Nat) : List Byte := (f.pool.drop off).take n

/-- Number of the record that a node gives: each node of the level gives one. -/
def Form.recOf (f : Form) (idx : Nat) : Nat := f.nodes.findIdx (fun n => n.idx == idx)

/-- The record of a flock-level node, with the number of the VTILE record in force. -/
def Form.recordOf (f : Form) (owner : Nat) (n : Node) : List Byte :=
  match n.op with
  | 0x2001 => metaRecBytes 1 noVal (toBytes 4 0 ++ toBytes 4 n.a0 ++ toBytes 4 n.a1 ++ toBytes 4 0)
  | 0x2002 => metaRecBytes 4 owner (toBytes 4 n.a0 ++ toBytes 4 0 ++ f.poolAt n.a1 8)
  | 0x2003 => metaRecBytes 5 owner (toBytes 4 n.a0 ++ toBytes 12 0 ++ toBytes 16 (setBits (ofBytes (f.poolAt n.a1 16)) 40 40 1))
  | 0x2004 => metaRecBytes 6 owner (toBytes 4 n.a0 ++ toBytes 4 0 ++ toBytes 8 (2 ^ 54 + b2n (bit n.flg 0) * 2 ^ 55))
  | 0x2005 => metaRecBytes 2 noVal (toBytes 4 0 ++ toBytes 4 (f.recOf n.a0) ++ f.poolAt n.a1 16)
  | 0x2006 => metaRecBytes 3 noVal (toBytes 4 0 ++ toBytes 4 n.a1 ++ toBytes 8 0
      ++ (((n.more.flatMap (fun m => [m.1, m.2.1])).take n.a1).flatMap (fun i => toBytes 4 (f.recOf i))))
  | 0x2007 => metaRecBytes 7 noVal (toBytes 4 n.a0)
  | _ => metaRecBytes 8 noVal (toBytes 4 n.a0)

/-- The records of nodes, with the relocations of HANDLER and HERD records: `bodies` gives the code symbol of an entry. -/
def Form.metaOf (f : Form) (bodies : Nat → Nat) : List Node → (owner off : Nat) → List Byte × List Rel
  | [], _, _ => ([], [])
  | n :: ns, owner, off =>
    let owner := if n.op = 0x2001 then f.recOf n.idx else owner
    let bs := f.recordOf owner n
    let rel := match n.op with
      | 0x2004 => [(⟨off, 6, 5, 0, bodies n.a1, 0⟩ : Rel)]
      | 0x2006 => [⟨off, 7, 4, 0, n.a0, 0⟩]
      | _ => []
    let (data, rels) := f.metaOf bodies ns owner (off + bs.length)
    (bs ++ data, rel ++ rels)

/-- The entries, among the function's, that hold the code of the image: those of its handlers, or the form itself. -/
def Form.bodies (f : Form) (level k : Nat) : List Nat :=
  if level = 1 then ((f.nodes.filter (fun n => n.op == 0x2004)).map Node.a1).eraseDups else [k]

/-- The relocation records of translated code. -/
def relsOf (b : List Byte) : List Rel := (List.range (b.length / 24)).map (fun i => readRel b (24 * i))

/-- The load unit of translated images: above those that a container can name. -/
def formUnit : Nat := 65536

/-- The container with the native image of a form added (R381, R387, R388): for each body a text and a const section and a code
symbol, and the records of the form in a meta section. -/
def Form.image (f : Form) (b : List Byte) (c : Cont) (fn : Fn) (n level k : Nat) : Option Cont := do
  let ks := f.bodies level (k - fn.firstPf)
  let code ← ks.mapM (fun e => Config.translateBody b n (fn.firstPf + e))
  let base := c.secs.length
  let sec (i kind : Nat) (al : Nat) (data : List Byte) (rels : List Rel) : Sec :=
    { idx := base + i, kind := kind, align := al, unit := formUnit, size := data.length, pref := 0, data := data, rels := rels }
  let texts := ((List.range code.length).zip code).flatMap (fun p =>
    [sec (2 * p.1) 1 6 p.2.1 (relsOf p.2.2.1), sec (2 * p.1 + 1) 2 6 p.2.2.2 []])
  let syms := (List.range code.length).map (fun i => (⟨[], base + 2 * i, 1, 0⟩ : Sym))
  let (data, rels) := f.metaOf (fun e => c.syms.length + ks.idxOf e) f.nodes noVal 0
  let metas := if level = 1 then [sec (2 * code.length) 4 3 data rels] else []
  if (code.any (fun p => p.1.length % 64 != 0)) then none
  else pure { c with secs := c.secs ++ texts ++ metas, syms := c.syms ++ syms }

end Sys2Proof.Machine
end

