-- ==== Sys2Proof/Machine/Loader.lean ====
section
/-!
DEFINITION. The loader (R373 to R381, R389 to R393): placement, lifetime check, relocation, class and validity of a load
unit, then its text, templates, flock descriptors and launch record prototype in memory.
-/
namespace Sys2Proof.Machine

/-! ## Placement (R378) -/

/-- Where a section goes: the loader's choice, else PREF. -/
def placeOf (plan : LoadPlan) (s : Sec) : Nat := ((plan.sections.find? (fun p => p.1 == s.idx)).map Prod.snd).getD s.pref

/-- The symbols that the unit's GOTHI20 records name, in index order (R390). -/
def gotSyms (secs : List Sec) : List Nat :=
  ((secs.flatMap (fun s => if s.kind = 1 then (s.rels.filter (fun r => r.kind == 4)).map Rel.sym else [])).eraseDups).mergeSort
    (fun a b => decide (a ≤ b))

/-- A placed unit: addresses of sections, the GOT's address, its symbols, and the scratchpad and text ranges taken. -/
structure Placed where
  addr : List (Nat × Nat)
  got : Nat
  syms : List Nat
  ranges : List (Nat × Nat)
  texts : List (Nat × Nat)
  deriving DecidableEq, Repr, Inhabited

def Placed.none : Placed := ⟨[], 0, [], [], []⟩

/-- Do two ranges of a list meet? -/
def someMeet : List (Nat × Nat) → Bool
  | [] => false
  | r :: rs => rs.any (fun q => runsMeet r.1 r.2 q.1 q.2) || someMeet rs

/-- Port stores of the unit's VTILE records. -/
def unitStores (secs : List Sec) : List (Nat × Nat) :=
  (secs.flatMap (fun s => if s.kind = 4 then s.records.getD [] else [])).filterMap
    (fun r => if r.type = 1 then some (r.f 4 4, r.f 8 4) else none)

/-- Is every line of a text at TB in a mapped instruction page? -/
def State.textMapped (s : State) (d : CtxDesc) (tb n : Nat) : Bool :=
  (List.range (n / 64)).all (fun k => match s.translateInsn d (tb + 64 * k) with
    | .ok _ => true
    | .error _ => false)

/-- Place a unit beside unit 0 and the units already loaded: none is status PLACE. -/
def State.placeUnit (s : State) (d : CtxDesc) (plan : LoadPlan) (u : Nat) (secs : List Sec) (zero : Placed) : Option Placed :=
  let texts := (secs.filter (fun x => x.kind == 1)).map (fun x => (placeOf plan x, x.data.length))
  let datas := (secs.filter (fun x => x.kind == 2 || x.kind == 3)).map (fun x => (placeOf plan x, x.data.length))
  let syms := gotSyms secs
  let got := ((plan.gots.find? (fun p => p.1 == u)).map Prod.snd).getD 0
  let pads := datas ++ (if syms.isEmpty then [] else [(got, 8 * syms.length)])
  let aligned := secs.all (fun x => x.kind = 4 || placeOf plan x % 2 ^ x.align == 0) && (syms.isEmpty || got % 8 == 0)
  let inside := pads.all (fun r => r.1 + r.2 ≤ spSize)
    && texts.all (fun r => r.1 % 64 == 0 && decide (r.1 + r.2 ≤ 2 ^ 54) && s.textMapped d r.1 r.2)
  let stores := unitStores secs
  let apart := !someMeet (pads ++ zero.ranges)
    && !(pads ++ zero.ranges).any (fun r => stores.any (fun q => runsMeet r.1 r.2 q.1 q.2))
    && !someMeet (texts ++ zero.texts)
  if aligned && inside && apart then
    some { addr := (secs.filter (fun x => x.kind != 4)).map (fun x => (x.idx, placeOf plan x)) ++ zero.addr, got := got,
           syms := syms, ranges := pads, texts := texts }
  else none

/-! ## Symbols (R374) -/

/-- The value of a symbol for a unit. -/
def resolve (c : Cont) (plan : LoadPlan) (p : Placed) (u k : Nat) : Except LoadStatus (Nat × Nat) :=
  match c.syms[k]? with
  | none => .error .badReloc
  | some y =>
    let bound := (plan.ports.find? (fun q => q.1 == y.name)).map (fun q => q.2.toNat)
    if y.sect = 0xFFFF then (match bound with
      | some v => .ok (v, y.skind)
      | none => .error .undef)
    else match c.secs[y.sect]? with
      | none => .error .undef
      | some sec =>
        if sec.unit != 0 && sec.unit != u then .error .undef
        else if y.skind = 2 then (match bound with
          | some v => .ok (v, 2)
          | none => .error .undef)
        else match p.addr.find? (fun q => q.1 == y.sect) with
          | none => .error .undef
          | some q =>
            if y.skind = 1 then
              if sec.kind = 1 then .ok (5 * (q.2 / 64) + y.value, 1) else .error .badReloc
            else .ok (q.2 + y.value, 0)

/-! ## Relocation (R389, R390) -/

/-- R103. -/
def hi20 (v : Int) : Nat := wrap ((v + 0x800).fdiv 0x1000) 20
def lo12 (v : Int) : Int := v - sext (hi20 v) 20 * 0x1000
def hiRange (v : Int) : Bool := decide (-(2 ^ 31 : Int) - 2048 ≤ v) && decide (v ≤ (2 ^ 31 : Int) - 2049)

/-- Replace n bytes at an offset. -/
def patch (b : List Byte) (off n v : Nat) : List Byte := b.take off ++ toBytes n v ++ b.drop (off + n)

/-- A text instruction with a short immediate in move n, or the status. -/
def putShort (w n : Nat) (v : Int) : Except LoadStatus Nat :=
  let lo := 62 - 31 * n
  let mv := bits w (lo + 30) lo
  if (rawMoves w).length ≤ n || !bit mv 26 then .error .badReloc
  else if v < -2048 || 2047 < v then .error .relocRange
  else
    let i := wrap v 12
    .ok (setBits w (lo + 30) lo (setBits (setBits mv 26 15 (0x800 + bits i 10 0)) 30 30 (bits i 11 11)))

/-- Write V into a field of a text instruction. -/
def putText (w kind field : Nat) (v : Int) : Except LoadStatus Nat :=
  let fmt := bits w 95 93
  if field ≤ 2 then
    match kind with
    | 1 => putShort w field v
    | 3 | 5 => if hiRange v then putShort w field (lo12 v) else .error .relocRange
    | _ => .error .badReloc
  else if field != 3 then .error .badReloc
  else match kind, fmt with
    | 1, 2 => if -(2 ^ 55 : Int) ≤ v && v < 2 ^ 55 then .ok (setBits w 61 6 (wrap v 56)) else .error .relocRange
    | 7, 2 => if bits (wrap v 64) 63 55 = 0 then .ok (setBits w 61 6 (wrap v 64)) else .error .relocRange
    | 2, 1 | 4, 1 => if hiRange v then .ok (setBits w 30 11 (hi20 v)) else .error .relocRange
    | 2, 3 =>
      if -(2 ^ 31 : Int) ≤ v && v < 2 ^ 31 && (bits w 29 25 != 5 || decide (1 ≤ v)) then .ok (setBits w 61 30 (wrap v 32))
      else .error .relocRange
    | _, _ => .error .badReloc

/-- LINE and ISLOT of a handler entry from a target index (R36). -/
def handlerTarget (e : Nat) (v : Int) : Except LoadStatus Nat :=
  if v < 0 || (5 * 2 ^ 48 : Int) ≤ v then .error .relocRange
  else .ok (setBits (setBits e 53 6 (v.toNat / 5)) 2 0 (v.toNat % 5))

/-- Write V into an 8-byte item. -/
def putItem (e kind field : Nat) (v : Int) : Except LoadStatus Nat :=
  match kind, field with
  | 1, 4 => .ok (wrap v 64)
  | 7, 4 => if bits (wrap v 64) 63 56 = 0 then .ok (wrap v 64) else .error .relocRange
  | 6, 6 => do .ok (setBits (← handlerTarget e v) 55 54 1)
  | 6, 7 => do .ok (setBits (← handlerTarget e v) 55 54 3)
  | _, _ => .error .badReloc

/-- Bytes of a section after a record, whose value is V. -/
def writeRel (sec : Sec) (data : List Byte) (r : Rel) (v : Int) : Except LoadStatus (List Byte) :=
  if sec.kind = 1 then
    if data.length < r.offset + 12 || r.offset % 64 % 12 != 0 || 60 ≤ r.offset % 64 then .error .badReloc
    else do .ok (patch data r.offset 12 (← putText (fld data r.offset 12) r.kind r.field v))
  else if sec.kind = 4 then
    match (sec.records.getD []).find? (fun m => m.off == r.offset) with
    | none => .error .badReloc
    | some m =>
      if m.type = 6 && r.kind = 6 && r.field = 5 then do
        .ok (patch data (m.off + 16) 8 (← handlerTarget (fld data (m.off + 16) 8) v))
      else if m.type = 3 && r.kind = 7 && r.field = 4 then do .ok (patch data (m.off + 16) 8 (← putItem 0 7 4 v))
      else .error .badReloc
  else if data.length < r.offset + 8 then .error .badReloc
  else do .ok (patch data r.offset 8 (← putItem (fld data r.offset 8) r.kind r.field v))

/-- The value of a record: the pair's for a LO12 record. -/
def relValue (c : Cont) (plan : LoadPlan) (p : Placed) (u : Nat) (base : Nat) (his : List (Rel × Int)) (r : Rel) :
    Except LoadStatus Int :=
  if r.kind = 3 || r.kind = 5 then
    match his.find? (fun h => h.1.kind + 1 == r.kind && h.1.sym == r.sym && h.1.addend == r.addend) with
    | some h => .ok h.2
    | none => .error .badPair
  else do
    let (S, k) ← resolve c plan p u r.sym
    if (r.kind = 2 || r.kind = 6) && k != 1 || r.kind = 7 && k != 2 then .error .badReloc
    else match r.kind with
      | 2 => .ok ((S : Int) + r.addend - (5 * ((base + r.offset) / 64) + r.offset % 64 / 12 : Nat))
      | 4 => .ok ((p.got + 8 * p.syms.idxOf r.sym : Nat) + r.addend)
      | _ => .ok ((S : Int) + r.addend)

/-- Do two records write the same field: one immediate of an instruction, or one 8-byte item, which three FIELD codes name
(R106, R390)? -/
def Rel.samePlace (r q : Rel) : Bool :=
  let place (f : Nat) : Nat := if f = 6 || f = 7 then 4 else f
  q.offset == r.offset && place q.field == place r.field

/-- Apply the records of a section in order. `his` holds the HI20 records met, latest first. -/
def applyRels (c : Cont) (plan : LoadPlan) (p : Placed) (u base : Nat) (sec : Sec) :
    List Rel → List (Rel × Int) → List Byte → Except LoadStatus (List Byte)
  | [], _, data => .ok data
  | r :: rs, his, data =>
    if r.kind = 0 || 7 < r.kind || 7 < r.field || r.rsv != 0
        || rs.any r.samePlace then .error .badReloc
    else do
      let v ← relValue c plan p u base his r
      let data ← writeRel sec data r v
      applyRels c plan p u base sec rs (if r.kind = 2 || r.kind = 4 then (r, v) :: his else his) data

/-- The parity of the lines that records patched (R380). -/
def fixParity (sec : Sec) (data : List Byte) : List Byte :=
  if sec.kind != 1 then data
  else ((sec.rels.map (fun r => r.offset / 64)).eraseDups).foldl (fun b l =>
    b.take (64 * l) ++ reparity ((b.drop (64 * l)).take 64) ++ b.drop (64 * l + 64)) data

/-- Every section of a unit relocated. -/
def relocUnit (c : Cont) (plan : LoadPlan) (p : Placed) (u : Nat) : List Sec → Except LoadStatus (List Sec)
  | [] => .ok []
  | x :: xs => do
    let data ← applyRels c plan p u (placeOf plan x) x x.rels [] x.data
    let rest ← relocUnit c plan p u xs
    .ok ({ x with data := fixParity x data } :: rest)

/-- The GOT's bytes (R390). -/
def gotBytes (c : Cont) (plan : LoadPlan) (p : Placed) (u : Nat) : List Nat → Except LoadStatus (List Byte)
  | [] => .ok []
  | k :: ks => do
    let (v, _) ← resolve c plan p u k
    .ok (toBytes 8 v ++ (← gotBytes c plan p u ks))

/-! ## Metadata (R376, R391, R392) -/

/-- The template of a VTILE record, its image apart. -/
def recTemplate (rs : List MetaRec) (v : MetaRec) : Template :=
  let own (type i : Nat) : Option MetaRec := rs.reverse.find? (fun r => r.type == type && r.owner == v.idx && r.f 0 4 == i)
  { psBase := v.f 4 4, psSize := v.f 8 4, imgAddr := 0, imgLen := 0, imgOff := 0
    ports := (List.range 32).map (fun i => ((own 4 i).map (fun r => r.f 8 8)).getD 0)
    pats := (List.range 32).map (fun i => ((own 5 i).map (fun r => r.f 16 16)).getD 0)
    hnds := (List.range 32).map (fun i => ((own 6 i).map (fun r => r.f 8 8)).getD 0) }

/-- Does a template break R35, R36, R209 or R231? -/
def recTemplateBad (t : Template) : Bool :=
  t.psBase % 8 != 0 || spSize < t.psBase + t.psSize
    || ((List.range 32).zip t.ports).any (fun p => p.2 / 2 ^ 19 != 0 || t.base.portBad p.1 p.2)
    || t.pats.any (fun e => patBad (BitVec.ofNat 128 e)) || t.hnds.any handlerBad

/-- Does a PORT, PATTERN or HANDLER record break R209, R35 or R36 by itself (R392), whether or not a later record fills its
entry of the template? -/
def recPartBad (rs : List MetaRec) (r : MetaRec) : Bool :=
  match r.type with
  | 4 =>
    let t := ((rs.find? (fun v => v.type == 1 && v.idx == r.owner)).map (recTemplate rs)).getD (recTemplate rs default)
    r.f 8 8 / 2 ^ 19 != 0 || t.base.portBad (r.f 0 4) (r.f 8 8)
  | 5 => patBad (BitVec.ofNat 128 (r.f 16 16))
  | 6 => handlerBad (r.f 8 8)
  | _ => false

/-- The class of a template: UNORDERED when a port that an enabled pattern names has ORD = 0. -/
def templateClass (t : Template) : Nat :=
  let unordered (e : Nat) : Bool := patEn (BitVec.ofNat 128 e)
    && (patPairs (BitVec.ofNat 128 e)).any (fun p => !bit (t.ports.getD p.1 0) 9)
  if t.pats.any unordered then 2 else 0

/-- The class of the forms that OPS marks (R391). -/
def opsClass (ops : Nat) : Nat :=
  lowestClass ([(0, 0), (1, 1), (2, 1), (3, 2), (4, 2)].map (fun p => if bit ops p.1 then p.2 else 0))

/-- A relocated unit: its sections, its GOT, and the records and templates of each meta section. -/
structure Staged where
  place : Placed
  secs : List Sec
  got : List Byte
  metas : List (Sec × List MetaRec)
  deriving DecidableEq, Repr, Inhabited

/-- The VTILE records of a unit with their templates. -/
def Staged.vtiles (g : Staged) : List (Nat × MetaRec × Template) :=
  g.metas.flatMap (fun m => (m.2.filter (fun r => r.type == 1)).map (fun r => (m.1.idx, r, recTemplate m.2 r)))

/-- FLOCK records of a unit, each with its section, in order. -/
def Staged.flocks (g : Staged) : List (Nat × MetaRec) :=
  g.metas.flatMap (fun m => (m.2.filter (fun r => r.type == 2)).map (fun r => (m.1.idx, r)))

def Staged.herds (g : Staged) : List (Nat × MetaRec) :=
  g.metas.flatMap (fun m => (m.2.filter (fun r => r.type == 3)).map (fun r => (m.1.idx, r)))

/-- Status META: a record that breaks its rule, a HANDLER record without its relocation, or a reserved OPS bit. -/
def Staged.metaWrong (g : Staged) (raw : List Sec) (ops : Nat) : Bool :=
  32 ≤ ops
    || raw.any (fun x => x.kind = 4 && x.records.isNone)
    || g.metas.any (fun m => m.2.any (fun r => metaBad m.2 r || recPartBad m.2 r
        || (r.type = 6 && !m.1.rels.any (fun q => q.offset == r.off && q.kind == 6))))
    || g.vtiles.any (fun v => recTemplateBad v.2.2)

/-- The class that the loader computes for an image (R391). -/
def Staged.cls (g : Staged) (ops : Nat) : Nat :=
  lowestClass (opsClass ops :: (g.secs.filter (fun x => x.kind == 1)).map (fun x => textClass x.data)
    ++ g.vtiles.map (fun v => templateClass v.2.2))

/-- The classes claimed: of the image, and of its PROMISE records; 3 claims none. -/
def Staged.claims (g : Staged) (cls : Nat) : List Nat :=
  (cls :: g.metas.flatMap (fun m => (m.2.filter (fun r => r.type == 8)).map (fun r => r.f 0 4))).filter (fun k => k != 3)

/-- Stage a unit and make every check of the chapter (R373). -/
def State.stage (s : State) (d : CtxDesc) (c : Cont) (plan : LoadPlan) (u : Nat) (zero : Placed) (ops cls : Nat) :
    Except LoadStatus (Staged × Nat) :=
  let raw := c.unit u
  match s.placeUnit d plan u raw zero with
  | none => .error .place
  | some p =>
    match lifeStatus s.ident.steppingB1 ((raw.filter (fun x => x.kind == 1)).map Sec.data) with
    | some st => .error st
    | none => do
      let secs ← relocUnit c plan p u raw
      let got ← gotBytes c plan p u p.syms
      let metas := (secs.filter (fun x => x.kind == 4)).map (fun x => (x, x.records.getD []))
      let g : Staged := ⟨p, secs, got, metas⟩
      if g.metaWrong raw ops then .error .metaBad
      else if (g.claims cls).any (fun k => decide (k < g.cls ops)) then .error .promise
      else .ok (g, lowestClass (g.cls ops :: g.claims cls))

/-! ## Writing out (R380, R392, R393) -/

/-- Write the text of a unit through a data mapping of its instruction pages. -/
def State.writeTexts (s : State) (d : CtxDesc) (plan : LoadPlan) (secs : List Sec) : State :=
  (secs.filter (fun x => x.kind == 1)).foldl (fun s x => (lineOffsets x.data).foldl (fun s o =>
    match s.translateInsn d (placeOf plan x + o) with
    | .ok (pa, _) => s.homeWrite pa ((x.data.drop o).take 64) (fun _ => false)
    | .error _ => s) s) s

/-- Write bytes over pieces of the data space. -/
def State.writePieces (s : State) : List (Nat × Nat) → List Byte → State
  | [], _ => s
  | p :: ps, bs => (s.homeWrite p.1 (bs.take p.2) (fun _ => false)).writePieces ps (bs.drop p.2)

/-- Pad to a multiple of 64. -/
def pad64 (b : List Byte) : List Byte := b ++ List.replicate ((64 - b.length % 64) % 64) 0

/-- The parts of a template image: placed scratchpad sections and the GOT. -/
def Staged.parts (g : Staged) (plan : LoadPlan) : List (Nat × List Byte) :=
  ((g.secs.filter (fun x => (x.kind == 2 || x.kind == 3) && !x.data.isEmpty)).map (fun x => (placeOf plan x, x.data)))
    ++ (if g.got.isEmpty then [] else [(g.place.got, g.got)])

/-- The image over the parts: IMGOFF and its bytes, gaps zero (R392). -/
def imageOf (parts : List (Nat × List Byte)) : Nat × List Byte :=
  match (parts.map Prod.fst).min? with
  | none => (0, [])
  | some lo =>
    let hi := (parts.map (fun p => p.1 + p.2.length)).foldl max 0
    (lo, parts.foldl (fun b p => b.take (p.1 - lo) ++ p.2 ++ b.drop (p.1 - lo + p.2.length)) (List.replicate (hi - lo) 0))

/-- The 1,088 bytes of a template (R231). -/
def templateBytes (t : Template) (imgVa imgOff imgLen : Nat) : List Byte :=
  toBytes 4 t.psBase ++ toBytes 4 t.psSize ++ toBytes 8 imgVa ++ toBytes 4 imgLen ++ toBytes 4 imgOff ++ List.replicate 40 0
    ++ t.ports.flatMap (toBytes 8) ++ t.pats.flatMap (toBytes 16) ++ t.hnds.flatMap (toBytes 8)

/-- The 64 bytes of a flock descriptor (R230): SEN := 1, SPORT := 0, RETIRE := 0. -/
def flockBytes (fidx : Nat) (r : MetaRec) (templateVa : Nat) : List Byte :=
  toBytes 2 fidx ++ toBytes 2 0x8000 ++ (r.body.drop 8).take 16 ++ toBytes 4 0 ++ toBytes 8 templateVa ++ List.replicate 32 0

/-- What the loader builds for an image at a data address: the bytes, and the offsets in them of the descriptors and of the
prototype. Every FLOCK record has its descriptor: those that the HERD record names come first, in its order (R392). -/
def emit (g : Staged) (zero : List (Nat × List Byte)) (plan : LoadPlan) (va fbase : Nat) (kernel : Bool) :
    List Byte × Nat × Option Nat :=
  let (off, img) := imageOf (zero ++ g.parts plan)
  let imgB := pad64 img
  let tBase := va + imgB.length
  let vts := g.vtiles
  let tB := vts.flatMap (fun v => templateBytes v.2.2 (if img.isEmpty then 0 else va) off img.length)
  let tVa (sec rec_ : Nat) : Nat := tBase + 1088 * vts.findIdx (fun v => v.1 == sec && v.2.1.idx == rec_)
  let ord (sec rec_ : Nat) : Nat := g.flocks.findIdx (fun f => f.1 == sec && f.2.idx == rec_)
  let named (sec k : Nat) : List (Nat × MetaRec) := g.flocks.filter (fun f => f.1 == sec && f.2.idx == k)
  let first := match g.herds with
    | [h] => (List.range (h.2.f 4 4)).flatMap (fun k => named h.1 (h.2.f (16 + 4 * k) 4))
    | _ => []
  let order := first ++ g.flocks.filter (fun f => !first.contains f)
  let fB := order.flatMap (fun f => flockBytes (fbase + ord f.1 f.2.idx) f.2 (tVa f.1 (f.2.f 4 4)))
  let fOff := imgB.length + tB.length
  let body := imgB ++ tB ++ fB
  match kernel, g.herds with
  | true, [h] =>
    let proto := toBytes 8 (h.2.f 4 4 * 2 ^ 16) ++ toBytes 8 (h.2.f 8 8) ++ toBytes 8 0 ++ toBytes 8 (va + fOff)
      ++ List.replicate 32 0
    (body ++ proto, fOff, some body.length)
  | _, _ => (body, fOff, none)

/-! ## Functions (R377, R381) -/

/-- What goes along a load: the machine, the text ranges taken, the next data address, and the functions done. -/
structure Loading where
  s : State
  texts : List (Nat × Nat)
  va : Nat
  done : List Kernel
  deriving DecidableEq, Repr, Inhabited

/-- The candidates of a function, in the order of R377. -/
def Cont.candidates (c : Cont) (active : Nat) (b1 : Bool) (f : Fn) : List Img :=
  let run := (c.imgs.drop f.firstImg).take f.nImg
  let ok (i : Img) : Bool := (BitVec.ofNat 64 i.req &&& ~~~(BitVec.ofNat 64 active)) == 0 && decide (i.gen ≤ 3)
    && (i.step == 0 || bit i.step (b2n b1))
  (run.filter ok).mergeSort (fun a b => decide (b.prefer < a.prefer) || (a.prefer == b.prefer
    && (decide (b.gen < a.gen) || (a.gen == b.gen && decide (a.idx ≤ b.idx)))))

/-- Is a function a kernel (R375)? -/
def Cont.isKernel (c : Cont) (f : Fn) : Bool :=
  ((c.imgs.drop f.firstImg).take f.nImg).all (fun i => c.herds i.unit == 1)

/-- Shared unit 0 as loaded. -/
structure Shared where
  place : Placed
  parts : List (Nat × List Byte)
  deriving DecidableEq, Repr, Inhabited

/-- The loader completes an instruction invalidation of kind 4 (R380, R303). -/
def State.kind4 (s : State) (ctx : Nat) : State :=
  let t := s.invInsn ctx
  { t with regs := { t.regs with tinvDone := (t.regs.tinvDone + 1) % 2 ^ 32 } }

/-- The context has used the features that a loaded image requires (R368). -/
def State.usesFeatures (s : State) (ctx req : Nat) : State := s.modCtx ctx (fun c => { c with live := c.live ||| word req })

/-- Load an image: none where its unit is rejected; outer none where the plan's metadata space is not mapped. -/
def Loading.image (l : Loading) (ctx : Nat) (c : Cont) (plan : LoadPlan) (sh : Shared) (n : Nat) (f : Fn) (i : Img) (own : Bool) :
    Option (Option Loading) :=
  let d := (l.s.ctx ctx).desc
  match l.s.stage d c plan i.unit { sh.place with texts := l.texts } i.ops i.cls with
  | .error _ => some none
  | .ok (g, cls) =>
    let (bytes, fOff, proto) := emit g sh.parts plan l.va (plan.fbases.getD n 0) (if own then c.isKernel f else g.herds.length == 1)
    match l.s.virtPieces d l.va bytes.length with
    | .error _ => none
    | .ok ps =>
      let s := (((l.s.writeTexts d plan g.secs).writePieces ps bytes).kind4 ctx).usesFeatures ctx i.req
      let k : Kernel := ⟨ctx, n, .ok, if own then some i.idx else none, cls, l.va + fOff, proto.map (fun o => l.va + o)⟩
      some (some ⟨s, l.texts ++ g.place.texts, l.va + bytes.length, l.done ++ [k]⟩)

/-- The first of the candidates that is accepted. -/
def Loading.images (l : Loading) (ctx : Nat) (c : Cont) (plan : LoadPlan) (sh : Shared) (n : Nat) (f : Fn) :
    List Img → Option (Option Loading)
  | [] => some none
  | i :: is => match l.image ctx c plan sh n f i true with
    | some none => l.images ctx c plan sh n f is
    | r => r

/-- Translate from the first portable entry that gives an image that loads (R381): the entries in rising LEVEL. -/
def Loading.forms (l : Loading) (ctx : Nat) (b : List Byte) (c : Cont) (plan : LoadPlan) (sh : Shared) (n : Nat) (f : Fn) :
    List Nat → Option (Option Loading)
  | [] => some none
  | k :: ks =>
    match formClass c l.s.ident.steppingB1 f 3 k with
    | none => l.forms ctx b c plan sh n f ks
    | some cls =>
      let made : Option Cont := do
        let e ← c.pfs[k]?
        let sec ← c.secs[e.sect]?
        let form ← readForm sec.data e.level
        form.image b c f n e.level k
      match made with
      | none => l.forms ctx b c plan sh n f ks
      | some nc => match l.image ctx nc plan sh n f
          { idx := 0, unit := formUnit, prefer := 0, gen := 3, step := 0, cls := cls, req := 1, ops := 0 } false with
        | some none => l.forms ctx b c plan sh n f ks
        | r => r

/-- Load one function. -/
def Loading.function (l : Loading) (ctx : Nat) (b : List Byte) (c : Cont) (plan : LoadPlan) (sh : Shared) (n : Nat) (f : Fn) :
    Option Loading :=
  match l.images ctx c plan sh n f (c.candidates l.s.active_ l.s.ident.steppingB1 f) with
  | none => none
  | some (some l) => some l
  | some none => match l.forms ctx b c plan sh n f (formOrder c f) with
    | none => none
    | some (some l) => some l
    | some none => some { l with done := l.done ++ [⟨ctx, n, .noImage, none, 2, 0, none⟩] }

/-- Load every function. -/
def Loading.functions (ctx : Nat) (b : List Byte) (c : Cont) (plan : LoadPlan) (sh : Shared) : List (Nat × Fn) → Loading → Option Loading
  | [], l => some l
  | p :: ps, l => match l.function ctx b c plan sh p.1 p.2 with
    | none => none
    | some l => Loading.functions ctx b c plan sh ps l

/-- A container rejected whole: every function gets the status. -/
def rejectAll (ctx : Nat) (fns : Nat) (st : LoadStatus) : List Kernel :=
  (List.range fns).map (fun n => ⟨ctx, n, st, none, 2, 0, none⟩)

/-- R377 CONTAINER_LOAD: unit 0 once, then every function. The event is not enabled for a context that does not exist, nor
with a plan whose metadata space is not mapped; the loader waits while another invalidation is in progress. -/
def execContainerLoad (ctx : Nat) (b : List Byte) (plan : LoadPlan) (s : State) : Host.Outcome State Fault Refusal :=
  if (s.ctx ctx).regs.st == .none || plan.metaVa % 64 != 0 || s.regs.tinvBusy then .refused (.notEnabled "CONTAINER_LOAD")
  else match readContainer b plan.pfTab with
    | none => .next { s with kernels := s.kernels ++ rejectAll ctx (max 1 (hdrNfunc b)) .badContainer }
    | some c =>
      let d := (s.ctx ctx).desc
      match s.stage d c plan 0 Placed.none 0 3 with
      | .error st => .next { s with kernels := s.kernels ++ rejectAll ctx c.fns.length st }
      | .ok (g, _) =>
        let s0 := (s.writeTexts d plan g.secs).kind4 ctx
        let l : Loading := ⟨s0, g.place.texts, plan.metaVa, []⟩
        match Loading.functions ctx b c plan ⟨g.place, g.parts plan⟩ ((List.range c.fns.length).zip c.fns) l with
        | none => .refused (.notEnabled "CONTAINER_LOAD")
        | some l => .next { l.s with kernels := l.s.kernels ++ l.done }

end Sys2Proof.Machine
end

