-- ==== Sys2Proof/Machine/Dispatch.lean ====
section
/-!
DEFINITION. One arm per instruction: its meaning.
-/
namespace Sys2Proof.Machine

def exec (i : Instr) (s : State) : Host.Outcome State Fault Refusal :=
  match i with
  | .m3 a b c => Sys2Proof.Machine.execM3 a b c s
  | .mh a b imm xd ig => Sys2Proof.Machine.execMh a b imm xd ig s
  | .mw a imm xd => Sys2Proof.Machine.execMw a imm xd s
  | .br m cg off => Sys2Proof.Machine.execBr m cg off s
  | .call m cg off link => Sys2Proof.Machine.execCall m cg off link s
  | .ret m cg r => Sys2Proof.Machine.execRet m cg r s
  | .jmp m cg r => Sys2Proof.Machine.execJmp m cg r s
  | .calli m cg r link => Sys2Proof.Machine.execCalli m cg r link s
  | .rep m cg off r count => Sys2Proof.Machine.execRep m cg off r count s
  | .endF m cg => Sys2Proof.Machine.execEndF m cg s
  | .park m cg kind r => Sys2Proof.Machine.execPark m cg kind r s
  | .harr m cg h => Sys2Proof.Machine.execHarr m cg h s
  | .hwait m cg h => Sys2Proof.Machine.execHwait m cg h s
  | .trap m cg code => Sys2Proof.Machine.execTrap m cg code s
  | .stclr xa => Sys2Proof.Machine.execStclr xa s
  | .satwr xa => Sys2Proof.Machine.execSatwr xa s
  | .rset xa ring => Sys2Proof.Machine.execRset xa ring s
  | .mtsr reg xa => Sys2Proof.Machine.execMtsr reg xa s
  | .halt group => Sys2Proof.Machine.execHalt group s
  | .hgrp xa => Sys2Proof.Machine.execHgrp xa s
  | .einj xa kind => Sys2Proof.Machine.execEinj xa kind s
  | .tret => Sys2Proof.Machine.execTret s
  | .resultLanding r u => Sys2Proof.Machine.execResultLanding r u s
  | .storeBufferPerform r => Sys2Proof.Machine.execStoreBufferPerform r s
  | .pendingRecordPerform r u => Sys2Proof.Machine.execPendingRecordPerform r u s
  | .parkWake r => Sys2Proof.Machine.execParkWake r s
  | .forcedUserIssue site => Sys2Proof.Machine.execForcedUserIssue site s
  | .aluAdd n m => Sys2Proof.Machine.execAluAdd n m s
  | .aluSub n m => Sys2Proof.Machine.execAluSub n m s
  | .aluAnd n m => Sys2Proof.Machine.execAluAnd n m s
  | .aluOr n m => Sys2Proof.Machine.execAluOr n m s
  | .aluXor n m => Sys2Proof.Machine.execAluXor n m s
  | .aluAndn n m => Sys2Proof.Machine.execAluAndn n m s
  | .aluShl n m => Sys2Proof.Machine.execAluShl n m s
  | .aluShr n m => Sys2Proof.Machine.execAluShr n m s
  | .aluSra n m => Sys2Proof.Machine.execAluSra n m s
  | .aluRol n m => Sys2Proof.Machine.execAluRol n m s
  | .aluRor n m => Sys2Proof.Machine.execAluRor n m s
  | .aluMin n m => Sys2Proof.Machine.execAluMin n m s
  | .aluMax n m => Sys2Proof.Machine.execAluMax n m s
  | .aluEq n m => Sys2Proof.Machine.execAluEq n m s
  | .aluNe n m => Sys2Proof.Machine.execAluNe n m s
  | .aluLt n m => Sys2Proof.Machine.execAluLt n m s
  | .aluLe n m => Sys2Proof.Machine.execAluLe n m s
  | .aluSel n m => Sys2Proof.Machine.execAluSel n m s
  | .aluBfx n m => Sys2Proof.Machine.execAluBfx n m s
  | .aluBfi n m => Sys2Proof.Machine.execAluBfi n m s
  | .aluClz n m => Sys2Proof.Machine.execAluClz n m s
  | .aluCtz n m => Sys2Proof.Machine.execAluCtz n m s
  | .aluPopc n m => Sys2Proof.Machine.execAluPopc n m s
  | .aluBswap n m => Sys2Proof.Machine.execAluBswap n m s
  | .aluAdds n m => Sys2Proof.Machine.execAluAdds n m s
  | .aluSubs n m => Sys2Proof.Machine.execAluSubs n m s
  | .aluAbs n m => Sys2Proof.Machine.execAluAbs n m s
  | .aluNeg n m => Sys2Proof.Machine.execAluNeg n m s
  | .mulMul m => Sys2Proof.Machine.execMulMul m s
  | .mulMulh m => Sys2Proof.Machine.execMulMulh m s
  | .mulMulw m => Sys2Proof.Machine.execMulMulw m s
  | .mulMad m => Sys2Proof.Machine.execMulMad m s
  | .mulDiv m => Sys2Proof.Machine.execMulDiv m s
  | .mulRem m => Sys2Proof.Machine.execMulRem m s
  | .mulDivrem m => Sys2Proof.Machine.execMulDivrem m s
  | .aguAdd m => Sys2Proof.Machine.execAguAdd m s
  | .aguIdx m => Sys2Proof.Machine.execAguIdx m s
  | .aguIdx2 m => Sys2Proof.Machine.execAguIdx2 m s
  | .aguChk m => Sys2Proof.Machine.execAguChk m s
  | .aguWrap m => Sys2Proof.Machine.execAguWrap m s
  | .aguHmk m => Sys2Proof.Machine.execAguHmk m s
  | .aguHadv m => Sys2Proof.Machine.execAguHadv m s
  | .aguHrel m => Sys2Proof.Machine.execAguHrel m s
  | .lsuLd m => Sys2Proof.Machine.execLsuLd m s
  | .lsuSt m => Sys2Proof.Machine.execLsuSt m s
  | .lsuLdWf m => Sys2Proof.Machine.execLsuLdWf m s
  | .lsuLdTake m => Sys2Proof.Machine.execLsuLdTake m s
  | .lsuStFill m => Sys2Proof.Machine.execLsuStFill m s
  | .lsuFeRd m => Sys2Proof.Machine.execLsuFeRd m s
  | .lsuFeClr m => Sys2Proof.Machine.execLsuFeClr m s
  | .lsuAAdd m => Sys2Proof.Machine.execLsuAAdd m s
  | .lsuAAnd m => Sys2Proof.Machine.execLsuAAnd m s
  | .lsuAOr m => Sys2Proof.Machine.execLsuAOr m s
  | .lsuAXor m => Sys2Proof.Machine.execLsuAXor m s
  | .lsuAMin m => Sys2Proof.Machine.execLsuAMin m s
  | .lsuAMax m => Sys2Proof.Machine.execLsuAMax m s
  | .lsuACas m => Sys2Proof.Machine.execLsuACas m s
  | .lsuASwap m => Sys2Proof.Machine.execLsuASwap m s
  | .lsuFence m => Sys2Proof.Machine.execLsuFence m s
  | .lsuRel m => Sys2Proof.Machine.execLsuRel m s
  | .lsuAcq m => Sys2Proof.Machine.execLsuAcq m s
  | .lsuCLd m => Sys2Proof.Machine.execLsuCLd m s
  | .lsuCSt m => Sys2Proof.Machine.execLsuCSt m s
  | .lsuCAddO m => Sys2Proof.Machine.execLsuCAddO m s
  | .lsuCAddU m => Sys2Proof.Machine.execLsuCAddU m s
  | .lsuCMinO m => Sys2Proof.Machine.execLsuCMinO m s
  | .lsuCMinU m => Sys2Proof.Machine.execLsuCMinU m s
  | .lsuCMaxO m => Sys2Proof.Machine.execLsuCMaxO m s
  | .lsuCMaxU m => Sys2Proof.Machine.execLsuCMaxU m s
  | .lsuCCasO m => Sys2Proof.Machine.execLsuCCasO m s
  | .lsuCCasU m => Sys2Proof.Machine.execLsuCCasU m s
  | .lsuCSwapO m => Sys2Proof.Machine.execLsuCSwapO m s
  | .lsuCSwapU m => Sys2Proof.Machine.execLsuCSwapU m s
  | .lsuCDecq m => Sys2Proof.Machine.execLsuCDecq m s
  | .commonsBankPerform ctx id => Sys2Proof.Machine.execCommonsBankPerform ctx id s
  | .scopeMiss ctx id => Sys2Proof.Machine.execScopeMiss ctx id s
  | .fpuAdd m rm => Sys2Proof.Machine.execFpuAdd m rm s
  | .fpuSub m rm => Sys2Proof.Machine.execFpuSub m rm s
  | .fpuMul m rm => Sys2Proof.Machine.execFpuMul m rm s
  | .fpuFma m rm => Sys2Proof.Machine.execFpuFma m rm s
  | .fpuDiv m rm => Sys2Proof.Machine.execFpuDiv m rm s
  | .fpuSqrt m rm => Sys2Proof.Machine.execFpuSqrt m rm s
  | .fpuCvt m rm => Sys2Proof.Machine.execFpuCvt m rm s
  | .fpuCvti m rm => Sys2Proof.Machine.execFpuCvti m rm s
  | .fpuCvtf m rm => Sys2Proof.Machine.execFpuCvtf m rm s
  | .fpuMin m => Sys2Proof.Machine.execFpuMin m s
  | .fpuMax m => Sys2Proof.Machine.execFpuMax m s
  | .fpuEq m => Sys2Proof.Machine.execFpuEq m s
  | .fpuLt m => Sys2Proof.Machine.execFpuLt m s
  | .fpuLe m => Sys2Proof.Machine.execFpuLe m s
  | .fpuUn m => Sys2Proof.Machine.execFpuUn m s
  | .fpuAbs m => Sys2Proof.Machine.execFpuAbs m s
  | .fpuNeg m => Sys2Proof.Machine.execFpuNeg m s
  | .fpuClass m => Sys2Proof.Machine.execFpuClass m s
  | .vecAdd m rm => Sys2Proof.Machine.execVecAdd m rm s
  | .vecSub m rm => Sys2Proof.Machine.execVecSub m rm s
  | .vecMul m rm => Sys2Proof.Machine.execVecMul m rm s
  | .vecFma m rm => Sys2Proof.Machine.execVecFma m rm s
  | .vecCvt m rm => Sys2Proof.Machine.execVecCvt m rm s
  | .vecCvti m rm => Sys2Proof.Machine.execVecCvti m rm s
  | .vecCvtf m rm => Sys2Proof.Machine.execVecCvtf m rm s
  | .vecRedaddO m rm => Sys2Proof.Machine.execVecRedaddO m rm s
  | .vecRedaddU m rm => Sys2Proof.Machine.execVecRedaddU m rm s
  | .vecBfdec m rm => Sys2Proof.Machine.execVecBfdec m rm s
  | .vecMin m => Sys2Proof.Machine.execVecMin m s
  | .vecMax m => Sys2Proof.Machine.execVecMax m s
  | .vecEq m => Sys2Proof.Machine.execVecEq m s
  | .vecLt m => Sys2Proof.Machine.execVecLt m s
  | .vecLe m => Sys2Proof.Machine.execVecLe m s
  | .vecSel m => Sys2Proof.Machine.execVecSel m s
  | .vecAbs m => Sys2Proof.Machine.execVecAbs m s
  | .vecNeg m => Sys2Proof.Machine.execVecNeg m s
  | .vecRedmax m => Sys2Proof.Machine.execVecRedmax m s
  | .vecRedmin m => Sys2Proof.Machine.execVecRedmin m s
  | .vecBfenc m => Sys2Proof.Machine.execVecBfenc m s
  | .vecBfalign m => Sys2Proof.Machine.execVecBfalign m s
  | .vecExp m => Sys2Proof.Machine.execVecExp m s
  | .vecLog m => Sys2Proof.Machine.execVecLog m s
  | .vecRcp m => Sys2Proof.Machine.execVecRcp m s
  | .vecRsqrt m => Sys2Proof.Machine.execVecRsqrt m s
  | .vecTanh m => Sys2Proof.Machine.execVecTanh m s
  | .vecSigm m => Sys2Proof.Machine.execVecSigm m s
  | .vecPerm m => Sys2Proof.Machine.execVecPerm m s
  | .vecBcast m => Sys2Proof.Machine.execVecBcast m s
  | .vecRotl m => Sys2Proof.Machine.execVecRotl m s
  | .vecVld m => Sys2Proof.Machine.execVecVld m s
  | .vecVst m => Sys2Proof.Machine.execVecVst m s
  | .vecVldWf m => Sys2Proof.Machine.execVecVldWf m s
  | .vecIadd m => Sys2Proof.Machine.execVecIadd m s
  | .vecIsub m => Sys2Proof.Machine.execVecIsub m s
  | .vecImul m => Sys2Proof.Machine.execVecImul m s
  | .vecIand m => Sys2Proof.Machine.execVecIand m s
  | .vecIor m => Sys2Proof.Machine.execVecIor m s
  | .vecIxor m => Sys2Proof.Machine.execVecIxor m s
  | .vecIshl m => Sys2Proof.Machine.execVecIshl m s
  | .vecIshr m => Sys2Proof.Machine.execVecIshr m s
  | .vecImin m => Sys2Proof.Machine.execVecImin m s
  | .vecImax m => Sys2Proof.Machine.execVecImax m s
  | .rngSeed m => Sys2Proof.Machine.execRngSeed m s
  | .rngDraw m => Sys2Proof.Machine.execRngDraw m s
  | .rngUnif m => Sys2Proof.Machine.execRngUnif m s
  | .rngNorm m => Sys2Proof.Machine.execRngNorm m s
  | .mxqCmd c => Sys2Proof.Machine.execMxqCmd c s
  | .mxqPoll m => Sys2Proof.Machine.execMxqPoll m s
  | .accz v => Sys2Proof.Machine.execAccz v s
  | .accld v => Sys2Proof.Machine.execAccld v s
  | .bload v => Sys2Proof.Machine.execBload v s
  | .mmaO v => Sys2Proof.Machine.execMmaO v s
  | .mmaG v => Sys2Proof.Machine.execMmaG v s
  | .drain v => Sys2Proof.Machine.execDrain v s
  | .mxfence v => Sys2Proof.Machine.execMxfence v s
  | .mxstat v => Sys2Proof.Machine.execMxstat v s
  | .cpeSend m => Sys2Proof.Machine.execCpeSend m s
  | .cpeRead m => Sys2Proof.Machine.execCpeRead m s
  | .cpeStore m => Sys2Proof.Machine.execCpeStore m s
  | .cpeMuster m => Sys2Proof.Machine.execCpeMuster m s
  | .cpeScatter m => Sys2Proof.Machine.execCpeScatter m s
  | .cpeRsend m => Sys2Proof.Machine.execCpeRsend m s
  | .cpeSeal m => Sys2Proof.Machine.execCpeSeal m s
  | .cpeCwait m => Sys2Proof.Machine.execCpeCwait m s
  | .musterIndexRead v cseq => Sys2Proof.Machine.execMusterIndexRead v cseq s
  | .segmentTranslation v o seg => Sys2Proof.Machine.execSegmentTranslation v o seg s
  | .copyLanding v o seg => Sys2Proof.Machine.execCopyLanding v o seg s
  | .ringReservation v cseq => Sys2Proof.Machine.execRingReservation v cseq s
  | .msgSend m => Sys2Proof.Machine.execMsgSend m s
  | .msgSendv m => Sys2Proof.Machine.execMsgSendv m s
  | .msgSendr m => Sys2Proof.Machine.execMsgSendr m s
  | .msgSvc m => Sys2Proof.Machine.execMsgSvc m s
  | .messageDelivery ctx id => Sys2Proof.Machine.execMessageDelivery ctx id s
  | .firingStart v => Sys2Proof.Machine.execFiringStart v s
  | .patPcfg m => Sys2Proof.Machine.execPatPcfg m s
  | .patPrd m => Sys2Proof.Machine.execPatPrd m s
  | .patPset m => Sys2Proof.Machine.execPatPset m s
  | .patPget m => Sys2Proof.Machine.execPatPget m s
  | .patHset m => Sys2Proof.Machine.execPatHset m s
  | .patHget m => Sys2Proof.Machine.execPatHget m s
  | .patPen m => Sys2Proof.Machine.execPatPen m s
  | .patPdis m => Sys2Proof.Machine.execPatPdis m s
  | .sysFsr m => Sys2Proof.Machine.execSysFsr m s
  | .sysCfgrd m => Sys2Proof.Machine.execSysCfgrd m s
  | .sysCfgwr m => Sys2Proof.Machine.execSysCfgwr m s
  | .mxctlRelease v => Sys2Proof.Machine.execMxctlRelease v s
  | .mxctlDiscard v => Sys2Proof.Machine.execMxctlDiscard v s
  | .holdRelease v => Sys2Proof.Machine.execHoldRelease v s
  | .holdAbort v => Sys2Proof.Machine.execHoldAbort v s
  | .tfbaseWrite v val => Sys2Proof.Machine.execTfbaseWrite v val s
  | .segrstRestart v o => Sys2Proof.Machine.execSegrstRestart v o s
  | .segrstAbandon v o => Sys2Proof.Machine.execSegrstAbandon v o s
  | .hgres v group => Sys2Proof.Machine.execHgres v group s
  | .cfgWrite ctx id => Sys2Proof.Machine.execCfgWrite ctx id s
  | .trapEntry r => Sys2Proof.Machine.execTrapEntry r s
  | .heldTrapDelivery v k => Sys2Proof.Machine.execHeldTrapDelivery v k s
  | .haltStop t => Sys2Proof.Machine.execHaltStop t s
  | .haltResume t => Sys2Proof.Machine.execHaltResume t s
  | .launchQueueTake ctx q => Sys2Proof.Machine.execLaunchQueueTake ctx q s
  | .flockFinish ctx fidx => Sys2Proof.Machine.execFlockFinish ctx fidx s
  | .queueSwitchIn ctx q => Sys2Proof.Machine.execQueueSwitchIn ctx q s
  | .placement ctx fidx => Sys2Proof.Machine.execPlacement ctx fidx s
  | .agingStep ctx fidx => Sys2Proof.Machine.execAgingStep ctx fidx s
  | .rotationIn ctx fidx => Sys2Proof.Machine.execRotationIn ctx fidx s
  | .rotationOut ctx fidx => Sys2Proof.Machine.execRotationOut ctx fidx s
  | .flip site => Sys2Proof.Machine.execFlip site s
  | .unitSpill v u => Sys2Proof.Machine.execUnitSpill v u s
  | .unitRestore v u => Sys2Proof.Machine.execUnitRestore v u s
  | .timeSliceSwitch site => Sys2Proof.Machine.execTimeSliceSwitch site s
  | .idleSliceSwitch site => Sys2Proof.Machine.execIdleSliceSwitch site s
  | .driftLoadExchange => Sys2Proof.Machine.execDriftLoadExchange s
  | .scrub t => Sys2Proof.Machine.execScrub t s
  | .create ctx => Sys2Proof.Machine.execCreate ctx s
  | .suspend ctx => Sys2Proof.Machine.execSuspend ctx s
  | .resume ctx => Sys2Proof.Machine.execResume ctx s
  | .teardown ctx cause => Sys2Proof.Machine.execTeardown ctx cause s
  | .lqcfgWrite ctx q val => Sys2Proof.Machine.execLqcfgWrite ctx q val s
  | .lqtailWrite h ctx q val => Sys2Proof.Machine.execLqtailWrite h ctx q val s
  | .stage1All ctx => Sys2Proof.Machine.execStage1All ctx s
  | .stage1Range ctx => Sys2Proof.Machine.execStage1Range ctx s
  | .stage2All vmid => Sys2Proof.Machine.execStage2All vmid s
  | .stage2Range vmid => Sys2Proof.Machine.execStage2Range vmid s
  | .instructionAll ctx => Sys2Proof.Machine.execInstructionAll ctx s
  | .descriptorReload ctx => Sys2Proof.Machine.execDescriptorReload ctx s
  | .invalidationComplete => Sys2Proof.Machine.execInvalidationComplete s
  | .keyLoad slot owner => Sys2Proof.Machine.execKeyLoad slot owner s
  | .keyZero slot owner => Sys2Proof.Machine.execKeyZero slot owner s
  | .featmWrite val => Sys2Proof.Machine.execFeatmWrite val s
  | .rimgRestore ctx val => Sys2Proof.Machine.execRimgRestore ctx val s
  | .cmsend h ctx => Sys2Proof.Machine.execCmsend h ctx s
  | .ccopLd ctx => Sys2Proof.Machine.execCcopLd ctx s
  | .ccopSt h ctx => Sys2Proof.Machine.execCcopSt h ctx s
  | .hstop mask => Sys2Proof.Machine.execHstop mask s
  | .hresume mask => Sys2Proof.Machine.execHresume mask s
  | .routeWrite m second val => Sys2Proof.Machine.execRouteWrite m second val s
  | .registerWrite h loc val => Sys2Proof.Machine.execRegisterWrite h loc val s
  | .recoveryPointCut => Sys2Proof.Machine.execRecoveryPointCut s
  | .pointCommit => Sys2Proof.Machine.execPointCommit s
  | .rollback => Sys2Proof.Machine.execRollback s
  | .linkFlitRetry link port fails => Sys2Proof.Machine.execLinkFlitRetry link port fails s
  | .meshLinkCalibration link => Sys2Proof.Machine.execMeshLinkCalibration link s
  | .fabricLaneCalibration port => Sys2Proof.Machine.execFabricLaneCalibration port s
  | .telemetrySample => Sys2Proof.Machine.execTelemetrySample s
  | .powerThrottle => Sys2Proof.Machine.execPowerThrottle s
  | .thermalThrottle field => Sys2Proof.Machine.execThermalThrottle field s
  | .thermalTrip field => Sys2Proof.Machine.execThermalTrip field s
  | .boot => Sys2Proof.Machine.execBoot s
  | .firmwareUpdate image => Sys2Proof.Machine.execFirmwareUpdate image s
  | .svnRaise => Sys2Proof.Machine.execSvnRaise s
  | .loaderMeasurement digest => Sys2Proof.Machine.execLoaderMeasurement digest s
  | .attestationReport nonce => Sys2Proof.Machine.execAttestationReport nonce s
  | .softError t uncorrectable => Sys2Proof.Machine.execSoftError t uncorrectable s
  | .linkUp port => Sys2Proof.Machine.execLinkUp port s
  | .hbm4eRefresh stack => Sys2Proof.Machine.execHbm4eRefresh stack s
  | .containerLoad ctx container plan => Sys2Proof.Machine.execContainerLoad ctx container plan s
  | .croftMemoryAccess h op => Sys2Proof.Machine.execCroftMemoryAccess h op s

end Sys2Proof.Machine
end

