-- ==== Sys2Proof/Machine/Events.lean ====
section
/-!
DEFINITION. Which steps the machine may take next, and how one is taken: the issue of a slot's instruction, or a step of
an engine, the shepherd, or the outside world. The spec leaves the order of agents open (R240, R262, R287): the step
chooses by `Config.choose` among all that are enabled (log 1).
-/
namespace Sys2Proof.Machine

/-- Does a step answer anything but a refusal? -/
def notRefused (o : Host.Outcome State Fault Refusal) : Bool :=
  match o with
  | .refused _ => false
  | _ => true

/-- Is the step of an event due in this state? For the many units of an image, the meaning's own condition is asked. -/
def State.enabled (s : State) (i : Instr) : Bool :=
  match i with
  | .unitSpill v u => s.maySpill v u
  | .unitRestore v u => s.mayRestore v u
  | i => notRefused (exec i s)

/-- A candidate: the issue of a slot, or an event. -/
inductive Cand where
  | issue (r : SRef)
  | event (i : Instr)
  deriving DecidableEq, Repr, Inhabited

/-! ## Slots, engines and the message interface -/

/-- All units, in the order of R89. -/
def allUnits : List FUnit := [.alu0, .alu1, .mul, .agu, .lsu, .fpu, .vec, .rng, .mxq, .cpe, .msg, .pat, .sys]

/-- Events of a slot but the wakes. -/
def slotEvents (r : SRef) (sl : Slot) : List Instr :=
  (if sl.ops.isEmpty then [] else allUnits.flatMap (fun u =>
      if sl.ops.any (fun f => f.unit == u) then [.resultLanding r u, .pendingRecordPerform r u] else []))
    ++ (if sl.sb.isEmpty then [] else [.storeBufferPerform r])
    ++ (if sl.pendTrap.isSome then [.trapEntry r] else [])

/-- Events of the segments of a copy or of a BLOAD. -/
def segEvents (v : VRef) (o : SegOwner) (n : Nat) : List Instr :=
  (List.range n).flatMap (fun k => [.segmentTranslation v o k, .copyLanding v o k])

/-- Events of a vtile's copies. -/
def copyEvents (v : VRef) (t : Vtile) : List Instr :=
  (t.copies.filter (fun c => !c.finished)).flatMap (fun c =>
    let q : Word32 := BitVec.ofNat 32 c.cseq
    [.musterIndexRead v q, .ringReservation v q] ++ segEvents v (.copy q) (c.idxSegs.length + c.segs.length))

/-- Events of the matrix unit: the eight commands, of which at most one is at the head of the queue. -/
def matrixEvents (v : VRef) (t : Vtile) : List Instr :=
  match t.mx.queue with
  | [] => []
  | c :: _ => [.accz v, .accld v, .bload v, .mmaO v, .mmaG v, .drain v, .mxfence v, .mxstat v]
      ++ segEvents v (.bload (BitVec.ofNat 32 c.seq)) t.mx.run.segs.length

/-- Units of a vtile that may be spilled or restored. -/
def unitEvents (s : State) (v : VRef) (t : Vtile) : List Instr :=
  (if s.spills v then ((List.range 512).map (fun n => .unitSpill v (.sp n)))
      ++ (List.range 64).flatMap (fun col => (List.range (ceilDiv t.mx.bhwm 8192)).map (fun n => .unitSpill v (.bs col n)))
    else [])
    ++ (if t.spOut.isEmpty then [] else (s.nextSp v).map (fun n => .unitRestore v (.sp n)))
    ++ (if t.mx.bsOut.isEmpty then [] else (s.nextBs v).map (fun k => .unitRestore v (.bs (k / 16) (k % 16))))

/-- What the scrubber may find in a vtile (R359). -/
def scrubVtile (v : VRef) (t : Vtile) : List Instr :=
  t.marks.map (fun p => .scrub (.scratchpad v (8 * p.1)))
    ++ ((t.mx.bpoison.map (fun p => p.1 / 8)).eraseDups).map (fun k => .scrub (.bstore v (k / 131072) (k % 131072)))

/-- Events of a vtile. -/
def vtileEvents (s : State) (v : VRef) (t : Vtile) : List Instr :=
  ((List.range 8).flatMap (fun i => slotEvents ⟨v, Fin.ofNat 8 i⟩ (s.slot ⟨v, Fin.ofNat 8 i⟩)))
    ++ (List.range t.held.length).map (fun k => .heldTrapDelivery v k)
    ++ matrixEvents v t ++ copyEvents v t ++ unitEvents s v t ++ scrubVtile v t
    ++ t.outq.flatMap (fun m => [.messageDelivery v.ctx m.id, .cfgWrite v.ctx m.id])
    ++ (if t.hgroups != 0 || t.halted then [.haltStop (.vtile v), .haltResume (.vtile v)] else [])

/-! ## Contexts -/

/-- Events of a context's flocks and queues. -/
def shepherdEvents (n : Nat) (c : Ctx) : List Instr :=
  (c.flocks.filter (fun p => p.2.st != .nonexistent)).flatMap (fun p =>
      (if p.2.ready || p.2.st == .resident then [.placement n p.1] else []) ++ (if p.2.ready then [.agingStep n p.1] else [])
        ++ [.rotationIn n p.1, .rotationOut n p.1])
    ++ ((List.range 16).filter (fun q => (vget c.queues q LaunchQueue.blank).en)).flatMap (fun q =>
      [.launchQueueTake n (Fin.ofNat 16 q), .queueSwitchIn n (Fin.ofNat 16 q)])

/-- Events of a context. One that is being torn down only finishes that. -/
def ctxEvents (s : State) (n : Nat) (c : Ctx) : List Instr :=
  match c.regs.st with
  | .none => []
  | .tearing => [.teardown n 0]
  | .live | .suspended =>
    c.vts.flatMap (fun p => vtileEvents s ⟨n, p.1⟩ p.2)
      ++ c.msgs.flatMap (fun m => [.messageDelivery n m.id, .cfgWrite n m.id])
      ++ c.bankOps.map (fun u => .commonsBankPerform n u.id)
      ++ c.misses.map (fun m => .scopeMiss n m.id)
      ++ c.cmarks.map (fun p => .scrub (.commons n (64 * p.1)))
      ++ shepherdEvents n c

/-! ## The module -/

/-- Events of a tile site. -/
def tileEvents (site : Nat) : List Instr := [.flip site, .timeSliceSwitch site, .idleSliceSwitch site]

/-- Events of the module: recovery, translation, drift, the scrubber, halted harts. -/
def moduleEvents (s : State) : List Instr :=
  [.recoveryPointCut, .driftLoadExchange]
    ++ (if s.recovery.pending.isSome then [.pointCommit] else [])
    ++ (if s.regs.tinvBusy then [.invalidationComplete] else [])
    ++ s.zeroising.map (fun k => .keyZero k 0)
    ++ s.rim.weak.map (fun k => .scrub (.rim (64 * k))) ++ s.rim.poison.map (fun k => .scrub (.rim (64 * k)))
    ++ ((List.range 32).filter (fun h => s.groupStopped (.hart (Fin.ofNat 32 h)))).map (fun h => .haltStop (.hart (Fin.ofNat 32 h)))
    ++ ((List.range 32).filter (fun h => Tbl.getD s.crook.hartGrp h 0 != 0)).map (fun h => .haltResume (.hart (Fin.ofNat 32 h)))

/-- Does an outside event wait while a cut holds the croft's writes (R364)? -/
def waitsForCut : Instr → Bool
  | .rollback | .teardown _ _ | .softError _ _ | .linkFlitRetry _ _ _ | .meshLinkCalibration _ | .fabricLaneCalibration _
  | .telemetrySample | .powerThrottle | .thermalThrottle _ | .thermalTrip _ | .hbm4eRefresh _ | .linkUp _ => false
  | _ => true

/-- May an outside event happen in a module that has not booted, in which croft hart 0 has not been released and the controller
accepts images (R406); and in one that a field past its trip point has stopped (R413)? -/
def State.inputOk (s : State) : Instr → Bool
  | .boot => true
  | .firmwareUpdate _ | .softError _ _ | .linkFlitRetry _ _ _ | .meshLinkCalibration _ | .fabricLaneCalibration _
  | .telemetrySample | .powerThrottle | .thermalThrottle _ | .thermalTrip _ | .hbm4eRefresh _ | .linkUp _ => s.ambient.tripped.isEmpty
  | _ => s.ident.booted && s.ambient.tripped.isEmpty

/-- The outside event that may happen now: the first of the inputs that the module's condition allows. -/
def State.input (s : State) : Option Instr :=
  match s.inputs.find? s.inputOk with
  | none => none
  | some i => if s.recovery.cutting && waitsForCut i then none else if s.enabled i then some i else none

/-- The boot of a module that has not booted, where one of its slots verifies (R406). -/
def State.bootEvent (s : State) : List Cand :=
  if s.ident.verifies s.ident.slotA || s.ident.verifies s.ident.slotB then [.event .boot] else []

/-- The vtiles of the contexts that run. -/
def State.vrefs (s : State) : List VRef :=
  s.ctxs.flatMap (fun p => if p.2.regs.st == .live || p.2.regs.st == .suspended then p.2.vts.map (fun q => (⟨p.1, q.1⟩ : VRef)) else [])

/-- Launches that finish: at the first moment at which they may (R235). -/
def State.finishing (s : State) : List Instr :=
  s.ctxs.flatMap (fun p => if p.2.regs.st == .live || p.2.regs.st == .suspended then
      (p.2.flocks.filter (fun q => q.2.run && s.finishes p.1 q.1)).map (fun q => .flockFinish p.1 q.1) else [])

/-- Firings that may start (R243). -/
def State.starts (s : State) : List Instr :=
  (s.vrefs.filter (fun v => (s.startable v).isSome)).map (fun v => .firingStart v)

/-- Parked slots that may wake (R131). -/
def State.wakers (s : State) : List Instr :=
  s.vrefs.flatMap (fun v => ((List.range 8).filter (fun i => s.wakes ⟨v, Fin.ofNat 8 i⟩)).map (fun i => .parkWake ⟨v, Fin.ofNat 8 i⟩))

/-- What a tile site may issue: the forced choice of a user slot first (R338). -/
def State.issues (s : State) (site : Nat) : List Cand :=
  if (s.tile site).supRun ≥ 64 && s.enabled (.forcedUserIssue site) then [.event (.forcedUserIssue site)]
  else match s.pickIssue site with
    | some r => [.issue r]
    | none => []

/-- All that may happen next: finishes before starts before wakes before the rest. A module past its trip point does nothing of
its own (R413), and one that has not booted only boots (R406). -/
def State.cands (s : State) : List Cand :=
  let inp := s.input.toList.map Cand.event
  if !s.ambient.tripped.isEmpty then inp
  else if !s.ident.booted then s.bootEvent ++ inp
  else match s.finishing with
    | i :: is => (i :: is).map Cand.event
    | [] => match s.starts with
      | i :: is => (i :: is).map Cand.event
      | [] => match s.wakers with
        | i :: is => (i :: is).map Cand.event
        | [] => s.tiles.flatMap (fun p => s.issues p.1)
          ++ (((s.ctxs.flatMap (fun p => ctxEvents s p.1 p.2)) ++ s.tiles.flatMap (fun p => tileEvents p.1)
              ++ moduleEvents s).filter s.enabled).map Cand.event
          ++ inp

/-- The candidate that is taken. -/
def State.pickCand (s : State) : Option Cand :=
  match s.cands with
  | [] => none
  | [c] => some c
  | cs => cs[Config.choose s.tick % cs.length]?

/-! ## Taking a step -/

/-- Distance between the counters of two steps: the free values of one step are taken at numbers below it, so that no two
steps share one (log 1). -/
def tickStride : Nat := 2 ^ 72

/-- Has the tile a sliced pair whose running vtile has a READY slot or a queued match (R318)? -/
def State.sliceBusy (s : State) (t : Tile) : Bool :=
  match t.bank t.sel with
  | some v => (s.vt v).slice && (s.vt v).hasWork
  | none => false

/-- The counter and the clock move on; a sliced tile with work is not idle. -/
def State.advance (s : State) : State :=
  let now := s.regs.cycle + Config.elapse s.tick
  { s with
    tick := s.tick + tickStride
    regs := { s.regs with cycle := now }
    ambient := { s.ambient with time := s.ambient.time + Config.elapse s.tick }
    tiles := s.tiles.map (fun p => if s.sliceBusy p.2 then (p.1, { p.2 with idleSince := now }) else p) }

/-- A step's outcome from a state, with the images of absent vtiles brought up to it and the clock moved on. -/
def advanced (before : State) : Host.Outcome State Fault Refusal → Host.Outcome State Fault Refusal
  | .next s => .next (s.syncImages before).advance
  | .fault f => .fault f
  | .refused r => .refused r

/-- A slot issues: its instruction is fetched and decoded, and executed, or its trap is taken. -/
def State.runIssue (s : State) (r : SRef) : Host.Outcome State Fault Refusal :=
  match (s.issued r (s.userEligible (s.vt r.vt).site)).beginIssue r with
  | (t, none) => .next t
  | (t, some i) => exec i t

/-- Leave out an input that is taken. -/
def State.popInput (s : State) : State := { s with inputs := removeFirst s.inputOk s.inputs }

/-- Is an event one that only the outside causes? It is then taken from the list of inputs. -/
def State.isInput (s : State) (i : Instr) : Bool := s.input == some i

/-- Take a candidate. -/
def State.take (s : State) : Cand → Host.Outcome State Fault Refusal
  | .issue r => s.runIssue r
  | .event i => if s.isInput i then exec i s.popInput else exec i s

/-! ## Placing an instruction where the next step fetches it -/

/-- The word of a fetch line that holds one instruction in slot 0, which a transfer may enter. -/
def soloLine (w : Nat) : Nat :=
  let lw := 1 + 2 ^ 9 * b2n (parity 96 w)
  w % 2 ^ 96 + 2 ^ 480 * (lw + 2 ^ 31 * b2n (parity 31 lw))

/-- Where the tables and the line are placed in local rim memory. -/
def placeRoot : Nat := 0x10000
def placeL1 : Nat := 0x14000
def placeLine : Nat := 0x20000

/-- Rim memory with an instruction space that maps its first 8 GiB to physical address 0 and up, and the line. -/
def State.placeMemory (s : State) (w : Nat) : State :=
  let base := s.modId * 2 ^ 54
  (((s.rimWrite placeRoot 64 (base + placeL1 + 1)).rimWrite placeL1 64 (base + 7)).rimWrite placeLine 64 (soloLine w))

/-- The slot that stands at the placed instruction: READY, supervisor. -/
def placedSlot (sl : Slot) : Slot :=
  { sl with status := .ready, sup := true, ix := 5 * (placeLine / 64), entry := .fallthrough, pair2 := false, alone := false,
            park := none, ops := [], sb := [], pendTrap := none, rep := [] }

/-- The vtile of that slot: rank 0, resident on site 0; nothing else of it is under way. -/
def placedVtile (t : Vtile) : Vtile :=
  { t with
    loc := .resident, site := 0, bank := false, slice := false, flock := 0, fq := [], copies := [], outq := [], held := []
    halted := false, hold := ⟨false, false⟩, hgroups := 0, spOut := [], marks := []
    mx := { t.mx with queue := [], run := .start, bsOut := [], bpoison := [] }
    slots := (Vector.replicate 8 Slot.blank).set 0 (placedSlot (t.slots.get 0)) }

/-- The context of that vtile: 0, live, with its instruction root. -/
def placedCtx (base : Nat) (c : Ctx) : Ctx :=
  { c with
    regs := { c.regs with st := .live, suspending := false, busy := false, rp := false }
    desc := { c.desc with iroot := base + placeRoot, s2en := false, vx := 1, vy := 1 }
    queues := Vector.replicate 16 LaunchQueue.blank, herds := [], msgs := [], bankOps := [], misses := [], cmarks := []
    flocks := [(0, { Flock.blank with w := 1, h := 1, st := .resident })]
    vts := [(0, placedVtile ((Tbl.find? c.vts 0).getD Vtile.fresh))] }

/-- The machine with one instruction in place, and nothing else to do but to issue it. -/
def State.place (s : State) (w : Nat) : State :=
  let t := s.placeMemory w
  { t with
    ctxs := [(0, placedCtx (s.modId * 2 ^ 54) (s.ctx 0))]
    tiles := [(0, { Tile.blank with bank0 := some ⟨0, 0⟩ })]
    rim := { t.rim with weak := [], poison := [] }
    regs := { s.regs with tinvBusy := false, lastDrift := s.regs.cycle }
    crook := { s.crook with hartGrp := [], hartHalted := [] }
    ambient := { s.ambient with tripped := [] }
    ident := { s.ident with booted := true }
    fabric := { s.fabric with rpint := 0 }
    recovery := { s.recovery with cutting := false, pending := none }
    inputs := [] }

end Sys2Proof.Machine
end

