-- ==== Sys2Proof/Machine/Step.lean ====
section
/-!
DEFINITION. One step of the machine, and the placing of an instruction where the next step fetches it.
-/
namespace Sys2Proof.Machine

/-- One step: the candidate that is picked is taken; with none, the clock alone moves on. -/
def step (s : State) : Host.Outcome State Fault Refusal :=
  match s.pickCand with
  | none => .next s.advance
  | some c => advanced s (s.take c)

/-- The state with an instruction where the next step fetches it: the machine loads no program by itself (a launch does,
R229 to R234), so a live context with one resident vtile, a READY supervisor slot, its instruction space and its fetch
line are set up, and nothing else is left to do (log 17). -/
def State.withFetchWord (s : State) (nbits w : Nat) : State := s.place (w % 2 ^ nbits)

end Sys2Proof.Machine
end

