-- ==== Sys2Proof/Machine/Nodes.lean ====
section
/-!
DEFINITION. What the nodes of a portable form do (R384 to R386), one node at a time, in a slot of the machine: the operation
nodes by the meanings of their triggers, the others as their tables say. R388 has the image that the loader makes of a form do
in every firing what running the nodes would do; the machine runs the image's instructions, and this file is what R388
measures them by (log 9).
-/
namespace Sys2Proof.Machine

/-! ## Values (R384) -/

/-- Does a node write a value of 1,024 bits? All others are 64 bits wide. -/
def Node.wide (n : Node) : Bool :=
  match opTrig n.op with
  | some t => trigUnit t == .vec || trigUnit t == .rng
  | none => (n.op == 0x0001 && n.mod == 1) || (n.op == 0x0002 && decide (32 ≤ n.a0))

/-- A value at the width of the node that writes it. A reader of the other width reads it under R14: the low bits, or zeros
above. -/
def Node.sized (n : Node) (x : VWord) : VWord := if n.wide then x else (x.setWidth 64).setWidth 1024

/-- The values written so far. -/
abbrev Vals := Tbl VWord

/-- Read an operand: no value reads zero. -/
def Vals.read (vs : Vals) (k : Nat) : VWord := if k = noVal then 0 else Tbl.getD vs k 0

/-- Read it as 64 bits. -/
def Vals.word (vs : Vals) (k : Nat) : Word := (Vals.read vs k).setWidth 64

/-- Write a value, where there is one to write. -/
def Vals.write (vs : Vals) (k : Nat) (x : VWord) : Vals := if k = noVal then vs else Tbl.put vs k x

/-! ## Tensors (R386) -/

/-- A tensor: its record, and its base address. -/
structure Tensor where
  space : Nat
  fmt : Nat
  ext : List Nat
  stride : List Nat
  base : Nat
  deriving DecidableEq, Repr, Inhabited

/-- The tensor of a record. -/
def Form.tensorAt (f : Form) (off : Nat) (base : Nat) : Tensor :=
  { space := fld f.pool off 1
    fmt := fld f.pool (off + 4) 4
    ext := (List.range 4).map (fun k => fld f.pool (off + 8 + 4 * k) 4)
    stride := (List.range 4).map (fun k => fld f.pool (off + 24 + 8 * k) 8)
    base := base }

/-- Number of elements. -/
def Tensor.size (t : Tensor) : Nat := t.ext.foldl (· * ·) 1

/-- The offset of the element with a linear index. -/
def tensorOff : (ext stride : List Nat) → (n : Nat) → Nat
  | e :: es, d :: ds, n => n % e * d + tensorOff es ds (n / e)
  | _, _, _ => 0

/-- Address of the element with a linear index. -/
def Tensor.addr (t : Tensor) (n : Nat) : Nat := (t.base + tensorOff t.ext t.stride n) % 2 ^ 64

def Tensor.format (t : Tensor) : Fmt := recordFmt t.fmt

/-- Bytes of an element; a T6 code stands in the low bits of its byte (log 9). -/
def Tensor.bytes (t : Tensor) : Nat := (fmtBits t.format + 7) / 8

/-- Where an element of virtual memory lies, if it can be reached. -/
def State.tensorPa (s : State) (r : SRef) (t : Tensor) (n : Nat) (isWrite : Bool) : Option Nat :=
  match s.translate (s.ctx r.vt.ctx).desc (t.addr n) isWrite with
  | .ok (pa, _) => some pa
  | .error _ => none

/-- The trap that an access to an element takes: one of scratchpad out of bounds, and one of commons as c.ld and c.st of the
element width take it (R118, R222). -/
def State.tensorBad (s : State) (r : SRef) (t : Tensor) (n : Nat) : Option (Nat × Word) :=
  let a := t.addr n
  match t.space with
  | 0 => if inBounds a t.bytes then none else some (0x09, word a)
  | 1 =>
    if (s.ctx r.vt.ctx).desc.cpsize * 2 ^ 20 < a + t.bytes then some (0x1A, word a)
    else if a % t.bytes != 0 then some (0x0A, word a)
    else none
  | _ => none

/-- Can an element be reached? One of virtual memory waits until its page is there. -/
def State.tensorReady (s : State) (r : SRef) (t : Tensor) (isWrite : Bool) (n : Nat) : Bool :=
  t.space != 2 || (s.tensorPa r t n isWrite).isSome

/-- What a c.ld of an element of commons does before it gives its value (R222, R226, R277): its word settles, its line is met,
and the word's tag is checked for the reader. -/
def State.tensorMeet (s : State) (r : SRef) (t : Tensor) (n : Nat) : State :=
  let ctx := r.vt.ctx
  let a := t.addr n
  if t.space != 1 then s
  else ((s.settleWord ctx (a / 8)).readCommons ctx a).checkRead ctx a r.vt.rank (s.vt r.vt).inc (s.vt r.vt).site?

/-- The same for all elements of some tensors. -/
def State.tensorsMeet (s : State) (r : SRef) (ts : List Tensor) : State :=
  ts.foldl (fun s t => (List.range t.size).foldl (fun s n => s.tensorMeet r t n) s) s

/-- Does a read of an element meet a commons line that is not used (R222)? -/
def State.tensorDead (s : State) (r : SRef) (t : Tensor) (n : Nat) : Bool :=
  t.space == 1 && (s.ctx r.vt.ctx).lineBad (t.addr n)

/-- The bytes of an element, as a number. -/
def State.tensorRaw (s : State) (r : SRef) (t : Tensor) (n : Nat) : Nat :=
  let a := t.addr n
  match t.space with
  | 0 => s.spRead r.vt a t.bytes
  | 1 => memRead (s.ctx r.vt.ctx).commons a t.bytes
  | _ => ofBytes (s.homeBytes ((s.tensorPa r t n false).getD 0) t.bytes)

/-- The code of an element. -/
def State.tensorGet (s : State) (r : SRef) (t : Tensor) (n : Nat) : Nat := s.tensorRaw r t n % 2 ^ fmtBits t.format

/-- Write the bytes of an element; one in scratchpad is an engine's write (R29), and one in commons a c.st, whose word settles
first and whose record of decrements ends (R226, R273). -/
def State.tensorPut (s : State) (r : SRef) (t : Tensor) (n code : Nat) : State :=
  let a := t.addr n
  match t.space with
  | 0 => s.engineWrite r.vt a (toBytes t.bytes code)
  | 1 => ((s.settleWord r.vt.ctx (a / 8)).commonsWrite r.vt.ctx a t.bytes code (s.slot r).relTag).inCtx r.vt.ctx
      (fun c => { c with decTags := Tbl.del c.decTags (a / 32) })
  | _ => s.homeWrite ((s.tensorPa r t n true).getD 0) (toBytes t.bytes code) (fun _ => false)

/-- The trap of a tensor's first element that an access may not reach. -/
def State.tensorOutside (s : State) (r : SRef) (t : Tensor) : Option (Nat × Word) :=
  (List.range t.size).findSome? (s.tensorBad r t)

/-- The trap of the first element of some tensors whose line is not used (R222, R126). -/
def State.tensorsDead (s : State) (r : SRef) (ts : List Tensor) : Option (Nat × Word) :=
  ts.findSome? (fun t => ((List.range t.size).find? (s.tensorDead r t)).map (fun n => (0x10, word (t.addr n))))

/-- Does a slot's operation of commons that is under way stand before an access of a tensor there (R223)? -/
def State.tensorWaits (s : State) (r : SRef) (ts : List Tensor) : Bool :=
  !(s.slot r).sb.isEmpty
    || (ts.any (fun t => t.space == 1)
      && (s.ctx r.vt.ctx).bankOps.any (fun u => u.rank == r.vt.rank && u.slot == r.slot.val))

/-- Can all of a tensor be reached? -/
def State.tensorAll (s : State) (r : SRef) (t : Tensor) (isWrite : Bool) : Bool :=
  (List.range t.size).all (s.tensorReady r t isWrite)

/-! ### MATMUL and REDUCE -/

/-- The steps of a cell from the FP32 code it starts from: one for each k (R183), or one for each group of four (R185). Each
gives its events, and whether it made a NaN of a number. -/
def matChain (grouped : Bool) (fa fb : Fmt) (a b : Nat → Nat) (K start : Nat) : Nat × Ev × Bool :=
  let step (old : Nat) (g : Nat) : Nat × Ev :=
    if grouped then
      let ks := (List.range (min 4 (K - 4 * g))).map (fun t => 4 * g + t)
      mmaGCell (ks.map a) (ks.map b) old
    else mmaOCell fa fb (a g) (b g) old
  (List.range (if grouped then (K + 3) / 4 else K)).foldl (fun (acc : Nat × Ev × Bool) g =>
    let (x, ev) := step acc.1 g
    (x, evAnd acc.2.1 ev, acc.2.2 || (isNan32 x && !isNan32 acc.1))) (start, evNone, false)

/-- The offset of an element's scale from the base of the plane (R64): blocks of 2^BRLOG rows by 2^BCLOG columns, BPR of them
in a row of blocks. Dimension 1 is the row. -/
def Tensor.scaleOff (t : Tensor) (row col : Nat) : Nat :=
  let bc := 2 ^ bits t.fmt 10 8
  row / 2 ^ bits t.fmt 7 5 * ((t.ext.getD 0 1 + bc - 1) / bc) + col / bc

/-- The scale byte of an element, one for each block. Where a tensor's scale plane lies the spec does not say, so its bytes are
open (log 9). -/
def State.elementScale (s : State) (t : Tensor) (row col : Nat) : Nat :=
  if !bit t.fmt 4 then 127 else (Config.scaleByte s.tick (t.addr 0) (t.scaleOff row col)).toNat

/-- The factor of a scale byte: none where it is invalid (R65, R66). -/
def scaleFactor (b : Nat) : Option Int := if b = 0xFF then none else some ((b : Int) - 127)

/-- The tag that a row or column of C collects from the scale bytes along K, and whether they conflict (R182): an invalid byte
stays, and two that differ conflict. -/
def collectScale (qs : List Nat) : Option Int × Bool :=
  let good := qs.filter (fun q => q != 0xFF)
  (if good.length < qs.length then none else scaleFactor (qs.headD 127), good.any (fun q => q != good.headD 127))

/-- The scale bytes that row i of A, or column j of B, meets along K. -/
def State.rowScales (s : State) (a : Tensor) (i : Nat) : List Nat :=
  (List.range (a.ext.getD 0 1)).map (s.elementScale a i)
def State.colScales (s : State) (b : Tensor) (j : Nat) : List Nat :=
  (List.range (b.ext.getD 1 1)).map (fun k => s.elementScale b k j)

/-- Do the scales of a row of A or of a column of B conflict (R182)? -/
def State.scalesConflict (s : State) (a b : Tensor) : Bool :=
  (List.range (a.ext.getD 1 1)).any (fun i => (collectScale (s.rowScales a i)).2)
    || (List.range (b.ext.getD 0 1)).any (fun j => (collectScale (s.colScales b j)).2)

/-- C := C + A × B (R386): the cells' codes in C's format, row by row, their events, and whether a chain made a NaN. -/
def State.matmul (s : State) (r : SRef) (n : Node) (c a b : Tensor) : List Nat × Ev × Bool :=
  let cols := c.ext.getD 0 1
  let K := a.ext.getD 0 1
  let cells := (List.range c.size).map (fun p =>
    let i := p / cols
    let j := p % cols
    let start := (narrow .fp32 .rn (fmtDecode c.format true (s.tensorGet r c p))).1
    let (x, ev, nan) := matChain (bit n.flg 0) a.format b.format (fun k => s.tensorGet r a (i * K + k))
      (fun k => s.tensorGet r b (k * cols + j)) K start
    let y := ieeeDecode .fp32 x
    let (y, bad) := if !bit n.flg 2 then (y, false)
      else match (collectScale (s.rowScales a i)).1, (collectScale (s.colScales b j)).1 with
        | some e, some e' => (y.scale (e + e'), false)
        | _, _ => (FVal.nan false, true)
    let (code, ev') := narrow c.format (rmOf (BitVec.ofNat 2 n.mod)) y
    (code, evAnd ev (evAnd ev' (evIf bad (flagNV ||| flagNANP))), nan))
  (cells.map Prod.fst, evAll (cells.map (fun x => x.2.1)), cells.any (fun x => x.2.2))

/-- The sum, maximum or minimum of a tensor's FP32 elements; the order of a sum with FLG bit 0 = 0 is the loader's. -/
def State.tensorReduce (s : State) (r : SRef) (n : Node) (t : Tensor) : Nat × Ev :=
  let xs := (List.range t.size).map (s.tensorGet r t)
  if n.mod = 0 then (if bit n.flg 0 then sumOrdered .rn xs else sumUnordered .rn (Config.reductionTree s.tick) xs)
  else extremum .fp32 (n.mod == 1) xs

/-! ## Runs of nodes (R385, R386) -/

/-- An open LOOP, IF or FOR: its node, the index of its END, the passes begun before this one, and how many there are. -/
structure Block where
  head : Nat
  last : Nat
  pass : Nat
  total : Nat
  deriving DecidableEq, Repr, Inhabited

/-- A run of one entry: the node that is next, the values and tensors, the open blocks, whether the operation of the node has
been triggered and its result is awaited, how many invocations of a MAP have begun, and the registers that PARAM reads. -/
structure Body where
  form : Form
  next : Nat
  vals : Vals
  tensors : List (Nat × Tensor)
  blocks : List Block
  issued : Bool
  mapped : Nat
  x : Vector Word 32
  v : Vector VWord 16
  deriving DecidableEq, Repr, Inhabited

/-- A COPY that has not finished: its tensors, the next element, the arrival word, and whether its next element reads a commons
line that is not used, so that it never lands (R222). -/
structure CopyRun where
  src : Tensor
  dst : Tensor
  at_ : Nat
  arrival : Option Nat
  stuck : Bool := false
  deriving DecidableEq, Repr, Inhabited

/-- A run: the entry that runs, innermost first, with those that invoked it, and the copies of the firing. -/
structure NodeRun where
  bodies : List Body
  copies : List CopyRun
  deriving DecidableEq, Repr, Inhabited

/-- An entry as it begins. -/
def Body.start (f : Form) (x : Vector Word 32) (v : Vector VWord 16) : Body :=
  { form := f, next := f.entry, vals := [], tensors := [], blocks := [], issued := false, mapped := 0, x := x, v := v }

/-- A firing's run as it begins: PARAM reads the registers of the firing's start (R244). -/
def NodeRun.start (f : Form) (sl : Slot) : NodeRun := { bodies := [.start f sl.x sl.v], copies := [] }

/-- What one node does. `trap`: the node's own trap is taken. `call`: the code symbol that the slot calls; `NodeRun.back` goes
on when it returns. `done`: the firing has ended, with the copies that it leaves. `off`: the nodes are at an end without a
FINISH, for which R385 names no effect. -/
inductive NodeOut where
  | next (n : NodeRun) (s : State)
  | wait (n : NodeRun) (s : State)
  | trap (n : NodeRun) (s : State)
  | call (n : NodeRun) (s : State) (symbol : Nat)
  | done (copies : List CopyRun) (s : State)
  | off
  deriving DecidableEq, Repr, Inhabited

/-- The node that is next: the MORE nodes between belong to the one before (R384). -/
def Body.node (b : Body) : Option Node := b.form.nodes.find? (fun n => decide (b.next ≤ n.idx))

/-- Go on after a node. -/
def Body.past (b : Body) (n : Node) : Body := { b with next := n.idx + 1, issued := false, mapped := 0 }

/-- Write a node's value and go on. -/
def Body.give (b : Body) (n : Node) (x : VWord) : Body := { b.past n with vals := Vals.write b.vals n.dst (n.sized x) }

/-- The tensor that a value holds. -/
def Body.tensor (b : Body) (k : Nat) : Tensor := ((b.tensors.find? (fun p => p.1 == k)).map Prod.snd).getD default

/-- The index of the node after the ELSE of an IF, or of the END where there is none: blocks between are passed over. -/
def elseOf : (depth : Nat) → List Node → Option Nat
  | _, [] => none
  | d, n :: ns =>
    if n.op = 0x0E01 || n.op = 0x0E02 || n.op = 0x1002 then elseOf (d + 1) ns
    else if n.op = 0x0E04 then (if d = 0 then some n.idx else elseOf (d - 1) ns)
    else if n.op = 0x0E03 && d = 0 then some (n.idx + 1)
    else elseOf d ns

/-- Where an IF goes on when its value is zero. -/
def Form.elseFrom (f : Form) (i : Nat) : Nat := (elseOf 0 (f.nodes.filter (fun n => decide (i < n.idx)))).getD (i + 1)

/-- LOOP, IF, ELSE, FOR and END. -/
def Body.flow (b : Body) (n : Node) : Body :=
  let count := (Vals.word b.vals n.a0).toNat
  match n.op with
  | 0x0E01 | 0x1002 =>
    let b := if n.op = 0x1002 then b.give n 0 else b.past n
    if count = 0 then { b with next := n.a1 + 1 } else { b with blocks := ⟨n.idx, n.a1, 0, count⟩ :: b.blocks }
  | 0x0E02 =>
    let b := { b.past n with blocks := ⟨n.idx, n.a1, 0, 1⟩ :: b.blocks }
    if count = 0 then { b with next := b.form.elseFrom n.idx } else b
  | 0x0E03 => { b.past n with next := ((b.blocks.head?).map Block.last).getD (n.idx + 1) }
  | _ =>
    match b.blocks with
    | [] => b.past n
    | k :: rest =>
      if k.pass + 1 < k.total then
        let again := { b.past n with next := k.head + 1, blocks := { k with pass := k.pass + 1 } :: rest }
        match b.form.nodes.find? (fun m => m.idx == k.head) with
        | some m => if m.op = 0x1002 then { again with vals := Vals.write b.vals m.dst (m.sized (BitVec.ofNat 1024 (k.pass + 1))) }
          else again
        | none => again
      else { b.past n with blocks := rest }

/-- Is it the first pass of the block that a node opens? -/
def Body.firstPass (b : Body) (head : Nat) : Bool :=
  match b.blocks.find? (fun k => k.head == head) with
  | some k => k.pass == 0
  | none => true

/-- CONST, PARAM, PHI and TENSOR. -/
def Body.plain (b : Body) (n : Node) : Body :=
  match n.op with
  | 0x0001 => b.give n (BitVec.ofNat 1024 (ofBytes (b.form.poolAt n.a0 (if n.mod = 0 then 8 else 128))))
  | 0x0002 => b.give n (if n.a0 < 32 then (vget b.x n.a0 0).setWidth 1024 else vget b.v (n.a0 - 32) 0)
  | 0x0004 => b.give n (Vals.read b.vals (if b.firstPass n.a1 then n.a0 else n.a2))
  | _ =>
    let t := b.form.tensorAt n.a0 (Vals.word b.vals n.a1).toNat
    { b.past n with tensors := (n.dst, t) :: b.tensors }

/-- The latches as an operation node has them: ARG0 to ARG2 in `.a` to `.c`, ARG3 as the previous result. -/
def Body.latches (b : Body) (n : Node) (u : FUnit) (sl : Slot) : Slot :=
  let l := sl.lat.get u
  { sl with lat := sl.lat.put u { l with a := Vals.read b.vals n.a0, b := Vals.read b.vals n.a1, c := Vals.read b.vals n.a2,
                                         q := Vals.read b.vals n.a3 } }

/-- An operation node (R385): its trigger, then its results when they have landed. In a user slot a trigger of SYS traps
(R92). -/
def State.opNode (s : State) (r : SRef) (run : NodeRun) (b : Body) (outer : List Body) (n : Node) (t : Trig) : NodeOut :=
  let u := trigUnit t
  let m := BitVec.ofNat 3 n.mod
  let k := meaningOf t m (Vals.read b.vals n.a0)
  let go (b : Body) (s : State) : NodeOut := .next { run with bodies := b :: outer } s
  if b.issued then
    if (n.dst != noVal || n.dst2 != noVal) && !(s.slot r).landed u then .wait run s
    else
      let l := (s.slot r).lat.get u
      let vals := Vals.write (Vals.write b.vals n.dst (n.sized l.q)) n.dst2 (n.sized l.q2)
      go { b.past n with vals := vals } s
  else if !(s.slot r).sup && dstPrivileged (.trig t) then .trap run (s.trapHere r 0x03 0 7)
  else if !(s.slot r).landed u then .wait run s
  else
    let s1 := s.modSlot r (b.latches n u)
    if s1.trigStalls r t m || k.stall s1 r then .wait run s
    else match k.check s1 r with
      | some (code, tval) => .trap run (s1.trapHere r code tval 7)
      | none => go { b with issued := true } (k.fire s1 r)

/-- Go on past a node in a state that has followed. -/
def NodeRun.goPast (run : NodeRun) (b : Body) (outer : List Body) (n : Node) (s : State) : NodeOut :=
  .next { run with bodies := b.past n :: outer } s

/-- PARK and HWAIT: the slot parks until the condition holds, and the node runs again (R131, R132). -/
def State.parkNode (s : State) (r : SRef) (run : NodeRun) (b : Body) (outer : List Body) (n : Node) (c : ParkCond) : NodeOut :=
  match parkCheck c with
  | some (code, tval) => .trap run (s.trapHere r code tval 7)
  | none => if s.condHolds r c then run.goPast b outer n s else .wait run (s.parkOn r c)

/-- FINISH (R385): the end of the firing, or the return from an invocation, whose node's value is ARG0. -/
def State.finishNode (s : State) (r : SRef) (run : NodeRun) (b : Body) (outer : List Body) (n : Node) : NodeOut :=
  match outer with
  | [] => .done run.copies (s.endFiring r)
  | o :: rest =>
    let o' : Body := match o.node with
      | some m =>
        let vals := Vals.write o.vals m.dst (m.sized (Vals.read b.vals n.a0))
        if m.op = 0x1008 then { o.past m with vals := vals } else { o with vals := vals }
      | none => o
    .next { run with bodies := o' :: rest } s

/-- Set registers x1 to x4 of an invocation. -/
def Body.args (b : Body) (xs : List Word) : Vector Word 32 :=
  ((List.range xs.length).zip xs).foldl (fun x p => vset x (p.1 + 1) p.2) b.x

/-- MAP: one invocation for each index, in ascending order, which is one of the orders that the loader may take; then go on. -/
def Body.mapNode (b : Body) (lib : Nat → Option Form) (run : NodeRun) (outer : List Body) (n : Node) (s : State) : NodeOut :=
  if (b.tensor n.a1).size ≤ b.mapped then run.goPast b outer n s
  else match lib n.a0 with
    | none => .off
    | some f =>
      let at_ (v : Nat) : Word := if v = noVal then 0 else word ((b.tensor v).addr b.mapped)
      let inner := Body.start f (b.args [word b.mapped, at_ n.a1, at_ n.a2, at_ n.a3]) b.v
      .next { run with bodies := inner :: { b with mapped := b.mapped + 1 } :: outer } s

/-- SCALAR: one invocation. -/
def Body.scalarNode (b : Body) (lib : Nat → Option Form) (run : NodeRun) (outer : List Body) (n : Node) (s : State) : NodeOut :=
  match lib n.a0 with
  | none => .off
  | some f =>
    let inner := Body.start f (b.args [Vals.word b.vals n.a1, Vals.word b.vals n.a2, Vals.word b.vals n.a3]) b.v
    .next { run with bodies := inner :: b :: outer } s

/-- MATMUL, REDUCE and COPY: they wait for what they reach and for what the slot has under way before them, and trap where an
access traps. A MATMUL whose scales conflict along K leaves C as it was and holds MATRIX_SCALE against the slot; one with FLG
bit 1 that makes a NaN holds MATRIX_NAN. Their `%tval` is that of a command of the loader's (R182, R192). -/
def State.tensorNode (s : State) (r : SRef) (run : NodeRun) (b : Body) (outer : List Body) (n : Node) : NodeOut :=
  let t0 := b.tensor n.a0
  let t1 := b.tensor n.a1
  let used := match n.op with
    | 0x1003 => [t0, t1, b.tensor n.a2]
    | 0x1005 => [t0]
    | _ => [t0, t1]
  match used.findSome? (s.tensorOutside r) with
  | some (code, tval) => .trap run (s.trapHere r code tval 7)
  | none =>
    if s.tensorWaits r used then .wait run s
    else match n.op with
      | 0x1003 =>
        if !(s.tensorAll r t0 true && used.all (fun t => s.tensorAll r t false)) then .wait run s
        else
          let s := s.tensorsMeet r used
          match s.tensorsDead r used with
          | some (code, tval) => .trap run (s.trapHere r code tval 7)
          | none =>
          if bit n.flg 2 && s.scalesConflict t1 (b.tensor n.a2) then
            run.goPast b outer n (s.raiseHeld r.vt r.slot.val (s.slot r).fser 0x15 (openAt s.tick 8 (2 ^ 65 + 1)) (word (s.slot r).ix) 0
              none)
          else
          let (codes, ev, nan) := s.matmul r n t0 t1 (b.tensor n.a2)
          let s' := (((List.range codes.length).zip codes).foldl (fun s p => s.tensorPut r t0 p.1 p.2) s).event r.vt ev
          let s' := if nan && bit n.flg 1 then
              s'.raiseHeld r.vt r.slot.val (s.slot r).fser 0x14 (openAt s.tick 8 (2 ^ 65)) (word (s.slot r).ix) 0 none
            else s'
          run.goPast b outer n s'
      | 0x1005 =>
        if !s.tensorAll r t0 false then .wait run s
        else
          let s := s.tensorsMeet r used
          match s.tensorsDead r used with
          | some (code, tval) => .trap run (s.trapHere r code tval 7)
          | none =>
            let (x, ev) := s.tensorReduce r n t0
            .next { run with bodies := b.give n (BitVec.ofNat 1024 x) :: outer } (s.event r.vt ev)
      | _ =>
        let w := if n.a2 = noVal then none else some (Vals.word b.vals n.a2).toNat
        .next { bodies := b.past n :: outer, copies := run.copies ++ [{ src := t0, dst := t1, at_ := 0, arrival := w }] } s

/-- The next element of a COPY moves, its bytes unchanged; one that lands in scratchpad counts at the arrival word. One whose
commons line is not used never lands, and MEM_UE is held against the slot (R222, R126). -/
def State.copyElement (s : State) (r : SRef) (c : CopyRun) : Option (State × CopyRun) :=
  if c.stuck then none
  else if s.tensorReady r c.src false c.at_ && s.tensorReady r c.dst true c.at_ then
    let s := s.tensorMeet r c.src c.at_
    if s.tensorDead r c.src c.at_ then
      some (s.raiseHeld r.vt r.slot.val (s.slot r).fser 0x10 (word (c.src.addr c.at_)) (word (s.slot r).ix) 0 none,
        { c with stuck := true })
    else
    let s1 := s.tensorPut r c.dst c.at_ (s.tensorRaw r c.src c.at_)
    let s2 := match c.arrival with
      | some w => if c.dst.space = 0 then s1.arrive r.vt w c.dst.bytes else s1
      | none => s1
    some (s2, { c with at_ := c.at_ + 1 })
  else none

/-- The k-th copy of a run moves an element, and leaves the run with its last. -/
def State.copyNode (s : State) (r : SRef) (run : NodeRun) (k : Nat) : Option (NodeRun × State) := do
  let c ← run.copies[k]?
  let (s', c') ← s.copyElement r c
  some ({ run with copies := if c'.at_ < c.src.size then run.copies.set k c' else run.copies.eraseIdx k }, s')

/-- WAIT: for the copies of the firing, or for a generation of an arrival word. -/
def State.waitNode (s : State) (r : SRef) (run : NodeRun) (b : Body) (outer : List Body) (n : Node) : NodeOut :=
  if n.mod = 0 then (if run.copies.isEmpty then run.goPast b outer n s else .wait run s)
  else s.parkNode r run b outer n (.aw ((Vals.word b.vals n.a0).toNat % 2 ^ 22) ((Vals.word b.vals n.a1).toNat % 2 ^ 32))

/-- Run the next node of a form in a slot. `lib` gives the function's portable entries. -/
def State.runNode (s : State) (r : SRef) (lib : Nat → Option Form) (run : NodeRun) : NodeOut :=
  match run.bodies with
  | [] => .off
  | b :: outer => match b.node with
    | none => .off
    | some n => match opTrig n.op with
      | some t => s.opNode r run b outer n t
      | none => match n.op with
        | 0x0001 | 0x0002 | 0x0004 | 0x1001 => .next { run with bodies := b.plain n :: outer } s
        | 0x0003 => match if !(s.slot r).sup && ((srcOfCode n.a0).map srcPrivileged).getD false then some (.trap 0x03 0)
            else (srcOfCode n.a0).map (s.readSrc r) with
          | some (.val x) => .next { run with bodies := b.give n x :: outer } s
          | some (.trap code tval) => .trap run (s.trapHere r code tval 7)
          | _ => .wait run s
        | 0x0E01 | 0x0E02 | 0x0E03 | 0x0E04 | 0x1002 => .next { run with bodies := b.flow n :: outer } s
        | 0x0E05 => s.parkNode r run b outer n (parkCond (Fin.ofNat 4 n.mod) (Vals.word b.vals n.a0))
        | 0x0E06 => if s.busyMemory r then .wait run s else run.goPast b outer n (s.harr r.vt n.a0)
        | 0x0E07 => s.parkNode r run b outer n (.hurdle n.a0)
        | 0x0E08 => s.finishNode r run b outer n
        | 0x0E09 =>
          let set (sl : Slot) : Slot := ((sl.xSet 20 (Vals.word b.vals n.a1)).xSet 21 (Vals.word b.vals n.a2)).xSet 22
            (Vals.word b.vals n.a3)
          .call run (s.modSlot r set) n.a0
        | 0x0E0A => .trap { run with bodies := b.past n :: outer } (s.userTrap r (s.slot r) (BitVec.ofNat 16 n.a0))
        | 0x1003 | 0x1005 | 0x1006 => s.tensorNode r run b outer n
        | 0x1004 => b.mapNode lib run outer n s
        | 0x1007 => s.waitNode r run b outer n
        | 0x1008 => b.scalarNode lib run outer n s
        | _ => .off

/-- The return from a CALL: its value is x10. -/
def NodeRun.back (run : NodeRun) (sl : Slot) : NodeRun :=
  match run.bodies with
  | b :: outer => match b.node with
    | some n => { run with bodies := b.give n ((sl.xGet 10).setWidth 1024) :: outer }
    | none => run
  | [] => run

end Sys2Proof.Machine
end

