-- ==== Sys2Proof/Safety.lean ====
section
/-!
DEFINITION. What counts as a safe run: no step of it stops the machine.
-/
namespace Sys2Proof.Machine

/-- The machine goes on from this state. -/
def State.goesOn (s : State) : Prop := ∃ t, step s = .next t

/-- States reached from one by steps. -/
inductive Reaches : State → State → Prop where
  | refl (s : State) : Reaches s s
  | step {s t u : State} (h : Reaches s t) (e : Sys2Proof.Machine.step t = .next u) : Reaches s u

/-- A run from a state is safe: the machine goes on from every state of it. -/
def Safe (s : State) : Prop := ∀ t, Reaches s t → t.goesOn

end Sys2Proof.Machine
end

