-- ==== Sys2Proof/Certificates/Slice0/Obligations.lean ====
section
/-!
DEFINITION. The statements for the provers, grouped by the chapters of the spec. Each docstring names the rules of spec/
that a statement formalises, or the log entry where a clause is the model's own choice. `Sys2Proof.Claims` holds the
words the statements are written in: values computed from the spec's own formulas, and the conditions under which an
instruction runs without waiting or trapping.
-/
namespace Sys2Proof.Claims
open Sys2Proof.Machine

/-! ## Words of the statements about instructions -/

/-- The slot that executes. -/
abbrev me (s : State) : Slot := s.slot s.cur

/-- The vtile of the slot that executes. -/
abbrev myVt (s : State) : Vtile := s.vt s.cur.vt

/-- The slot that executes exists: its vtile is populated in a context that is there. -/
def Present (s : State) : Prop := s.hasVt s.cur.vt = true

/-- The moves of an instruction are executed (R94), none of them waiting or trapping: the slot may name their codes, `l`
holds the enabled ones with the values read, no trigger stalls and every acceptance check passes; `t` is the state after
the writes, the immediate write `imm` and the triggers, in which the firing still runs. -/
def MovesDone (s : State) (mvs : List (Nat × Move)) (imm : Slot → Slot) (l : List Moved) (t : State) : Prop :=
  ((me s).sup = true ∨ privilegedMove mvs = none) ∧
  s.readMoves s.cur mvs = .ok l ∧
  (me s).crowded l = false ∧ (s.preview s.cur l imm).movesStall s.cur l = false ∧
  (s.preview s.cur l imm).movesCheck s.cur l = none ∧
  t = (s.preview s.cur l imm).fireMoves s.cur (me s).fser l ∧
  (t.slot s.cur).fser = (me s).fser

/-- A destination that is no trigger. -/
def Plain (m : Move) : Prop := ∀ t, m.dst ≠ .trig t

/-- Both states give the same bytes, full-empty bits, registers of the vtiles and the module: only the named slot differs. -/
def OnlySlot (s t : State) (r : SRef) : Prop := ∃ sl, t = s.modSlot r (fun _ => sl)

/-- The slot goes on at the instruction with index ix, which it reaches by a transfer from its own (R79, R127). -/
def goesTo (sl : Slot) (ix : Nat) : Slot :=
  { sl with ix := ix, entry := .transfer sl.ix, alone := true, pair2 := false }

/-- The target of a transfer with an offset: the own IX plus the offset, read in two's complement (R84, R127). -/
def targetOf (ix : Nat) (off : Word32) : Nat := (((ix : Int) + off.toInt) % 2 ^ 64).toNat

/-- The count of a `rep` (R128): CIMM, or the low 32 bits of the register where one is named. -/
def repeatCount (sl : Slot) (r : Fin 32) (count : BitVec 16) : Nat :=
  if r = 0 then count.toNat else (sl.xGet r).toNat % 2 ^ 32

/-- Does the condition of a `park` hold for a vtile (R131): kind 0, the full-empty bit of the word at x; kind 1, the
generation at the arrival word x[21:0] differs from x[63:32]; kind 2, the hurdle x[3:0] is not pending; kind 3, at most x
batches are unfinished. -/
def ParkHolds (s : State) (v : VRef) (kind : Fin 4) (x : Nat) : Prop :=
  match kind.val with
  | 0 => s.feGet v x = true
  | 1 => s.spRead v (x % 2 ^ 22 + 8) 4 ≠ x / 2 ^ 32
  | 2 => (s.vt v).pend.getLsbD (x % 16) = false
  | _ => (s.vt v).sealed.length ≤ x

/-- What a `park` of a kind waits for (R131): the full-empty bit of the word at x, another generation than x[63:32] at the
arrival word x[21:0], the hurdle x[3:0], at most x unfinished batches. -/
def parkedFor (kind : Fin 4) (x : Nat) : ParkCond :=
  match kind.val with
  | 0 => .fe x
  | 1 => .aw (x % 2 ^ 22) (x / 2 ^ 32)
  | 2 => .hurdle (x % 16)
  | _ => .batch x

/-- The slot stops at its own instruction until what it waits for has come (R11, R131, R132). -/
def ParkedOn (sl : Slot) (c : ParkCond) : Slot := { sl with status := .parked, park := some c }

/-- The checks of R131 pass: the bytes that the condition reads lie in the scratchpad, and an arrival word is aligned. -/
def ParkAccepted (kind : Fin 4) (x : Nat) : Prop :=
  match kind.val with
  | 0 => x + 1 ≤ 0x400000
  | 1 => x % 2 ^ 22 + 16 ≤ 0x400000 ∧ x % 16 = 0
  | _ => True

/-- No unit of scratchpad is out of the tile: every access to it may proceed at once (R284). -/
def AllUnitsIn (s : State) : Prop := (myVt s).spOut = []

/-- A supervisor slot runs a SY instruction: the state changes as given and the slot goes on. -/
def RunsSy (i : Instr) (s : State) (f : State → State) : Prop := exec i s = .next ((f s).modSlot s.cur Slot.advance)

/-- A slot with nothing under way: no operation has not landed, and no store is buffered. -/
def Quiet (sl : Slot) : Prop := sl.ops = [] ∧ sl.sb = []

/-- No operation of a vtile waits at a commons bank. -/
def BanksDone (s : State) (v : VRef) : Prop := ∀ u ∈ (s.ctx v.ctx).bankOps, u.rank ≠ v.rank

/-- No copy that a slot issued before a fence.do or rel.do of its own is unfinished (R281). -/
def CopiesPastFences (s : State) (r : SRef) : Prop :=
  ∀ c ∈ (s.vt r.vt).copies, c.slot = r.slot.val → c.finished = false →
    (s.slot r).barFenceDo ≤ c.fid ∧ (s.slot r).barRelDo ≤ c.fid

/-- No message of a slot waits to be delivered: `after` names the slot that sent it and the number of its trigger. -/
def NothingSent (s : State) (r : SRef) : Prop := ∀ m ∈ (s.vt r.vt).outq, ∀ k n, m.after = some (k, n) → k ≠ r.slot.val

/-- A message that a slot sent before a number is not delivered yet; `near`: one whose destination lies in the slot's field
(R256, R261). -/
def Undelivered (s : State) (r : SRef) (id : Nat) (near : Bool) : Prop :=
  ∃ m ∈ (s.vt r.vt).outq, ∃ n, m.after = some (r.slot.val, n) ∧ n < id ∧ (near = true → s.rankInField r.vt m.drank = true)

/-- No slot of a vtile has an operation to perform from before the vtile's latest stop (R276). -/
def StopPast (s : State) (v : VRef) : Prop :=
  ∀ k : Fin 8, ∀ f ∈ (s.slot ⟨v, k⟩).ops, f.performed = false → (s.slot ⟨v, k⟩).stopId ≤ f.id

/-- Nothing that the current slot did before holds its next access back (R123, R223, R261, R276, R281): it has no operation
under way, buffers no store, has none at a bank, no message on its way, and no copy that a fence.do or rel.do waits for. -/
def Unordered (s : State) : Prop :=
  Quiet (me s) ∧ BanksDone s s.cur.vt ∧ CopiesPastFences s s.cur ∧ NothingSent s s.cur ∧ StopPast s s.cur.vt

/-- What writes the immediate of an instruction of moves (R83): nothing, MH's write under its guard, or MW's. -/
def ImmediateWrite (f : Slot → Slot) : Prop :=
  (f = fun sl => sl) ∨
  (∃ (imm : BitVec 20) (xd : Fin 32) (g : Guard),
    f = fun sl => if sl.guard g then sl.xSet xd (((imm ++ 0#12 : BitVec 32)).signExtend 64) else sl) ∨
  ∃ (imm : BitVec 56) (xd : Fin 32), f = fun sl => sl.xSet xd (imm.signExtend 64)

/-- Does the end of a firing discard an operation that has not landed (R130): a division of MUL, a div or sqrt of FPU, or a
transcendental of VEC? -/
def discarded (t : Trig) : Bool :=
  match t with
  | .mul op => op ∈ [MulOp.div, .rem, .divrem]
  | .fpu op _ => op ∈ [FpuOp.div, .sqrt]
  | .vec op _ => op ∈ [VecOp.exp, .log, .rcp, .rsqrt, .tanh, .sigm]
  | _ => false

/-- A unit of scratchpad that holds one of n bytes at a is out of the tile (R284). -/
def UnitAway (s : State) (a n : Nat) : Prop := ∃ k ∈ (myVt s).spOut, 8192 * k < a + n ∧ a < 8192 * k + 8192

/-- The context of the current slot alone owns a halt group (R402). -/
def OwnsGroup (s : State) (g : Fin 64) : Prop := Tbl.find? s.crook.owners g.val = some (s.cur.vt.ctx, false)

/-- The handler that takes a vtile's traps (R35, R343): entry 31 of its handler table, VALID and SUP; its LINE is in bits
53 to 6 and its ISLOT in bits 2 to 0. -/
def TrapHandlerAt (t : Vtile) (ix : Nat) : Prop :=
  (t.hnds.get 31).getLsbD 54 = true ∧ (t.hnds.get 31).getLsbD 55 = true ∧
  ix = 5 * ((t.hnds.get 31).toNat / 2 ^ 6 % 2 ^ 48) + (t.hnds.get 31).toNat % 2 ^ 3

/-- The frame area of a vtile lies in the scratchpad and off the port store (R343, R349). -/
def FrameAreaOk (t : Vtile) : Prop :=
  t.tfbase + 0x8000 ≤ 0x400000 ∧
  (t.psSize = 0 ∨ t.tfbase + 0x8000 ≤ t.psBase ∨ t.psBase + t.psSize ≤ t.tfbase)

/-- The frame of a slot (R343). -/
def frameOf (t : Vtile) (i : Fin 8) : Nat := t.tfbase + 0x1000 * i.val

/-- The entry into a trap waits for nothing: the units of the slot's frame are in the tile, and each of its buffered stores can
be performed, its unit in the tile, no message of the slot to the field undelivered before it, and room for a batch that is
to be sealed (R220, R261, R284, R343). -/
def EntersAtOnce (s : State) (r : SRef) : Prop :=
  let t := s.vt r.vt
  let away (a n : Nat) : Prop := ∃ k ∈ t.spOut, 8192 * k < a + n ∧ a < 8192 * k + 8192
  ¬away (frameOf t r.slot) 0xCC0 ∧
  ∀ e ∈ (s.slot r).sb,
    (e.kind ≠ .cSt → 0 < e.n → ¬away e.addr e.n) ∧
    (e.kind ≠ .seal → (e.kind = .cSt → fieldOfSite (bankSite ((s.ctx r.vt.ctx).bankOf e.addr)) = fieldOfSite t.site) →
      ¬Undelivered s r e.id true) ∧
    (e.kind = .seal → ¬((∃ c ∈ t.copies, c.batch = t.bopen ∧ c.finished = false) ∧ t.sealed.length = 63))

/-- The slot takes the trap with a code and `%tval` at its current instruction, of which nothing takes effect (R340, R343);
while the entry has to wait, the slot stalls there (R284). -/
def TrapsWith (i : Instr) (s : State) (code : Nat) (tval : Word) (move : Nat) : Prop :=
  (EntersAtOnce s s.cur → exec i s = .next (s.takeTrap s.cur
    { code := code, tval := tval, tinst := word (me s).ix, move := move, pair2 := (me s).pair2 } (me s).ix false none)) ∧
  (¬EntersAtOnce s s.cur → exec i s = .next s)

/-- `%tcause` as R342 lays it out. -/
def causeWord (t : TrapReq) (held more : Bool) : Word :=
  BitVec.ofNat 64 (t.code % 2 ^ 8 + (if held then 2 ^ 8 else 0) + (if t.pair2 then 2 ^ 9 else 0) + t.move % 8 * 2 ^ 10 +
    (if more then 2 ^ 13 else 0))

/-! ### Words about triggers -/

/-- Element width of a W modifier code (R107): 64, 32, 16 and 8 bits for codes 0 to 3, and again for 4 to 7. -/
def wOf (m : BitVec 3) : Nat := [64, 32, 16, 8].getD (m.toNat % 4) 8

/-- Codes 0 to 3 are signed (R107). -/
def signedOf (m : BitVec 3) : Bool := m.toNat < 4

/-- `Op(x)` of R107, with the two's complement reading of bit vectors. -/
def opOf (m : BitVec 3) (x : Nat) : Int :=
  if signedOf m then (BitVec.ofNat (wOf m) x).toInt else ((BitVec.ofNat (wOf m) x).toNat : Int)

/-- The extension of a w-bit pattern to 64 bits: by sign or by zeros (R107). -/
def extOf (m : BitVec 3) (y : BitVec (wOf m)) : Word := if signedOf m then y.signExtend 64 else y.setWidth 64

/-- `Res(v)` of R107. -/
def resOf (m : BitVec 3) (v : Int) : Word := extOf m (BitVec.ofInt (wOf m) v)

/-- The range of (w, sg) of R112. -/
def lowest (m : BitVec 3) : Int := if signedOf m then -(2 : Int) ^ (wOf m - 1) else 0
def highest (m : BitVec 3) : Int := if signedOf m then (2 : Int) ^ (wOf m - 1) - 1 else (2 : Int) ^ wOf m - 1

/-- What lands in `.q` alone, with its events. -/
def givesQ (q : Word) (e : Ev := evNone) : Landing := ⟨some (q.setWidth 1024), none, e⟩

/-- The trigger fires with a result that is known at once: its flight, with that result, goes behind the slot's operations
that have not landed, and nothing else of the machine changes (R24, R25). -/
def Issues (i : Instr) (s : State) (t : Trig) (m : BitVec 3) (l : Landing) : Prop :=
  exec i s = .next (s.modSlot s.cur (fun sl => sl.fire t m l))

/-- Fewer than 32 operations of the slot have not landed, and fewer than four of VEC's long ones (R346). -/
def Room (s : State) : Prop := (me s).ops.length < 32
def RoomLong (s : State) : Prop := ((me s).ops.filter (fun f => trigVecLong f.trig)).length < 4

/-- `.q` := the value that the table of R110 gives for `.a`, `.b` and `q_prev`, with the events of R112. -/
def aluResult (op : AluOp) (m : BitVec 3) (a b : Nat) (q : Word) : Landing :=
  let w := wOf m
  let x : BitVec w := BitVec.ofNat w a
  let y : BitVec w := BitVec.ofNat w b
  let sh := b % 64 % w
  let pos := b % 64
  let n := min (b / 64 % 128) (64 - pos)
  let field := a / 2 ^ pos % 2 ^ n
  let clamp (r : Int) : Landing :=
    givesQ (resOf m (max (lowest m) (min (highest m) r)))
      (if r < lowest m ∨ highest m < r then ⟨flagSAT ||| flagNX, 1⟩ else evNone)
  match op with
  | .add => givesQ (resOf m (opOf m a + opOf m b))
  | .sub => givesQ (resOf m (opOf m a - opOf m b))
  | .and => givesQ (extOf m (x &&& y))
  | .or => givesQ (extOf m (x ||| y))
  | .xor => givesQ (extOf m (x ^^^ y))
  | .andn => givesQ (extOf m (x &&& ~~~y))
  | .shl => givesQ (extOf m (x <<< sh))
  | .shr => givesQ (extOf m (x >>> sh))
  | .sra => givesQ (extOf m (x.sshiftRight sh))
  | .rol => givesQ (extOf m (x.rotateLeft sh))
  | .ror => givesQ (extOf m (x.rotateRight sh))
  | .min => givesQ (resOf m (min (opOf m a) (opOf m b)))
  | .max => givesQ (resOf m (max (opOf m a) (opOf m b)))
  | .eq => givesQ (if opOf m a = opOf m b then 1 else 0)
  | .ne => givesQ (if opOf m a ≠ opOf m b then 1 else 0)
  | .lt => givesQ (if opOf m a < opOf m b then 1 else 0)
  | .le => givesQ (if opOf m a ≤ opOf m b then 1 else 0)
  | .sel => givesQ (if x ≠ 0 then resOf m (opOf m b) else q)
  | .bfx => givesQ (if signedOf m ∧ 0 < n ∧ 2 ^ (n - 1) ≤ field then BitVec.ofInt 64 ((field : Int) - 2 ^ n) else BitVec.ofNat 64 field)
  | .bfi => givesQ (BitVec.ofNat 64 (q.toNat % 2 ^ pos + a % 2 ^ n * 2 ^ pos + q.toNat / 2 ^ (pos + n) * 2 ^ (pos + n)))
  | .clz => givesQ (BitVec.ofNat 64 ((List.range w).takeWhile (fun i => !x.getMsbD i)).length)
  | .ctz => givesQ (BitVec.ofNat 64 ((List.range w).takeWhile (fun i => !x.getLsbD i)).length)
  | .popc => givesQ (BitVec.ofNat 64 ((List.range w).filter (fun i => x.getLsbD i)).length)
  | .bswap => givesQ (extOf m (BitVec.ofNat w ((List.range (w / 8)).foldl (fun acc i => acc * 256 + a / 256 ^ i % 256) 0)))
  | .adds => clamp (opOf m a + opOf m b)
  | .subs => clamp (opOf m a - opOf m b)
  | .abs => givesQ (resOf m (opOf m a).natAbs)
  | .neg => givesQ (resOf m (-opOf m a))

/-- The row of an ALU trigger; `n` names ALU1. -/
def aluInstr (n : Bool) (op : AluOp) (m : BitVec 3) : Instr :=
  match op with
  | .add => .aluAdd n m | .sub => .aluSub n m | .and => .aluAnd n m | .or => .aluOr n m | .xor => .aluXor n m
  | .andn => .aluAndn n m | .shl => .aluShl n m | .shr => .aluShr n m | .sra => .aluSra n m | .rol => .aluRol n m
  | .ror => .aluRor n m | .min => .aluMin n m | .max => .aluMax n m | .eq => .aluEq n m | .ne => .aluNe n m
  | .lt => .aluLt n m | .le => .aluLe n m | .sel => .aluSel n m | .bfx => .aluBfx n m | .bfi => .aluBfi n m
  | .clz => .aluClz n m | .ctz => .aluCtz n m | .popc => .aluPopc n m | .bswap => .aluBswap n m
  | .adds => .aluAdds n m | .subs => .aluSubs n m | .abs => .aluAbs n m | .neg => .aluNeg n m

/-- The results of MUL (R113, R114). -/
def mulResult (op : MulOp) (m : BitVec 3) (a b : Nat) (q : Word) : Landing :=
  let x := opOf m a
  let y := opOf m b
  let quo := if y = 0 then resOf m (2 ^ wOf m - 1) else resOf m (x.tdiv y)
  let rmd := if y = 0 then resOf m x else resOf m (x - x.tdiv y * y)
  let ev := if y = 0 then evFlags flagDZ else evNone
  match op with
  | .mul => givesQ (resOf m (x * y))
  | .mulh => givesQ (resOf m ((x * y) / 2 ^ wOf m))
  | .mulw => if wOf m = 64
      then ⟨some ((BitVec.ofInt 64 (x * y)).setWidth 1024), some ((BitVec.ofInt 64 (x * y / 2 ^ 64)).setWidth 1024), evNone⟩
      else givesQ (BitVec.ofInt 64 (x * y))
  | .mad => givesQ (resOf m (x * y + opOf m q.toNat))
  | .div => givesQ quo ev
  | .rem => givesQ rmd ev
  | .divrem => ⟨some (quo.setWidth 1024), some (rmd.setWidth 1024), ev⟩

/-- The row of a MUL trigger. -/
def mulInstr (op : MulOp) (m : BitVec 3) : Instr :=
  match op with
  | .mul => .mulMul m | .mulh => .mulMulh m | .mulw => .mulMulw m | .mad => .mulMad m | .div => .mulDiv m
  | .rem => .mulRem m | .divrem => .mulDivrem m

/-- Bytes and full-empty bits of every scratchpad are the same in both states, and rim memory and the commons too. -/
def SameBytes (s t : State) : Prop :=
  (∀ v a, t.spGet v a = s.spGet v a) ∧ t.rim = s.rim ∧ ∀ n, (t.ctx n).commons = (s.ctx n).commons
def SameFe (s t : State) : Prop := ∀ v a, t.feGet v a = s.feGet v a

/-- The full words are listed in rising order, each once. -/
def FeSorted (t : Vtile) : Prop := t.fe.Pairwise (· < ·)

/-- The slot exists and has nothing under way, its scratchpad is all in the tile, holds no planted error, and its bytes and
full-empty bits are in canonical form. -/
def Clean (s : State) : Prop :=
  Present s ∧ Unordered s ∧ AllUnitsIn s ∧ (myVt s).marks = [] ∧ (myVt s).sp.wf = true ∧ FeSorted (myVt s)

/-- An access of n bytes at ea lies in the scratchpad and is aligned (R118). -/
def SpOk (ea n : Nat) : Prop := ea + n ≤ 0x400000 ∧ ea % n = 0

/-- A range lies off the port store (R207). -/
def OffPorts (t : Vtile) (a n : Nat) : Prop := t.psSize = 0 ∨ a + n ≤ t.psBase ∨ t.psBase + t.psSize ≤ a

/-- The slot's only operation that has not landed is the trigger's; `res` is its result, once known. -/
def OnlyFlight (t : State) (tr : Trig) (m : BitVec 3) (res : Option Landing) : Prop :=
  ∃ f, (me t).ops = [f] ∧ f.trig = tr ∧ f.mod = m ∧ f.res = res

/-- The scratchpad word of an address is full (R28). -/
def Full (s : State) (a : Nat) : Prop := s.feGet s.cur.vt a = true

/-- New value of an atomic on an old one (R122): none where nothing is written. -/
def atomicResult (op : LsuOp) (m : BitVec 3) (old b c : Nat) : Option Nat :=
  let w := wOf m
  match op with
  | .aAdd => some ((old + b) % 2 ^ w)
  | .aAnd => some (old &&& b % 2 ^ w)
  | .aOr => some (old ||| b % 2 ^ w)
  | .aXor => some (old ^^^ b % 2 ^ w)
  | .aMin => some (if opOf m b < opOf m old then b % 2 ^ w else old)
  | .aMax => some (if opOf m old < opOf m b then b % 2 ^ w else old)
  | .aCas => if old = c % 2 ^ w then some (b % 2 ^ w) else none
  | .aSwap => some (b % 2 ^ w)
  | _ => none

/-- The row of a scratchpad atomic, with its trigger. -/
def atomicInstr (op : LsuOp) (m : BitVec 3) : Option Instr :=
  match op with
  | .aAdd => some (.lsuAAdd m) | .aAnd => some (.lsuAAnd m) | .aOr => some (.lsuAOr m) | .aXor => some (.lsuAXor m)
  | .aMin => some (.lsuAMin m) | .aMax => some (.lsuAMax m) | .aCas => some (.lsuACas m) | .aSwap => some (.lsuASwap m)
  | _ => none

/-- The row of a commons operation other than c.st. -/
def commonsInstr (op : LsuOp) (m : BitVec 3) : Option Instr :=
  match op with
  | .cLd => some (.lsuCLd m) | .cAddO => some (.lsuCAddO m) | .cAddU => some (.lsuCAddU m) | .cMinO => some (.lsuCMinO m)
  | .cMinU => some (.lsuCMinU m) | .cMaxO => some (.lsuCMaxO m) | .cMaxU => some (.lsuCMaxU m) | .cCasO => some (.lsuCCasO m)
  | .cCasU => some (.lsuCCasU m) | .cSwapO => some (.lsuCSwapO m) | .cSwapU => some (.lsuCSwapU m) | .cDecq => some (.lsuCDecq m)
  | _ => none

/-- Bytes of a commons access (R222): 32 for c.decq, 4 for the FP32 of an update (code 6), else the modifier's width. -/
def commonsSize (op : LsuOp) (m : BitVec 3) : Nat :=
  if op = .cDecq then 32 else if m = 6 ∧ op ≠ .cLd then 4 else wOf m / 8

/-- What the bank makes of the old value (R224): the new value, if any, and the flags. -/
def commonsNew (op : LsuOp) (m : BitVec 3) (old b c : Nat) : Option Nat × Ev :=
  let int (r : Option Nat) : Option Nat × Ev := (r, evNone)
  let float (r : Nat × Ev) : Option Nat × Ev := (some r.1, r.2)
  match op with
  | .cAddO | .cAddU => if m = 6 then float (elemAdd .fp32 .rn old (b % 2 ^ 32) 0) else int (atomicResult .aAdd m old b c)
  | .cMinO | .cMinU => if m = 6 then float (elemMin .fp32 .rn old (b % 2 ^ 32) 0) else int (atomicResult .aMin m old b c)
  | .cMaxO | .cMaxU => if m = 6 then float (elemMax .fp32 .rn old (b % 2 ^ 32) 0) else int (atomicResult .aMax m old b c)
  | .cCasO | .cCasU => int (atomicResult .aCas m old b c)
  | .cSwapO | .cSwapU => int (atomicResult .aSwap m old b c)
  | _ => int none

/-- An operation of a slot that may still raise flags or counts has not landed (R75): one of FPU, VEC, MUL, ALU0, ALU1, LSU or
RNG; in a handler also a commons operation of before the trap (log 92, the model's choice); or the running matrix command has
filled words and not retired, so that a slot may have observed it (R191). -/
def FlagsPending (s : State) (r : SRef) : Prop :=
  (∃ f ∈ (s.slot r).ops, f.unit ∈ [FUnit.fpu, .vec, .mul, .alu0, .alu1, .lsu, .rng]) ∨
  (∃ p ∈ (s.slot r).saved, ∃ op, p.2.trig = .lsu op ∧ (commonsInstr op 0).isSome = true) ∨
  ((s.vt r.vt).mx.run.draining = true ∧ 0 < (s.vt r.vt).mx.run.pos)

/-- An enabled move triggers an operation that waits until its words are full, and one of them is not, for the latches as they
stand (R119, R160). -/
def AwaitsFull (p : State) (r : SRef) (m : Move) : Prop :=
  let l := (p.slot r).lat
  let some_ (ea n : Nat) : Prop := ∃ a, ea ≤ a ∧ a < ea + n ∧ p.feGet r.vt a = false
  (p.slot r).guard m.g = true ∧
  ((m.dst = .trig (.lsu .ldWf) ∨ m.dst = .trig (.lsu .ldTake)) ∧ some_ l.lsu.a.toNat (wOf m.mod / 8) ∨
    (∃ rm, m.dst = .trig (.vec .vldWf rm)) ∧
      some_ (l.vec.a.toNat % 2 ^ 64) (if l.vec.c.toNat % 2 ^ 8 = 0 then 128 else l.vec.c.toNat % 2 ^ 8))

/-- Word 0 of a record (R345). -/
def recordWord (f : Flight) (reissue pend : Bool) (opb : Nat) : Nat :=
  unitNum f.unit + trigOffset f.trig * 2 ^ 4 + f.mod.toNat * 2 ^ 12 + 2 ^ 15 + (if reissue then 2 ^ 17 else 0) +
    (if pend then 2 ^ 18 else 0) + opb * 2 ^ 19 + f.tseq % 2 ^ 32 * 2 ^ 32

/-- Bytes that a load reaches (R118, R160). -/
def reachOf (f : Flight) : Nat :=
  match f.trig with
  | .vec _ _ => if f.c.toNat % 2 ^ 8 = 0 then 128 else f.c.toNat % 2 ^ 8
  | _ => wOf f.mod / 8

/-- The operation is a load that waits for a word that is not full (R119, R120, R160). -/
def AwaitsWord (s : State) (v : VRef) (f : Flight) : Prop :=
  (f.trig = .lsu .ldWf ∨ f.trig = .lsu .ldTake ∨ ∃ rm, f.trig = .vec .vldWf rm) ∧ f.performed = false ∧ f.res = none ∧
  ∃ a, f.a.toNat % 2 ^ 64 ≤ a ∧ a < f.a.toNat % 2 ^ 64 + reachOf f ∧ s.feGet v a = false

/-- An operation that trap entry finds under way and puts into a record (R343, R345): one that is abandoned, one that waits for a
word, and one that runs on, of a bank or of MXQ. -/
def Recorded (s : State) (v : VRef) (f : Flight) : Prop :=
  discarded f.trig = true ∨ AwaitsWord s v f ∨ (f.unit = .mxq ∧ f.performed = true ∧ f.res = none) ∨
  ∃ op, f.trig = .lsu op ∧ trigIsCommons f.trig = true ∧ f.performed = false ∧ f.res = none

/-- The bank may perform an operation now, and the firing that it is for still runs with it under way and no store buffered. -/
def BankTakes (s : State) (ctx id : Nat) (u : BankOp) : Prop :=
  let sl := s.slot ⟨⟨ctx, u.rank⟩, Fin.ofNat 8 u.slot⟩
  (s.ctx ctx).bankOps.find? (fun x => x.id == id) = some u ∧ s.bankReady ctx u = true ∧ s.hasVt ⟨ctx, u.rank⟩ = true ∧
  sl.fser = u.fser ∧ sl.status ≠ .free ∧ sl.sb = [] ∧ ∃ f ∈ sl.ops, f.id = u.fid

/-- Where an offset of a partition lies (R288): the entry of its chunk gives fold and first line, the offset the bank of the
fold and the line; numbered over the module as R294 does, by the tile under the bank, the bank in the tile and the line. -/
def lineOf (s : State) (ctx ea : Nat) : Nat :=
  let entry := ((s.ctx ctx).desc.cmap.getD (ea / 2 ^ 20) 0).toNat
  let fold := entry / 2 % 2 ^ 9
  let bank := ea / 64 % 2 ^ 8
  let tile := bank / 16
  let site := fold % 24 * 4 + tile % 4 + 96 * (fold / 24 * 4 + tile / 4)
  site * 2 ^ 19 + bank % 16 * 2 ^ 15 + (entry / 2 ^ 10 % 2 ^ 9 * 64 + ea / 2 ^ 14 % 2 ^ 6)

/-- The line of an offset is neither condemned nor bears an error, its version can rise (R294), and commons is in canonical
form. -/
def LineSound (s : State) (ctx ea : Nat) : Prop :=
  setHas (s.ctx ctx).condemned (ea / 64) = false ∧ Tbl.find? (s.ctx ctx).cmarks (ea / 64) = none ∧
  Tbl.getD (s.ctx ctx).versions (lineOf s ctx ea) 0 < 2 ^ 56 - 1 ∧ (s.ctx ctx).commons.wf = true

/-- The slot's operation has the result. -/
def Answered (t : State) (ctx : Nat) (u : BankOp) (l : Landing) : Prop :=
  ∃ f ∈ (t.slot ⟨⟨ctx, u.rank⟩, Fin.ofNat 8 u.slot⟩).ops, f.id = u.fid ∧ f.performed = true ∧ f.res = some l

/-- Element i of w bits (R143). -/
def laneOf (w x i : Nat) : Nat := x / 2 ^ (w * i) % 2 ^ w

/-- The result of an integer lane operation (R159). -/
def intLaneResult (op : VecOp) (m : BitVec 3) (a b : Nat) : Option Nat :=
  let w := wOf m
  let cut (v : Int) : Nat := (BitVec.ofInt w v).toNat
  match op with
  | .iadd => some (cut (opOf m a + opOf m b))
  | .isub => some (cut (opOf m a - opOf m b))
  | .imul => some (cut (opOf m a * opOf m b))
  | .iand => some (a &&& b)
  | .ior => some (a ||| b)
  | .ixor => some (a ^^^ b)
  | .ishl => some (a * 2 ^ (b % 64 % w) % 2 ^ w)
  | .ishr => some (cut (opOf m a / 2 ^ (b % 64 % w)))
  | .imin => some (if opOf m b < opOf m a then b else a)
  | .imax => some (if opOf m a < opOf m b then b else a)
  | _ => none

/-- The row of a VEC trigger; `rm` counts only where the table has a rounding mode. -/
def vecInstr (op : VecOp) (m : BitVec 3) (rm : BitVec 2) : Instr :=
  match op with
  | .add => .vecAdd m rm | .sub => .vecSub m rm | .mul => .vecMul m rm | .fma => .vecFma m rm
  | .cvt => .vecCvt m rm | .cvti => .vecCvti m rm | .cvtf => .vecCvtf m rm
  | .redaddO => .vecRedaddO m rm | .redaddU => .vecRedaddU m rm | .bfdec => .vecBfdec m rm
  | .min => .vecMin m | .max => .vecMax m | .eq => .vecEq m | .lt => .vecLt m | .le => .vecLe m | .sel => .vecSel m
  | .abs => .vecAbs m | .neg => .vecNeg m | .redmax => .vecRedmax m | .redmin => .vecRedmin m
  | .bfenc => .vecBfenc m | .bfalign => .vecBfalign m | .exp => .vecExp m | .log => .vecLog m | .rcp => .vecRcp m
  | .rsqrt => .vecRsqrt m | .tanh => .vecTanh m | .sigm => .vecSigm m
  | .perm => .vecPerm m | .bcast => .vecBcast m | .rotl => .vecRotl m | .vld => .vecVld m | .vst => .vecVst m
  | .vldWf => .vecVldWf m
  | .iadd => .vecIadd m | .isub => .vecIsub m | .imul => .vecImul m | .iand => .vecIand m | .ior => .vecIor m
  | .ixor => .vecIxor m | .ishl => .vecIshl m | .ishr => .vecIshr m | .imin => .vecImin m | .imax => .vecImax m

/-- The row of an FPU trigger; `rm` counts only where the table has a rounding mode. -/
def fpuInstr (op : FpuOp) (m : BitVec 3) (rm : BitVec 2) : Instr :=
  match op with
  | .add => .fpuAdd m rm | .sub => .fpuSub m rm | .mul => .fpuMul m rm | .fma => .fpuFma m rm | .div => .fpuDiv m rm
  | .sqrt => .fpuSqrt m rm | .cvt => .fpuCvt m rm | .cvti => .fpuCvti m rm | .cvtf => .fpuCvtf m rm
  | .min => .fpuMin m | .max => .fpuMax m | .eq => .fpuEq m | .lt => .fpuLt m | .le => .fpuLe m | .un => .fpuUn m
  | .abs => .fpuAbs m | .neg => .fpuNeg m | .cls => .fpuClass m

/-- The format of an F code 0 to 2, its width and its encodings (R46, R49). -/
abbrev fWidth (m : BitVec 3) : Nat := if m = 0 then 32 else 16
abbrev fMant (m : BitVec 3) : Nat := if m = 0 then 23 else if m = 1 then 7 else 10
abbrev fExp (m : BitVec 3) (x : Nat) : Nat := x / 2 ^ fMant m % 2 ^ (fWidth m - 1 - fMant m)
abbrev fFrac (m : BitVec 3) (x : Nat) : Nat := x % 2 ^ fMant m
abbrev fMag (m : BitVec 3) (x : Nat) : Nat := x % 2 ^ (fWidth m - 1)
abbrev fNeg (m : BitVec 3) (x : Nat) : Prop := x / 2 ^ (fWidth m - 1) % 2 = 1
abbrev ExpOnes (m : BitVec 3) (x : Nat) : Prop := fExp m x = 2 ^ (fWidth m - 1 - fMant m) - 1
abbrev IsNaN (m : BitVec 3) (x : Nat) : Prop := ExpOnes m x ∧ fFrac m x ≠ 0
abbrev IsInf (m : BitVec 3) (x : Nat) : Prop := ExpOnes m x ∧ fFrac m x = 0
abbrev IsSignalling (m : BitVec 3) (x : Nat) : Prop := IsNaN m x ∧ x / 2 ^ (fMant m - 1) % 2 = 0
def canonicalNaN (m : BitVec 3) : Nat := (2 ^ (fWidth m - 1 - fMant m) - 1) * 2 ^ fMant m + 2 ^ (fMant m - 1)

/-- A number that orders the values that are no NaN: the magnitude's bits, with the sign. -/
def fKey (m : BitVec 3) (x : Nat) : Int := if fNeg m x then -(fMag m x : Int) else fMag m x

/-- Number of the class (R150). -/
def fClassOf (m : BitVec 3) (x : Nat) : Nat :=
  if IsSignalling m x then 8 else if IsNaN m x then 9
  else if IsInf m x then (if fNeg m x then 0 else 7)
  else if fMag m x = 0 then (if fNeg m x then 3 else 4)
  else if fExp m x = 0 then (if fNeg m x then 2 else 5)
  else if fNeg m x then 1 else 6

/-- The rounding mode that a trigger's code holds: none but for the operations that round. -/
def roundingOf (op : FpuOp) (rm : BitVec 2) : BitVec 2 :=
  if op ∈ [FpuOp.add, .sub, .mul, .fma, .div, .sqrt, .cvt, .cvti, .cvtf] then rm else 0

/-- The result of an FPU trigger that is no conversion: the operation of chapter 02 on the encodings. -/
def fpuResult (op : FpuOp) (m : BitVec 3) (rm : BitVec 2) (a b c : Nat) : Landing :=
  let f := fmtOfF m
  let r := rmOf rm
  let num (x : Nat × Ev) : Landing := givesQ (BitVec.ofNat 64 x.1) x.2
  let cmp (x : Bool × Ev) : Landing := givesQ (if x.1 then 1 else 0) x.2
  match op with
  | .add => num (elemAdd f r a b c)
  | .sub => num (elemSub f r a b c)
  | .mul => num (elemMul f r a b c)
  | .fma => num (elemFma f r a b c)
  | .div => num (elemDiv f r a b c)
  | .sqrt => num (elemSqrt f r a b c)
  | .min => num (elemMin f r a b c)
  | .max => num (elemMax f r a b c)
  | .abs => num (elemAbs f r a b c)
  | .neg => num (elemNeg f r a b c)
  | .cls => num (elemClass f r a b c)
  | .eq => cmp (cmpEq f a b)
  | .lt => cmp (cmpLt f a b)
  | .le => cmp (cmpLe f a b)
  | .un => cmp (cmpUn f a b)
  | .cvt | .cvti | .cvtf => givesQ 0

/-- One element converted (R151): the number of its bits in the destination. -/
def convElement (op : FpuOp) (m : BitVec 3) (rm : BitVec 2) (record x scale : Nat) : Nat × Ev :=
  match op with
  | .cvt => convCvt (fmtOfF m) (rmOf rm) record x scale
  | .cvti => ((BitVec.ofInt (wOf m) (convCvti m (rmOf rm) record x scale).1).toNat, (convCvti m (rmOf rm) record x scale).2)
  | _ => convCvtf m (rmOf rm) record x

/-- The result of an FPU conversion. -/
def convResult (op : FpuOp) (m : BitVec 3) (rm : BitVec 2) (record x scale : Nat) : Landing :=
  givesQ (BitVec.ofNat 64 (convElement op m rm record x scale).1) (convElement op m rm record x scale).2

/-- A record that a conversion refuses (R61, R62, R151): it names no float or tapered format, has a block size of 7 or, without a
scale plane, any, a reserved or SIGNED bit, or a scale plane where none may be. -/
def RecordRefused (record : Nat) (plain : Bool) : Prop :=
  record % 2 ^ 4 ∉ [1, 2, 3, 4, 5] ∨ record / 2 ^ 5 % 8 = 7 ∨ record / 2 ^ 8 % 8 = 7 ∨ record / 2 ^ 11 ≠ 0 ∨
  (record / 2 ^ 4 % 2 = 0 ∧ record / 2 ^ 5 ≠ 0) ∨ (plain = true ∧ record / 2 ^ 4 % 2 = 1)

/-! ### Exact values and their rounding (chapter 02) -/

/-- The bias of a format (R48). -/
abbrev fBias (m : BitVec 3) : Nat := 2 ^ (fWidth m - 2 - fMant m) - 1

/-- A finite encoding, and its exact value (R48). -/
abbrev Finite (m : BitVec 3) (x : Nat) : Prop := x < 2 ^ fWidth m ∧ ¬ExpOnes m x
def valueOf (m : BitVec 3) (x : Nat) : ℚ :=
  (if fNeg m x then -1 else 1) * (((if fExp m x = 0 then 0 else 2 ^ fMant m) + fFrac m x : Nat) : ℚ) *
    2 ^ ((max (fExp m x) 1 : ℤ) - fBias m - fMant m)

/-- The zeros and infinities of a format. -/
def zeroOf (m : BitVec 3) (neg : Prop) [Decidable neg] : Nat := if neg then 2 ^ (fWidth m - 1) else 0
def infOf (m : BitVec 3) (neg : Prop) [Decidable neg] : Nat :=
  zeroOf m neg + (2 ^ (fWidth m - 1 - fMant m) - 1) * 2 ^ fMant m

/-- Without a bound on the exponent, v would round past the largest finite value (R57). -/
def Overflows (m : BitVec 3) (rm : BitVec 2) (v : ℝ) : Prop :=
  let top : ℝ := 2 ^ (fBias m + 1)
  let last : ℝ := top - top / 2 ^ (fMant m + 1)
  if rm = 0 then top - top / 2 ^ (fMant m + 2) ≤ |v|
  else if rm = 1 then top ≤ |v|
  else if rm = 2 then last < v ∨ v ≤ -top
  else top ≤ v ∨ v < -last

/-- Without a bound on the exponent, v would round to a magnitude below the smallest normal: tininess after rounding (R57). -/
def Tiny (m : BitVec 3) (rm : BitVec 2) (v : ℝ) : Prop :=
  let low : ℝ := 2 ^ (1 - (fBias m : ℤ))
  let last : ℝ := low - low / 2 ^ (fMant m + 1)
  if rm = 0 then |v| < low - low / 2 ^ (fMant m + 2)
  else if rm = 1 then |v| < low
  else if rm = 2 then -low < v ∧ v ≤ last
  else -last ≤ v ∧ v < low

/-- The finite encoding that IEEE 754 chooses for v: the nearest, in a tie the even one; or the next towards zero, up or down. -/
def Nearest (m : BitVec 3) (rm : BitVec 2) (v : ℝ) (x : Nat) : Prop :=
  Finite m x ∧ (fNeg m x ↔ v < 0) ∧
  if rm = 0 then ∀ z, Finite m z → |v - valueOf m x| ≤ |v - valueOf m z| ∧
    (|v - valueOf m x| = |v - valueOf m z| → valueOf m z ≠ valueOf m x → x % 2 = 0)
  else if rm = 1 then |(valueOf m x : ℝ)| ≤ |v| ∧ ∀ z, Finite m z → |(valueOf m z : ℝ)| ≤ |v| → |valueOf m z| ≤ |valueOf m x|
  else if rm = 2 then v ≤ valueOf m x ∧ ∀ z, Finite m z → v ≤ valueOf m z → valueOf m x ≤ valueOf m z
  else valueOf m x ≤ v ∧ ∀ z, Finite m z → valueOf m z ≤ v → valueOf m z ≤ valueOf m x

/-- `Round(v, F, rm)` of R57 of an exact value that is not zero: the encoding and the flags. -/
def RoundsTo (m : BitVec 3) (rm : BitVec 2) (v : ℝ) (x : Nat) (flags : BitVec 8) : Prop :=
  (Overflows m rm v → flags = flagOF ||| flagNX ∧
    (0 < v → x = infOf m False - (if rm = 1 ∨ rm = 3 then 1 else 0)) ∧
    (v < 0 → x = infOf m True - (if rm = 1 ∨ rm = 2 then 1 else 0))) ∧
  (¬Overflows m rm v → Nearest m rm v x ∧ (valueOf m x = v → flags = 0) ∧
    (valueOf m x ≠ v → (Tiny m rm v → flags = flagNX ||| flagUF) ∧ (¬Tiny m rm v → flags = flagNX)))

/-- A magnitude of a tapered format with w magnitude bits (R51): the regime is the run of the top bits that equal the first. -/
def taperedRun (w m : Nat) : Nat :=
  ((List.range (w + 1)).filter (fun n => (List.range n).all (fun i => m / 2 ^ (w - 1 - i) % 2 == m / 2 ^ (w - 1) % 2))).length - 1
def taperedMagnitude (w m : Nat) : ℚ :=
  let run := taperedRun w m
  let k : ℤ := if m / 2 ^ (w - 1) % 2 = 1 then run - 1 else -run
  let rest := w - run - 1
  let e : ℤ := if 1 ≤ rest then (m / 2 ^ (rest - 1) % 2 : Nat) else 0
  if m = 0 then 0 else 2 ^ (2 * k + e) * (1 + ((m % 2 ^ (rest - 1) : Nat) : ℚ) / 2 ^ (rest - 1))

/-- Magnitude bits of F codes 3 and 4. -/
abbrev taperedBits (m : BitVec 3) : Nat := if m = 3 then 7 else 5

/-- `TEncode` of R58: nearest by value, ties to the even code, saturating. -/
def TaperedTo (m : BitVec 3) (v : ℝ) (c : Nat) (e : Ev) : Prop :=
  let w := taperedBits m
  let mag (k : Nat) : ℝ := taperedMagnitude w k
  ∃ sign, (v < 0 ∧ sign = 2 ^ w ∨ 0 ≤ v ∧ sign = 0) ∧
    (mag (2 ^ w - 1) < |v| → c = sign + (2 ^ w - 1) ∧ e = ⟨flagSAT ||| flagNX, 1⟩) ∧
    (|v| ≤ mag (2 ^ w - 1) → ∃ k < 2 ^ w, c = (if k = 0 then 0 else sign + k) ∧ e.sat = 0 ∧
      (∀ j < 2 ^ w, |(|v| - mag k)| ≤ |(|v| - mag j)| ∧ (|(|v| - mag k)| = |(|v| - mag j)| → j ≠ k → k % 2 = 0)) ∧
      (mag k = |v| → e.flags = 0) ∧
      (mag k ≠ |v| → (|v| < mag 1 → e.flags = flagNX ||| flagUF) ∧ (mag 1 ≤ |v| → e.flags = flagNX)))

/-- The integer that v rounds to (R60). -/
def IntegralTo (rm : BitVec 2) (v : ℝ) (t : ℤ) : Prop :=
  if rm = 0 then |v - t| ≤ 1 / 2 ∧ (|v - t| = 1 / 2 → t % 2 = 0)
  else if rm = 1 then |(t : ℝ)| ≤ |v| ∧ |v - t| < 1
  else if rm = 2 then v ≤ t ∧ t < v + 1
  else t ≤ v ∧ v < t + 1

/-- Elements of F codes 0 to 4: storage bits, NaN, infinity and exact value (R47, R48, R51). -/
abbrev eWidth (k : BitVec 3) : Nat := if k.toNat < 3 then fWidth k else taperedBits k + 1
abbrev ElemNaN (k : BitVec 3) (x : Nat) : Prop := if k.toNat < 3 then IsNaN k x else x = 2 ^ taperedBits k
abbrev ElemInf (k : BitVec 3) (x : Nat) : Prop := k.toNat < 3 ∧ IsInf k x
def elemValue (k : BitVec 3) (x : Nat) : ℚ :=
  if k.toNat < 3 then valueOf k x
  else (if x / 2 ^ taperedBits k % 2 = 1 then -1 else 1) * taperedMagnitude (taperedBits k) (x % 2 ^ taperedBits k)

/-- The NaN of a destination, IEEE or tapered (R49, R51). -/
def elemNaN (m : BitVec 3) : Nat := if m.toNat < 3 then canonicalNaN m else 2 ^ taperedBits m

/-- An exact value that is not zero narrowed into F code m (R57, R58). -/
def NarrowsTo (m : BitVec 3) (rm : BitVec 2) (v : ℝ) (y : Nat × Ev) : Prop :=
  (m.toNat < 3 → RoundsTo m rm v y.1 y.2.flags ∧ y.2.sat = 0) ∧ (3 ≤ m.toNat → TaperedTo m v y.1 y.2)

/-- Nearest integer, ties to even (`RoundInt` of R67). -/
abbrev RoundInt (v : ℚ) (t : ℤ) : Prop := IntegralTo 0 v t

/-- A value delivered by R157: rounded to FP32 and then to the lane format, both to nearest, with the flags of a lane. -/
def Delivers (m : BitVec 3) (v : ℝ) (y : Nat × Ev) : Prop :=
  let low : ℝ := 2 ^ (1 - (fBias m : ℤ))
  let exact := Finite m y.1 ∧ valueOf m y.1 = v
  ∃ r fl, RoundsTo 0 0 v r fl ∧ y.2.sat = 0 ∧ (m = 0 → y.1 = r) ∧
    (m ≠ 0 → (IsInf 0 r → y.1 = infOf m (fNeg 0 r)) ∧
      (Finite 0 r → valueOf 0 r = 0 → y.1 = zeroOf m (fNeg 0 r)) ∧
      (Finite 0 r → valueOf 0 r ≠ 0 → ∃ fl', RoundsTo m 0 (valueOf 0 r : ℝ) y.1 fl')) ∧
    (exact → y.2.flags = 0) ∧
    (¬exact → ∃ o u, y.2.flags = flagNX ||| o ||| u ∧ (o = if IsInf m y.1 then flagOF else 0) ∧
      (|v| < low → u = flagUF) ∧ (low ≤ |v| → u = 0))

/-- No boundary between two FP32 results, nor the smallest normal of the lane format, lies within 2^-1000 of v, relative to v. -/
def Decided (m : BitVec 3) (v : ℝ) : Prop :=
  let near (u : ℝ) : Prop := |u - v| ≤ |v| / 2 ^ 1000
  let low : ℝ := 2 ^ (1 - (fBias m : ℤ))
  (∃ r, ∀ u, near u → ∃ fl, RoundsTo 0 0 u r fl) ∧ ((∀ u, near u → |u| < low) ∨ ∀ u, near u → low ≤ |u|)

/-- A lane of an approximation of VEC. -/
def approxLane (g : Fmt → FVal → LaneRes) (m : BitVec 3) (x : Nat) : Nat × Ev :=
  deliverLane (fmtOfF m) (g (fmtOfF m) (ieeeDecode (fmtOfF m) x))

/-- FP32 sums in some binary tree whose leaves are the lanes of a list, in their order (R154). -/
inductive TreeSum (rm : BitVec 2) : List Nat → Nat → BitVec 8 → Prop
  | leaf (x : Nat) : TreeSum rm [x] x 0
  | node (xs ys : List Nat) (a b : Nat) (e f : BitVec 8) : TreeSum rm xs a e → TreeSum rm ys b f →
      TreeSum rm (xs ++ ys) (addF32 (rmOf rm) a b).1 (e ||| f ||| (addF32 (rmOf rm) a b).2.flags)

/-- A number that orders all encodings that are no NaN, minus zero below plus zero. -/
def fOrder (m : BitVec 3) (x : Nat) : Int := if fNeg m x then -(fMag m x : Int) - 1 else fMag m x

/-! ### Words about what is under way, and about the matrix unit -/

/-- The number of a unit as an index. -/
def unitIndex (u : FUnit) : Fin 13 := ⟨unitNum u % 13, Nat.mod_lt _ (by decide)⟩

/-- What a result latch of a unit holds of a value: 64 bits of it, or all 1,024 on VEC and RNG (R14). -/
def latchValue (u : FUnit) (q : VWord) : VWord := if u = .vec ∨ u = .rng then q else (q.setWidth 64).setWidth 1024

/-- What a parked slot waits for has come. -/
def WakeCondition (s : State) (r : SRef) (c : ParkCond) : Prop :=
  match c with
  | .fe ea => s.feGet r.vt ea = true
  | .aw addr gen => s.spRead r.vt (addr + 8) 4 ≠ gen
  | .hurdle h => (s.vt r.vt).pend.getLsbD h = false
  | .batch n => (s.vt r.vt).unfin ≤ n
  | .pending u => ∀ f ∈ (s.slot r).ops, f.unit = u → f.performed = true
  | .hold => True

/-- The slot that issued a command still runs that firing, with the command under way. -/
def Awaited (s : State) (v : VRef) (e : MxCmd) : Prop :=
  let sl := s.slot ⟨v, Fin.ofNat 8 e.slot⟩
  sl.fser = e.fser ∧ sl.status ≠ .free ∧ ∃ f ∈ sl.ops, f.id = e.fid

/-- The command's completion word waits to land in its slot. -/
def Lands (t : State) (v : VRef) (e : MxCmd) (w : Word) : Prop :=
  ∃ f ∈ (t.slot ⟨v, Fin.ofNat 8 e.slot⟩).ops, f.id = e.fid ∧ f.res = some (givesQ w)

/-- A command with the given OP is at the head of the queue of a running vtile that is not held, everything that its slot did before
is performed and every message delivered, no discarded command is in the queue, everything that it touches is in the tile, and no
word that it has read held an error. -/
def MatrixTurn (s : State) (v : VRef) (op : Nat) (e : MxCmd) : Prop :=
  let sl := s.slot ⟨v, Fin.ofNat 8 e.slot⟩
  (s.vt v).mx.queue.head? = some e ∧ e.c.toNat % 2 ^ 4 = op ∧ s.running v = true ∧ (s.vt v).mx.held = false ∧
  sl.sb = [] ∧ (∀ f ∈ sl.ops, trigIsMemory f.trig = true → f.performed = true) ∧ BanksDone s v ∧
  NothingSent s ⟨v, Fin.ofNat 8 e.slot⟩ ∧
  (∀ x ∈ (s.vt v).mx.queue, x.gone = false) ∧ (s.vt v).spOut = [] ∧ (s.vt v).mx.bsOut = [] ∧
  Tbl.sorted (s.vt v).mx.run.words = true ∧ ∀ p ∈ (s.vt v).mx.run.words, p.2.2 = false

/-- A byte of scratchpad as the running command sees it: of a word that it has read before, what it read then (R195). -/
def seenByte (s : State) (v : VRef) (a : Nat) : Nat :=
  match Tbl.find? (s.vt v).mx.run.words (a / 8) with
  | some w => w.1 / 256 ^ (a % 8) % 256
  | none => (s.spGet v a).toNat

/-- Bytes of scratchpad as it sees them, the first least significant (R3). -/
def seen (s : State) (v : VRef) (a : Nat) : (n : Nat) → Nat
  | 0 => 0
  | n + 1 => seenByte s v a + 256 * seen s v (a + 1) n

/-- The lines of the B-store of a vtile's tile may all be written once more (R294). -/
def BstoreFresh (s : State) (v : VRef) : Prop := ∀ l, Tbl.getD (s.tile (s.vt v).site).bver l 0 < 2 ^ 56 - 1

/-- A field of a command. -/
def cmdField (c : LineWord) (hi lo : Nat) : Nat := c.toNat / 2 ^ lo % 2 ^ (hi - lo + 1)

/-- Is a bit of a command used by its OP (R173 to R175)? -/
def cmdUses (c : LineWord) (b : Nat) : Prop :=
  let op := cmdField c 3 0
  let within (l : List (Nat × Nat)) : Prop := ∃ r ∈ l, r.2 ≤ b ∧ b ≤ r.1
  let drain := [(405, 384), (437, 416), (479, 448), (481, 480), (482, 482), (483, 483)]
  b ≤ 3 ∨
  op = 0 ∧ within [(13, 8), (19, 14)] ∨
  op = 1 ∧ within [(13, 8), (19, 14), (85, 64), (117, 96), (159, 128)] ∨
  op = 2 ∧ within ([(19, 14), (49, 32), (117, 96), (159, 128), (208, 192), (214, 209), (215, 215)] ++
    if c.getLsbD 215 then [(319, 256)] else [(85, 64)]) ∨
  (op = 3 ∨ op = 4) ∧ (within [(4, 4), (5, 5), (13, 8), (19, 14), (28, 20), (85, 64), (117, 96), (159, 128), (191, 160), (208, 192),
    (255, 224), (277, 256), (299, 288), (341, 320), (363, 352)] ∨ c.getLsbD 5 = true ∧ within drain) ∨
  op = 5 ∧ within ([(13, 8), (19, 14)] ++ drain) ∨
  op = 6 ∧ within ([(97, 96)] ++ (if cmdField c 97 96 = 1 then [(85, 64), (159, 128)] else if cmdField c 97 96 = 2 then [(85, 64)] else [])) ∨
  op = 7 ∧ within [(85, 64), (96, 96)]

/-- The conditions of MATRIX_COMMAND by their number (R177 step 1, R340). -/
def cmdBreaks (c : LineWord) (n : Nat) : Prop :=
  let op := cmdField c 3 0
  let mma := op = 3 ∨ op = 4
  let k := cmdField c 28 20
  let kb := cmdField c 49 32
  let org := cmdField c 255 224
  let fa := cmdField c 159 128
  let fb := cmdField c 191 160
  let crosses (log : Nat) : Prop := org / 2 ^ log ≠ (org + k - 1) / 2 ^ log
  match n with
  | 1 => 8 ≤ op ∨ op = 6 ∧ cmdField c 97 96 = 3
  | 2 => ∃ b, c.getLsbD b = true ∧ ¬cmdUses c b
  | 3 => mma ∧ (k = 0 ∨ 256 < k)
  | 4 => op = 2 ∧ (kb = 0 ∨ 131072 < kb)
  | 5 => op = 2 ∧ 64 < cmdField c 214 209 + (cmdField c 19 14 + 1)
  | 6 => mma ∧ 131072 < cmdField c 208 192 + rowBytes (recordFmt fb) k ∨ op = 2 ∧ 131072 < cmdField c 208 192 + rowBytes (recordFmt fa) kb
  | 7 => mma ∧ (fa.testBit 4 = true ∧ crosses (fa / 2 ^ 8 % 8) ∨ fb.testBit 4 = true ∧ crosses (fb / 2 ^ 5 % 8))
  | 8 => mma ∧ 2 ^ 32 ≤ org + k - 1
  | _ => False

/-- Does a command drain: OP 5, or an MMA with FD (R187)? -/
def cmdDrains (c : LineWord) : Prop := cmdField c 3 0 = 5 ∨ (cmdField c 3 0 = 3 ∨ cmdField c 3 0 = 4) ∧ c.getLsbD 5 = true

/-- A record that an operand of a command refuses (R62, R176): reserved bits, a block size of 7, no float or tapered format (for ACCLD no
float), T6 alone for MMA.g, or a scale plane where the operand takes none. -/
def OperandRefuses (record : Nat) (formats : List Nat) (scaled : Bool) : Prop :=
  record % 2 ^ 4 ∉ formats ∨ record / 2 ^ 5 % 8 = 7 ∨ record / 2 ^ 8 % 8 = 7 ∨ record / 2 ^ 11 ≠ 0 ∨
  record.testBit 4 = false ∧ record / 2 ^ 5 ≠ 0 ∨ record.testBit 4 = true ∧ scaled = false

/-- The operands A, B and C of a command that refuse their record (R177 step 2). -/
def cmdRefusesA (c : LineWord) : Prop :=
  let op := cmdField c 3 0
  let a := cmdField c 159 128
  op = 1 ∧ OperandRefuses a [1, 2, 3] false ∨ op = 2 ∧ OperandRefuses a [1, 2, 3, 4, 5] false ∨
  op = 3 ∧ OperandRefuses a [1, 2, 3, 4, 5] true ∨ op = 4 ∧ OperandRefuses a [5] true
def cmdRefusesB (c : LineWord) : Prop :=
  let op := cmdField c 3 0
  op = 3 ∧ OperandRefuses (cmdField c 191 160) [1, 2, 3, 4, 5] true ∨ op = 4 ∧ OperandRefuses (cmdField c 191 160) [5] true
def cmdRefusesC (c : LineWord) : Prop := cmdDrains c ∧ OperandRefuses (cmdField c 479 448) [1, 2, 3, 4, 5] false

/-- The runs of scratchpad that a command touches (R177 step 3): the rows of A or of a source, those of C, the scale bytes of rows and of
columns, and what ADDR names. -/
def cmdRuns (c : LineWord) (a n : Nat) : Prop :=
  let op := cmdField c 3 0
  let mma := op = 3 ∨ op = 4
  let rows := cmdField c 13 8 + 1
  let cols := cmdField c 19 14 + 1
  let k := cmdField c 28 20
  let fa := cmdField c 159 128
  let fb := cmdField c 191 160
  let org := cmdField c 255 224
  let lines (base pitch len count : Nat) : Prop := ∃ i < count, a = base + i * pitch ∧ n = len
  op = 1 ∧ lines (cmdField c 85 64) (cmdField c 117 96) (rowBytes (recordFmt fa) cols) rows ∨
  op = 2 ∧ c.getLsbD 215 = false ∧ lines (cmdField c 85 64) (cmdField c 117 96) (rowBytes (recordFmt fa) cols) (cmdField c 49 32) ∨
  mma ∧ lines (cmdField c 85 64) (cmdField c 117 96) (rowBytes (recordFmt fa) k) rows ∨
  cmdDrains c ∧ lines (cmdField c 405 384) (cmdField c 437 416) (rowBytes (recordFmt (cmdField c 479 448)) cols) rows ∨
  mma ∧ fa.testBit 4 = true ∧ n = 1 ∧
    (∃ i < rows, a = cmdField c 277 256 + i / 2 ^ (fa / 2 ^ 5 % 8) * cmdField c 299 288 + org / 2 ^ (fa / 2 ^ 8 % 8)) ∨
  mma ∧ fb.testBit 4 = true ∧ n = 1 ∧
    (∃ j < cols, a = cmdField c 341 320 + org / 2 ^ (fb / 2 ^ 5 % 8) * cmdField c 363 352 + j / 2 ^ (fb / 2 ^ 8 % 8)) ∨
  op = 6 ∧ (cmdField c 97 96 = 1 ∧ a = cmdField c 85 64 ∧ n = 16 ∨ cmdField c 97 96 = 2 ∧ a = cmdField c 85 64 ∧ n = 8) ∨
  op = 7 ∧ a = cmdField c 85 64 ∧ n = 64

/-- A base, its pitch and what both must be multiples of (R177 step 3): the element's bytes for rows, 16 or 8 for what a fence waits on, 64
for the status record. -/
def cmdAligned (c : LineWord) (base pitch m : Nat) : Prop :=
  let op := cmdField c 3 0
  let bytes (record : Nat) : Nat := if record % 2 ^ 4 = 1 then 4 else if record % 2 ^ 4 = 2 ∨ record % 2 ^ 4 = 3 then 2 else 1
  (op = 1 ∨ op = 3 ∨ op = 4 ∨ op = 2 ∧ c.getLsbD 215 = false) ∧ base = cmdField c 85 64 ∧ pitch = cmdField c 117 96 ∧
    m = bytes (cmdField c 159 128) ∨
  cmdDrains c ∧ base = cmdField c 405 384 ∧ pitch = cmdField c 437 416 ∧ m = bytes (cmdField c 479 448) ∨
  op = 6 ∧ pitch = 0 ∧ base = cmdField c 85 64 ∧ (cmdField c 97 96 = 1 ∧ m = 16 ∨ cmdField c 97 96 = 2 ∧ m = 8) ∨
  op = 7 ∧ pitch = 0 ∧ base = cmdField c 85 64 ∧ m = 64

/-- A command passes its checks up to a step: of the formats, of the bounds, of the alignments. -/
def CommandStands (c : LineWord) : Prop := ∀ n, ¬cmdBreaks c n
def FormatsStand (c : LineWord) : Prop := CommandStands c ∧ ¬cmdRefusesA c ∧ ¬cmdRefusesB c ∧ ¬cmdRefusesC c
def RunsStand (c : LineWord) : Prop := FormatsStand c ∧ ∀ a n, cmdRuns c a n → a + n ≤ 0x400000
def CommandAccepted (c : LineWord) : Prop := RunsStand c ∧ ∀ b p m, cmdAligned c b p m → b % m = 0 ∧ p % m = 0

/-- An operation of a slot from before its trap stands behind a pending record of the frame, so that it comes after the handler
(R223, R348). -/
def BehindRecord (sl : Slot) (id : Nat) : Prop := (∃ p ∈ sl.saved, p.2.id = id) ∧
  ∃ p ∈ sl.saved, p.2.id < id ∧ p.2.performed = false ∧ trigIsMemory p.2.trig = true ∧ trigIsCommons p.2.trig = false

/-- An access of a command's slot that is older than the command and homed in its own field is still to be performed, a message
to the field among them (R170, R261). What stands behind a pending record of a trap comes after the handler (R348). -/
def CommandWaits (s : State) (v : VRef) (e : MxCmd) : Prop :=
  let sl := s.slot ⟨v, Fin.ofNat 8 e.slot⟩
  (∃ b ∈ sl.sb, b.id < e.fid) ∨
  (∃ f ∈ sl.ops, f.id < e.fid ∧ f.performed = false ∧ trigIsMemory f.trig = true ∧ trigIsCommons f.trig = false) ∨
  (∃ u ∈ (s.ctx v.ctx).bankOps, u.rank = v.rank ∧ u.slot = e.slot % 8 ∧ u.fid < e.fid ∧
    fieldOfSite (bankSite ((s.ctx v.ctx).bankOf u.ea)) = fieldOfSite (s.vt v).site ∧ ¬BehindRecord sl u.fid) ∨
  Undelivered s ⟨v, Fin.ofNat 8 e.slot⟩ e.fid true

/-- The sequencer is busy (R172): a command has begun, or an MXFENCE waits at the head of a queue that is not held. -/
def MatrixBusy (s : State) (v : VRef) : Prop :=
  (s.vt v).mx.run.started = true ∨
  ∃ e, (s.vt v).mx.queue.head? = some e ∧ cmdField e.c 3 0 = 6 ∧ (s.vt v).mx.held = false ∧ ¬CommandWaits s v e

/-- The head command has left the queue (R170). -/
def Retires (s t : State) (v : VRef) (e : MxCmd) : Prop :=
  (t.vt v).mx.queue = (s.vt v).mx.queue.tail ∧ (t.vt v).mx.rseq = e.seq ∧ (t.vt v).mx.run = .start

/-! ### Words about the rows of triggers -/

/-- The row of an AGU trigger. -/
def aguInstr (op : AguOp) (m : BitVec 3) : Instr :=
  match op with
  | .add => .aguAdd m | .idx => .aguIdx m | .idx2 => .aguIdx2 m | .chk => .aguChk m | .wrap => .aguWrap m
  | .hmk => .aguHmk m | .hadv => .aguHadv m | .hrel => .aguHrel m

/-- The row of an LSU trigger. -/
def lsuInstr (op : LsuOp) (m : BitVec 3) : Instr :=
  match op with
  | .ld => .lsuLd m | .st => .lsuSt m | .ldWf => .lsuLdWf m | .ldTake => .lsuLdTake m | .stFill => .lsuStFill m
  | .feRd => .lsuFeRd m | .feClr => .lsuFeClr m | .aAdd => .lsuAAdd m | .aAnd => .lsuAAnd m | .aOr => .lsuAOr m
  | .aXor => .lsuAXor m | .aMin => .lsuAMin m | .aMax => .lsuAMax m | .aCas => .lsuACas m | .aSwap => .lsuASwap m
  | .fence => .lsuFence m | .rel => .lsuRel m | .acq => .lsuAcq m | .cLd => .lsuCLd m | .cSt => .lsuCSt m
  | .cAddO => .lsuCAddO m | .cAddU => .lsuCAddU m | .cMinO => .lsuCMinO m | .cMinU => .lsuCMinU m
  | .cMaxO => .lsuCMaxO m | .cMaxU => .lsuCMaxU m | .cCasO => .lsuCCasO m | .cCasU => .lsuCCasU m
  | .cSwapO => .lsuCSwapO m | .cSwapU => .lsuCSwapU m | .cDecq => .lsuCDecq m

/-- The row of a trigger with a modifier; the trigger's value is the command of MXQ.cmd. -/
def rowOfTrig (t : Trig) (m : BitVec 3) (val : VWord) : Instr :=
  match t with
  | .alu n op => aluInstr n op m
  | .mul op => mulInstr op m
  | .agu op => aguInstr op m
  | .lsu op => lsuInstr op m
  | .fpu op rm => fpuInstr op m rm
  | .vec op rm => vecInstr op m rm
  | .rng .seed => .rngSeed m | .rng .draw => .rngDraw m | .rng .unif => .rngUnif m | .rng .norm => .rngNorm m
  | .mxq .cmd => .mxqCmd (val.setWidth 512) | .mxq .poll => .mxqPoll m
  | .cpe .send => .cpeSend m | .cpe .read => .cpeRead m | .cpe .store => .cpeStore m | .cpe .muster => .cpeMuster m
  | .cpe .scatter => .cpeScatter m | .cpe .rsend => .cpeRsend m | .cpe .seal => .cpeSeal m | .cpe .cwait => .cpeCwait m
  | .msg .send => .msgSend m | .msg .sendv => .msgSendv m | .msg .sendr => .msgSendr m | .msg .svc => .msgSvc m
  | .pat .pcfg => .patPcfg m | .pat .prd => .patPrd m | .pat .pset => .patPset m | .pat .pget => .patPget m
  | .pat .hset => .patHset m | .pat .hget => .patHget m | .pat .pen => .patPen m | .pat .pdis => .patPdis m
  | .sys .fsr => .sysFsr m | .sys .cfgrd => .sysCfgrd m | .sys .cfgwr => .sysCfgwr m

/-- The row of the trigger that an enabled move fires, where its destination is one. -/
def rowOf (m : Moved) : Option Instr :=
  match m.mv.dst with
  | .trig t => some (rowOfTrig t m.mv.mod m.val)
  | _ => none

/-! ### Words about copies -/

/-- The row of a copy trigger. -/
def copyInstr (op : CpeOp) : Option Instr :=
  match op with
  | .send => some (.cpeSend 0) | .read => some (.cpeRead 0) | .store => some (.cpeStore 0) | .muster => some (.cpeMuster 0)
  | .scatter => some (.cpeScatter 0) | .rsend => some (.cpeRsend 0)
  | _ => none

/-- A bit of the descriptor that R211 names for a trigger. -/
def DescNames (op : CpeOp) (k : Nat) : Prop :=
  (128 ≤ k ∧ k ≤ 149) ∨ (160 ≤ k ∧ k ≤ 182) ∨ (192 ≤ k ∧ k ≤ 213) ∨ k = 223 ∨
  (match op with
   | .send => k ≤ 21 ∨ (24 ≤ k ∧ k ≤ 47) ∨ (64 ≤ k ∧ k ≤ 87)
   | .rsend => k ≤ 2 ∨ (24 ≤ k ∧ k ≤ 47) ∨ (64 ≤ k ∧ k ≤ 87)
   | .read => k ≤ 63 ∨ (240 ≤ k ∧ k ≤ 244) ∨ k = 247
   | .store => k ≤ 63
   | .muster => k ≤ 127 ∨ (224 ≤ k ∧ k ≤ 239) ∨ (240 ≤ k ∧ k ≤ 244) ∨ k = 247
   | .scatter => k ≤ 63 ∨ (64 ≤ k ∧ k ≤ 85) ∨ (224 ≤ k ∧ k ≤ 239)
   | _ => False)

/-- R212, step 2: what a descriptor may break. -/
def DescBreaks (op : CpeOp) (ranks d : Nat) : Prop :=
  let len := d / 2 ^ 160 % 2 ^ 23
  (∃ k, d.testBit k = true ∧ ¬DescNames op k) ∨ len = 0 ∨ 0x400000 < len ∨
  (op ∈ [CpeOp.muster, .scatter] ∧ d / 2 ^ 224 % 2 ^ 16 = 0) ∨ (d.testBit 223 = true ∧ d / 2 ^ 192 % 2 ^ 4 ≠ 0) ∨
  (op ∈ [CpeOp.send, .rsend] ∧ ranks ≤ d / 2 ^ 24 % 2 ^ 24) ∨ (op = .send ∧ 0x400000 < d % 2 ^ 22 + len)

/-- Ranks of the grid of the current context (R20). -/
def gridOf (s : State) : Nat := (s.ctx s.cur.vt.ctx).desc.vx * (s.ctx s.cur.vt.ctx).desc.vy

/-- A descriptor at a that passes every check of R212: in bounds and aligned, well-formed, its ranges in the scratchpad and, where the copy
writes them, off the port store. -/
def DescOk (op : CpeOp) (s : State) (a d : Nat) : Prop :=
  let n := (d / 2 ^ 160 % 2 ^ 23) * (if op ∈ [CpeOp.muster, .scatter] then d / 2 ^ 224 % 2 ^ 16 else 1)
  let at_ := d / 2 ^ 128 % 2 ^ 22
  a + 32 ≤ 0x400000 ∧ a % 32 = 0 ∧ ¬DescBreaks op (gridOf s) d ∧ at_ + n ≤ 0x400000 ∧
  (op = .scatter → d / 2 ^ 64 % 2 ^ 22 + 4 * (d / 2 ^ 224 % 2 ^ 16) ≤ 0x400000) ∧
  (d.testBit 223 = true → op ∉ [CpeOp.send, .rsend] → d / 2 ^ 192 % 2 ^ 22 + 16 ≤ 0x400000) ∧
  (op ∈ [CpeOp.read, .muster] → OffPorts (myVt s) at_ n) ∧
  (op = .send → d / 2 ^ 24 % 2 ^ 24 = s.cur.vt.rank → OffPorts (myVt s) (d % 2 ^ 22) (d / 2 ^ 160 % 2 ^ 23))

/-- Everything that a slot did before is performed: no store is buffered, no access waits, none is at a bank, no message is on
its way. -/
def DoneBefore (s : State) (r : SRef) : Prop :=
  (s.slot r).sb = [] ∧ (∀ f ∈ (s.slot r).ops, trigIsMemory f.trig = true → f.performed = true) ∧ BanksDone s r.vt ∧ NothingSent s r

/-- A vtile's one copy, which has not finished. -/
def CopyAlone (s : State) (v : VRef) (c : Copy) : Prop :=
  s.hasVt v = true ∧ (s.vt v).copies = [c] ∧ c.finished = false ∧ c.cseq < 2 ^ 32

/-! ### Words about messages, ports and items -/

/-- A word in DEST layout (R203) names a rank of the grid, and its reserved bits are zero. -/
def DestOk (s : State) (d : Nat) : Prop :=
  d / 2 ^ 29 % 2 ^ 3 = 0 ∧ d / 2 ^ 56 = 0 ∧ d % 2 ^ 24 < (s.ctx s.cur.vt.ctx).desc.vx * (s.ctx s.cur.vt.ctx).desc.vy

/-- Bytes of the payload of sendv and sendr (R204). -/
def payloadBytes (c : Nat) : Nat := if c % 2 ^ 8 = 0 then 128 else c % 2 ^ 8

/-- A message with the vtile's next sequence number joins its outbound queue, and the trigger gives that number (R202, R204). -/
def Queues (i : Instr) (s : State) (tr : Trig) (m : BitVec 3) (x : Msg → Prop) : Prop :=
  ∃ t g, exec i s = .next t ∧ OnlyFlight t tr m (some (givesQ (BitVec.ofNat 64 (myVt s).mseq))) ∧
    (myVt t).outq = (myVt s).outq ++ [g] ∧ (myVt t).mseq = ((myVt s).mseq + 1) % 2 ^ 32 ∧ g.srank = s.cur.vt.rank ∧
    g.sinc = (myVt s).inc ∧ g.sseq = (myVt s).mseq ∧ x g ∧ SameBytes s t ∧ SameFe s t

/-- A message is bound for the place that a word in DEST layout names. -/
def GoesTo (g : Msg) (d : Nat) : Prop :=
  g.drank = d % 2 ^ 24 ∧ g.dport = d / 2 ^ 24 % 2 ^ 5 ∧ g.dinc = d / 2 ^ 32 % 2 ^ 24

/-- The one message that a step sends in a context. -/
def Sends (s t : State) (ctx : Nat) (x : Msg → Prop) : Prop :=
  ∃ m, (t.ctx ctx).msgs = (s.ctx ctx).msgs ++ [m] ∧ x m

/-- A port descriptor as it reads (R33). -/
def portWord (p : Port) : Word :=
  BitVec.ofNat 64 (p.cap + (if p.ovf then 2 ^ 8 else 0) + (if p.ord then 2 ^ 9 else 0) + (if p.en then 2 ^ 10 else 0) +
    p.win * 2 ^ 11 + (p.visible.length + p.windowed.length + p.claimed) * 2 ^ 32 + min p.parked 0xFFFF * 2 ^ 48)

/-- A descriptor that R209 accepts for a port. -/
def PortTakes (t : Vtile) (p : Port) (d : Nat) : Prop :=
  let cap := d % 2 ^ 8
  let win := d / 2 ^ 11 % 2 ^ 8
  let occ := p.visible.length + p.windowed.length + p.claimed
  (d.testBit 10 = true → cap + 1 ≤ min 256 (t.psSize / 32 / 144)) ∧ occ ≤ cap + 1 ∧ (d.testBit 9 = true → win ≠ 0) ∧ win ≤ cap + 1 ∧
  (occ ≠ 0 → d.testBit 9 = p.ord ∧ win = p.win)

/-- The fields of a port that a descriptor writes. -/
def PortHas (p : Port) (d : Nat) : Prop :=
  p.cap = d % 2 ^ 8 ∧ p.ovf = d.testBit 8 ∧ p.ord = d.testBit 9 ∧ p.en = d.testBit 10 ∧ p.win = d / 2 ^ 11 % 2 ^ 8

/-- A pattern entry that R34 and R35 accept: reserved bits zero, and no two used pairs with one port. -/
def PatternTakes (a : Nat) : Prop :=
  a / 2 ^ 46 = 0 ∧ ∀ i < 4, ∀ j < i, a / 2 ^ (9 * i + 5) % 2 ^ 4 ≠ 0 → a / 2 ^ (9 * j + 5) % 2 ^ 4 ≠ 0 →
    a / 2 ^ (9 * i) % 2 ^ 5 ≠ a / 2 ^ (9 * j) % 2 ^ 5

/-- The patterns and ports that are enabled, patterns in the low half (R208). -/
def enabledWord (t : Vtile) (w : Word) : Prop :=
  ∀ i : Fin 32, w.getLsbD i.val = (t.pats.get i).getLsbD 40 ∧ w.getLsbD (32 + i.val) = (t.ports.get i).en

/-- CSEL's fields (R351). -/
def cselOf (s : State) : Nat := (me s).csel.toNat

/-- An item takes a value by its layout alone (R351, R352). -/
def ItemTakes (item val : Nat) : Prop :=
  match item with
  | 0 => val < 2 ^ 3
  | 1 => val < 2 ^ 2
  | 2 => val % 0x8000 = 0 ∧ val + 0x8000 ≤ 0x400000
  | 3 => val < 2 ^ 34
  | 4 => val < 2 ^ 6
  | _ => False

/-- The event that a write of an item is (R193, R352, R353). -/
def itemEvent (v : VRef) (item : Nat) (val : Word) : Option Instr :=
  let owner := if val.getLsbD 33 then SegOwner.bload (val.setWidth 32) else .copy (val.setWidth 32)
  match item with
  | 0 => if val.getLsbD 1 then some (.mxctlDiscard v) else if val.getLsbD 0 then some (.mxctlRelease v) else none
  | 1 => if val.getLsbD 1 then some (.holdAbort v) else if val.getLsbD 0 then some (.holdRelease v) else none
  | 2 => some (.tfbaseWrite v val)
  | 3 => some (if val.getLsbD 32 then .segrstAbandon v owner else .segrstRestart v owner)
  | _ => some (.hgres v (Fin.ofNat 64 val.toNat))

/-- The event, or nothing, happens next. -/
def ThenDoes (i : Instr) (s s' : State) (e : Option Instr) : Prop :=
  exec i s = match e with
    | some j => exec j s'
    | none => .next s'

/-! ### Words about traps, halts and the shepherd -/

/-- Which of two held traps comes first (R341): MEM_UE, then matrix traps, then COMMONS_PEN; within a kind the earlier. -/
def heldKey (h : HeldTrap) : Nat := if h.req.code = 0x10 then 0 else if h.req.code = 0x14 ∨ h.req.code = 0x15 then 1 else 2
def HeldBefore (a b : HeldTrap) : Prop := heldKey a < heldKey b ∨ heldKey a = heldKey b ∧ a.order < b.order

/-- A vtile with nothing to do (R235). -/
def AtWork (t : Vtile) : Prop :=
  ¬((∀ k : Fin 8, (t.slots.get k).status = .free ∧ (t.slots.get k).sb = []) ∧ t.fq = [] ∧ (∀ c ∈ t.copies, c.finished = true) ∧
    t.mx.queue = [] ∧ t.outq = [])

/-- A tile site that a flock may take: live, with no vtile in either bank, and not held for another flock (R316, R321). -/
def TileFree (s : State) (n : Nat) : Prop :=
  n < 5376 ∧ setHas s.ident.deadTiles n = false ∧ (s.tile n).bank0 = none ∧ (s.tile n).bank1 = none ∧ Tbl.find? s.regs.held n = none

/-- A launch queue that the shepherd takes from (R313). -/
def QueueTakes (s : State) (ctx : Nat) (q : Fin 16) : Prop :=
  let x := s.queue ctx q.val
  (s.ctx ctx).regs.st = .live ∧ (s.ctx ctx).regs.suspending = false ∧ x.en = true ∧ x.swout = false ∧ x.tail ≠ x.head ∧
  s.recovery.cutting = false

/-- A launch record that breaks R229: a reserved byte is not zero, NFLOCK is 0 or above 16, or FLOCKS is not aligned to 64. (That the last
makes a record invalid is log 52: the model's choice.) -/
def RecordBreaks (r : Nat) : Prop :=
  r / 2 ^ 24 % 2 ^ 40 ≠ 0 ∨ r / 2 ^ 320 % 2 ^ 192 ≠ 0 ∨ r / 2 ^ 16 % 2 ^ 5 = 0 ∨ 16 < r / 2 ^ 16 % 2 ^ 5 ∨ r / 2 ^ 192 % 2 ^ 6 ≠ 0

/-- A flock descriptor that breaks R230 in the grid of a context, the alignment of TEMPLATE apart. -/
def DescriptorBreaks (c : CtxDesc) (d : Nat) : Prop :=
  let x0 := d / 2 ^ 32 % 2 ^ 32
  let y0 := d / 2 ^ 64 % 2 ^ 32
  let w := d / 2 ^ 96 % 2 ^ 32
  let h := d / 2 ^ 128 % 2 ^ 32
  d / 2 ^ 14 % 2 ^ 2 ≠ 0 ∨ d / 2 ^ 17 % 2 ^ 7 ≠ 0 ∨ d / 2 ^ 29 % 2 ^ 2 ≠ 0 ∨ d / 2 ^ 160 % 2 ^ 32 ≠ 0 ∨ d / 2 ^ 256 % 2 ^ 256 ≠ 0 ∨
  c.vx < x0 + w ∨ c.vy < y0 + h ∨ w * h = 0 ∨ 4096 < w * h

/-- The members that a flock descriptor names (R230). -/
def MemberOf (c : CtxDesc) (d k : Nat) : Prop :=
  ∃ x < d / 2 ^ 96 % 2 ^ 32, ∃ y < d / 2 ^ 128 % 2 ^ 32, k = (d / 2 ^ 64 % 2 ^ 32 + y) * c.vx + d / 2 ^ 32 % 2 ^ 32 + x

/-- A plan has the fields of a flock descriptor (R230). -/
def Describes (p : LaunchPlan) (d : Nat) : Prop :=
  p.fidx = d % 2 ^ 14 ∧ p.retire = d.testBit 16 ∧ p.sport = d / 2 ^ 24 % 2 ^ 5 ∧ p.sen = d.testBit 31 ∧ p.x0 = d / 2 ^ 32 % 2 ^ 32 ∧
  p.y0 = d / 2 ^ 64 % 2 ^ 32 ∧ p.w = d / 2 ^ 96 % 2 ^ 32 ∧ p.h = d / 2 ^ 128 % 2 ^ 32

/-- Entries of a template's tables of ports, patterns and handlers (R231). -/
def portOfT (w i : Nat) : Nat := w / 2 ^ (512 + 64 * i) % 2 ^ 64
def patternOfT (w i : Nat) : Nat := w / 2 ^ (2560 + 128 * i) % 2 ^ 128
def handlerOfT (w i : Nat) : Nat := w / 2 ^ (6656 + 64 * i) % 2 ^ 64

/-- A vtile template that breaks R231, R35, R36 or R209. -/
def TemplateBreaks (w : Nat) : Prop :=
  let base := w % 2 ^ 32
  let size := w / 2 ^ 32 % 2 ^ 32
  let len := w / 2 ^ 128 % 2 ^ 32
  let off := w / 2 ^ 160 % 2 ^ 32
  w / 2 ^ 192 % 2 ^ 320 ≠ 0 ∨ base % 8 ≠ 0 ∨ 0x400000 < base + size ∨ 0x400000 < len ∨ 0x400000 < off + len ∨
  (len ≠ 0 ∧ size ≠ 0 ∧ off < base + size ∧ base < off + len) ∨
  (∃ i < 32, 2 ^ 19 ≤ portOfT w i ∨ ¬PortTakes { Vtile.fresh with psBase := base, psSize := size } Port.blank (portOfT w i)) ∨
  (∃ i < 32, ¬PatternTakes (patternOfT w i)) ∨
  ∃ i < 32, 5 ≤ handlerOfT w i % 2 ^ 3 ∨ handlerOfT w i / 2 ^ 3 % 2 ^ 3 ≠ 0 ∨ handlerOfT w i / 2 ^ 56 ≠ 0

/-- The fields of a template (R231). -/
def TemplateHas (tp : Template) (w : Nat) : Prop :=
  tp.psBase = w % 2 ^ 32 ∧ tp.psSize = w / 2 ^ 32 % 2 ^ 32 ∧ tp.imgAddr = w / 2 ^ 64 % 2 ^ 64 ∧ tp.imgLen = w / 2 ^ 128 % 2 ^ 32 ∧
  tp.imgOff = w / 2 ^ 160 % 2 ^ 32 ∧
  ∀ i < 32, tp.ports.getD i 0 = portOfT w i ∧ tp.pats.getD i 0 = patternOfT w i ∧ tp.hnds.getD i 0 = handlerOfT w i

/-! ### Words about rotation -/

/-- Scratchpad bytes and full-empty bits of one vtile are the same in both states, wherever its units lie. -/
def SameScratchpad (s t : State) (v : VRef) : Prop := ∀ a < 0x400000, t.spGet v a = s.spGet v a ∧ t.feGet v a = s.feGet v a

/-- The canonical forms that moves of units rest on. -/
def UnitsCanonical (s : State) (v : VRef) : Prop :=
  (s.vt v).sp.wf = true ∧ (s.vt v).mx.bstore.wf = true ∧ s.rim.mem.wf = true ∧ FeSorted (s.vt v) ∧ (s.vt v).spOut.Pairwise (· < ·) ∧
  (s.vt v).mx.bsOut.Pairwise (· < ·) ∧ s.rim.poison = []

/-! ### Words about contexts and the croft -/

/-- A context command is refused, or fails, with a reason (R308, R310): ERR and REASON, and nothing else. -/
def CommandFails (i : Instr) (s : State) (ctx reason : Nat) : Prop :=
  exec i s = .next (s.modCtx ctx (fun c => { c with regs := { c.regs with err := true, reason := reason } }))

/-- The number of n bytes at a system physical address. -/
def phys (s : State) (a n : Nat) : Nat := s.physRead a n

/-- The module register at an offset from RSB. -/
def regAddr (off : Nat) : Nat := 0x20000000000000 + off

/-! ### Words about recovery, boot and errors -/

/-- The latest multiple of RPINT since FABEN was set (R410). -/
def pointTime (s : State) : Nat :=
  let p := s.fabric.rpint.toNat * 1250000
  s.fabric.since + (s.ambient.time - s.fabric.since) / p * p

/-- An image verifies (R405): its header is whole, the digest and the signature hold, its version is at least the fused minimum, and bytes
194 to 255 are zero. -/
def Verifies (d : Ident) (img : List Byte) : Prop :=
  256 ≤ img.length ∧ (img.drop 16).take 64 = shake256 ((img.drop 256).take (fld img 8 8)) 64 ∧
  ed448Holds d.publicKey (img.take 80) ((img.drop 80).take 114) = true ∧ d.minSvn ≤ fld img 4 4 ∧
  ∀ b ∈ (img.drop 194).take 62, b = 0

/-- One new entry of the error log, for an event that merges with no other (R404). -/
def Logs (s t : State) (struct_ what ctx place addr : Nat) : Prop :=
  t.croft.elogCnt = (s.croft.elogCnt + 1) % 2 ^ 64 ∧ 2 ∈ t.croft.irqs ∧
  Tbl.find? t.croft.elog (s.croft.elogCnt % 4096) = some ⟨s.regs.cycle, struct_, what, ctx, place, addr, 0, s.ambient.time⟩

/-! ### Words about loading -/

/-- Bits hi to lo of a word take the low bits of x, and the others stay. -/
def FieldHolds (w' w hi lo x : Nat) : Prop := ∀ i, w'.testBit i = if lo ≤ i ∧ i ≤ hi then x.testBit (i - lo) else w.testBit i

/-- Move n of an instruction takes a short immediate: source 0x800 plus the low eleven bits, and guard bit 3 the twelfth (R87, R389). -/
def ShortHolds (w' w n : Nat) (v : Int) : Prop :=
  let lo := 62 - 31 * n
  let x := (v % 2 ^ 12).toNat
  ∀ i, w'.testBit i = if i = lo + 30 then x.testBit 11 else if i = lo + 26 then true
    else if lo + 15 ≤ i ∧ i < lo + 26 then x.testBit (i - lo - 15) else w.testBit i

/-- LINE and ISLOT of a handler entry take a target, VALID and SUP what `top` says, and the others stay (R36, R389). -/
def HandlerHolds (e' e : Nat) (v : Int) (top : Option Bool) : Prop :=
  ∀ i, e'.testBit i = if i < 3 then (v.toNat % 5).testBit i else if 6 ≤ i ∧ i ≤ 53 then (v.toNat / 5).testBit (i - 6)
    else if i = 54 ∧ top ≠ none then true else if i = 55 ∧ top ≠ none then top = some true else e.testBit i

/-- Moves of a 96-bit word (R82). -/
def movesOf (w : Nat) : Nat :=
  if w / 2 ^ 93 % 8 = 0 then 3 else if w / 2 ^ 93 % 8 = 1 then 2 else if w / 2 ^ 93 % 8 = 2 ∨ w / 2 ^ 93 % 8 = 3 then 1 else 0

/-- A value whose upper twenty and lower twelve bits an MH instruction and a short immediate can hold (R389). -/
def HiFits (v : Int) : Prop := -(2 ^ 31 : Int) - 2048 ≤ v ∧ v ≤ 2 ^ 31 - 2049

/-- The lower twelve bits of a value, signed (R103). -/
def LowOf (v x : Int) : Prop := -2048 ≤ x ∧ x ≤ 2047 ∧ (v - x) % 4096 = 0

/-- Two relocation records write one field: the same offset and field, the three codes of an 8-byte item being one (R106, R390). -/
def SamePlace (r q : Rel) : Prop :=
  r.offset = q.offset ∧ (r.field = q.field ∨ (r.field = 4 ∨ r.field = 6 ∨ r.field = 7) ∧ (q.field = 4 ∨ q.field = 6 ∨ q.field = 7))

/-- A LO12 record's HI20 record: of its kind, symbol and addend (R390). -/
def PairOf (r h : Rel) : Prop := h.kind + 1 = r.kind ∧ h.sym = r.sym ∧ h.addend = r.addend

/-- Two runs of bytes share one. -/
def Meets (r q : Nat × Nat) : Prop := r.2 ≠ 0 ∧ q.2 ≠ 0 ∧ r.1 < q.1 + q.2 ∧ q.1 < r.1 + r.2

/-- The metadata records of a section (R105). -/
def recordsOf (x : Sec) : List MetaRec := x.records.getD []

/-- The record that fills entry i of a table of a VTILE record: the last one of its type, owner and entry (R105, R392). -/
def Fills (rs : List MetaRec) (v : MetaRec) (type i : Nat) (r : MetaRec) : Prop :=
  ∃ pre post, rs = pre ++ r :: post ∧ r.type = type ∧ r.owner = v.idx ∧ r.f 0 4 = i ∧
    ∀ q ∈ post, ¬(q.type = type ∧ q.owner = v.idx ∧ q.f 0 4 = i)

/-- No record names the entry. -/
def Unnamed (rs : List MetaRec) (v : MetaRec) (type i : Nat) : Prop := ∀ q ∈ rs, ¬(q.type = type ∧ q.owner = v.idx ∧ q.f 0 4 = i)

/-- A template has an enabled pattern that takes from a port with ORD = 0 (R391). -/
def TakesUnordered (t : Template) : Prop :=
  ∃ i < 32, (t.pats.getD i 0).testBit 40 = true ∧ ∃ j < 4, t.pats.getD i 0 / 2 ^ (9 * j + 5) % 2 ^ 4 ≠ 0 ∧
    (t.ports.getD (t.pats.getD i 0 / 2 ^ (9 * j) % 2 ^ 5) 0).testBit 9 = false

/-- A class number that is none of those above it allows: each of the marked forms, triggers and templates bounds it from below, 0 being the
highest class and 2 the lowest (R71, R391). -/
def ClassBound (g : Staged) (ops k : Nat) : Prop :=
  (∀ x ∈ g.secs, x.kind = 1 → textClass x.data ≤ k) ∧ (ops.testBit 1 = true ∨ ops.testBit 2 = true → 1 ≤ k) ∧
  (ops.testBit 3 = true ∨ ops.testBit 4 = true → 2 ≤ k) ∧ ((∃ v ∈ g.vtiles, TakesUnordered v.2.2) → 2 ≤ k)

/-- A class that an image or one of its PROMISE records claims; 3 claims none (R391). -/
def Claimed (g : Staged) (cls k : Nat) : Prop := k ≠ 3 ∧ (k = cls ∨ ∃ m ∈ g.metas, ∃ r ∈ m.2, r.type = 8 ∧ k = r.f 0 4)

/-! ### Words about the invariant -/

/-- The sparse parts of a vtile in their one form: sorted, without zeros. -/
def VtileCanonical (t : Vtile) : Prop :=
  t.sp.wf = true ∧ t.mx.bstore.wf = true ∧ Tbl.sorted t.mx.acc = true ∧ (∀ c ∈ t.mx.acc, c.2 ≠ 0) ∧ FeSorted t ∧ t.spOut.Pairwise (· < ·) ∧
  t.mx.bsOut.Pairwise (· < ·) ∧ Tbl.sorted t.marks = true

/-- Those of a context. -/
def CtxCanonical (c : Ctx) : Prop := c.commons.wf = true ∧ ∀ p ∈ c.vts, VtileCanonical p.2

/-- Every memory and every sparse table that the machine holds, those of recovery points among them, is in its one form. -/
def Canonical (s : State) : Prop :=
  s.rim.mem.wf = true ∧ (∀ p ∈ s.ctxs, CtxCanonical p.2) ∧ s.croft.faulted.Pairwise (· < ·) ∧
  ∀ p, s.recovery.committed = some p ∨ s.recovery.pending = some p →
    p.rim.mem.wf = true ∧ (∀ c ∈ p.ctxs, CtxCanonical c.2) ∧ p.croft.faulted.Pairwise (· < ·)

end Sys2Proof.Claims

open Sys2Proof Sys2Proof.Machine Sys2Proof.Claims

/-! ## Fetch, decode and issue (chapter 03) -/

/-- R93, R94. When the slot that issues has its fetch line in hand and its bytes decode to an instruction i, the step at
that state is `exec` of i there, the slot being the current one and its place in a pair noted (R78, R96); the images of
absent vtiles, the clock and the model's counter then follow. -/
def Obligations.StepRunsTheDecodedInstruction : Prop :=
  ∀ (s s1 s2 : State) (r : SRef) (l : LineWord) (i : Instr),
    s.pickCand = some (.issue r) →
    s1 = s.issued r (s.userEligible (s.vt r.vt).site) →
    ¬((s1.slot r).status = .ready ∧ (s1.vt r.vt).isHeld = true) →
    (s1.slot r).ix < 5 * 2 ^ 48 →
    s1.fetchLine (s1.vt r.vt).site r.vt.ctx ((s1.slot r).ix / 5) = (s2, .line l) →
    ((s1.slot r).entry = .fallthrough ∨ lineBtm l ((s1.slot r).ix % 5) = true) →
    bits (lineWord l) 30 16 = 0 → pairingBad l ((s1.slot r).ix % 5) = false → (s1.slot r).repOnFirst l = false →
    decodeIn (s1.slot r).sup s2.ident.steppingB1 (lineInsn l ((s1.slot r).ix % 5)) = .ok i →
    step s = advanced s (exec i { s2.notePair r l with cur := r })

/-- R93. A word that does not decode makes the slot take the trap of the check that failed, at its own IX, and nothing of
it is executed; while the entry has to wait, the slot stalls there (R284). -/
def Obligations.UndecodableWordTakesItsTrap : Prop :=
  ∀ (s s2 : State) (r : SRef) (l : LineWord) (e : Reject),
    ¬((s.slot r).status = .ready ∧ (s.vt r.vt).isHeld = true) →
    (s.slot r).ix < 5 * 2 ^ 48 →
    s.fetchLine (s.vt r.vt).site r.vt.ctx ((s.slot r).ix / 5) = (s2, .line l) →
    ((s.slot r).entry = .fallthrough ∨ lineBtm l ((s.slot r).ix % 5) = true) →
    bits (lineWord l) 30 16 = 0 → pairingBad l ((s.slot r).ix % 5) = false → (s.slot r).repOnFirst l = false →
    decodeIn (s.slot r).sup s2.ident.steppingB1 (lineInsn l ((s.slot r).ix % 5)) = .error e →
    let p := s2.notePair r l
    ∃ code mv,
      (EntersAtOnce p r → s.beginIssue r =
        (p.takeTrap r { code := code, tval := 0, tinst := word (s.slot r).ix, move := mv, pair2 := (s.slot r).isPair2 l }
          (s.slot r).ix false none, none)) ∧
      (¬EntersAtOnce p r → s.beginIssue r = (p, none)) ∧
      (e = .illegalInsn → code = 0x01) ∧ (e = .privilegeInsn → code = 0x03) ∧
      (∀ k, e = .illegalMove k → code = 0x02 ∧ mv = k) ∧ (∀ k, e = .privilegeMove k → code = 0x03 ∧ mv = k)

/-- R81 to R92. No bit of an encoding is dropped: the word of every well-formed instruction decodes to it, with every
operand at every value that the encoding admits. -/
def Obligations.DecodeOfEncodeIsTheInstruction : Prop :=
  ∀ (i : Instr) (w : BitVec 96), i.wf = true → encode i = some w → decode w = .ok i

/-- R81 to R98. Where a word decodes, the instruction it decodes to is well-formed and the word is that instruction's own:
no two words stand for one instruction. -/
def Obligations.EveryDecodedWordIsTheEncodersWord : Prop :=
  ∀ (i : Instr) (w : BitVec 96), decode w = .ok i → i.wf = true ∧ encode i = some w

/-- R81. Format codes 5 to 7 are reserved: such a word decodes in no slot. -/
def Sys2Proof.Claims.ReservedFormatsDoNotDecode : Prop :=
  ∀ (sup b1 : Bool) (w : BitVec 96), 5 ≤ (w.extractLsb' 93 3).toNat → decodeIn sup b1 w = .error .illegalInsn

/-- R85. A user slot decodes no word of the SY format, and a word that a supervisor slot decodes there gives PRIVILEGE. -/
def Sys2Proof.Claims.UserSlotsDecodeNoSystemInstruction : Prop :=
  ∀ (b1 : Bool) (w : BitVec 96), (w.extractLsb' 93 3).toNat = 4 →
    ((∃ i, decodeIn true b1 w = .ok i) ∧ decodeIn false b1 w = .error .privilegeInsn) ∨
    (decodeIn true b1 w = .error .illegalInsn ∧ decodeIn false b1 w = .error .illegalInsn)

/-- R81, R85. Words of reserved formats decode in no slot, and words of the SY format in no user slot. -/
def Obligations.ReservedAndPrivilegedWordsDoNotDecode : Prop :=
  ReservedFormatsDoNotDecode ∧ UserSlotsDecodeNoSystemInstruction

/-- R81 to R98: words written out from the encoding tables decode to the instructions they stand for. -/
def Obligations.WordsOfTheEncodingTablesDecode : Prop :=
  let null : Move := ⟨⟨false, 0⟩, .x 0, .x 0, 0⟩
  decodeTableWord 96 0 = some (.m3 null null null) ∧
  -- MW: format 2, a null move, IMM56 = -1, XD = 5
  decodeTableWord 96 (0b010#3 ++ 0#31 ++ 0xFFFFFFFFFFFFFF#56 ++ 5#5 ++ 0#1).toNat = some (.mw null 0xFFFFFFFFFFFFFF#56 5) ∧
  -- CT end: format 3, a null move, OFF32 = 0, CTOP = 6, CG = p0, CREG = 0, CIMM = 0
  decodeTableWord 96 (0b011#3 ++ 0#31 ++ 0#32 ++ 0b00110#5 ++ 0b0000#4 ++ 0#5 ++ 0#16).toNat =
    some (.endF null ⟨false, 0⟩) ∧
  -- SY tret: format 4, SYOP = 7
  decodeTableWord 96 (0b100#3 ++ 0x07#8 ++ 0#5 ++ 0#16 ++ 0#64).toNat = some .tret ∧
  -- M3 of `x1 -> ALU0.b`, `#5 -> ALU0.add` and a null move: guard p0, source, destination 0x101 or 0x200, modifier 0
  decodeTableWord 96 (0b000#3 ++ (0#4 ++ 0x001#12 ++ 0x101#12 ++ 0#3) ++ (0#4 ++ 0x805#12 ++ 0x200#12 ++ 0#3) ++ 0#31).toNat =
    some (.m3 ⟨⟨false, 0⟩, .x 1, .latch .alu0 1, 0⟩ ⟨⟨false, 0⟩, .imm 5, .trig (.alu false .add), 0⟩ null)

/-! ## Moves (R82 to R96) -/

/-- R94. M3, MH and MW complete whenever none of their moves waits or traps: the slot goes on at the next instruction, after
the writes, the immediate write and the triggers of the moves. -/
def Sys2Proof.Claims.MovesComplete : Prop :=
  (∀ (a b c : Move) (s t : State) (l : List Moved),
    MovesDone s [(0, a), (1, b), (2, c)] (fun sl => sl) l t →
    exec (.m3 a b c) s = .next (t.modSlot s.cur Slot.advance)) ∧
  (∀ (a b : Move) (imm : BitVec 20) (xd : Fin 32) (ig : Guard) (s t : State) (l : List Moved),
    MovesDone s [(0, a), (1, b)]
      (fun sl => if sl.guard ig then sl.xSet xd (((imm ++ 0#12 : BitVec 32)).signExtend 64) else sl) l t →
    exec (.mh a b imm xd ig) s = .next (t.modSlot s.cur Slot.advance)) ∧
  (∀ (a : Move) (imm : BitVec 56) (xd : Fin 32) (s t : State) (l : List Moved),
    MovesDone s [(0, a)] (fun sl => sl.xSet xd (imm.signExtend 64)) l t →
    exec (.mw a imm xd) s = .next (t.modSlot s.cur Slot.advance))

/-- R94. A trigger that an instruction's moves fire acts as its row does, for the latches as they stand when it fires: where
one move alone has a trigger, the state after the moves is the one that the row gives from what the moves have written; of
several, each gives from what the earlier ones leave what its row gives there, unless it would have to wait or would fail its
check behind them. -/
def Sys2Proof.Claims.TriggersActAsTheirRows : Prop :=
  ∀ (mvs : List (Nat × Move)) (imm : Slot → Slot) (s t : State) (l : List Moved), ImmediateWrite imm → MovesDone s mvs imm l t →
    let p := s.preview s.cur l imm
    (l.filterMap rowOf = [] → t = p) ∧
    (∀ i, l.filterMap rowOf = [i] → exec i p = .next t) ∧
    (∀ l1 x l2 i tr, l = l1 ++ x :: l2 → x.mv.dst = .trig tr → rowOf x = some i →
      let u := p.fireMoves s.cur (me s).fser l1
      u.cur = s.cur → (u.slot s.cur).fser = (me s).fser → u.trigStalls s.cur tr x.mv.mod = false →
      (x.meaning tr).stall u s.cur = false → (x.meaning tr).check u s.cur = none →
      exec i u = .next (p.fireMoves s.cur (me s).fser (l1 ++ [x])))

/-- R13, R20, R39, R40, R75, R87, R90. What each source gives: the registers, x0 as 0 and p0 as 1; a handle and its three views, which
trap with RING_HANDLE where it is not valid or its ring has no size; a short immediate by its sign; the special registers, of
which `%sticky` and `%satcount` wait for what may still raise them; the trap registers. A trap of a source is the instruction's. -/
def Sys2Proof.Claims.SourcesGiveTheirValues : Prop :=
  (∀ (s : State),
    let val (src : Src) (w : Word) : Prop := s.readSrc s.cur src = .val (w.setWidth 1024)
    let v := s.cur.vt
    let d := (s.ctx v.ctx).desc
    let t := myVt s
    (∀ i : Fin 32, val (.x i) (if i = 0 then 0 else (me s).x.get i)) ∧
    (∀ i : Fin 16, s.readSrc s.cur (.v i) = .val ((me s).v.get i)) ∧
    (∀ i : Fin 8, val (.p i) (if i = 0 ∨ (me s).p.getLsbD i.val = true then 1 else 0)) ∧
    (∀ i : Fin 8, val (.h i) ((me s).h.get i)) ∧
    (∀ i : Fin 8,
      let h := ((me s).h.get i).toNat
      let g := t.rings.get (Fin.ofNat 8 (h % 8))
      let cur := h / 2 ^ 4 % 2 ^ 32
      let ok := h / 2 ^ 3 % 2 = 1 ∧ g.logsz ≠ 0
      (ok → val (.hAddr i) (BitVec.ofNat 64 (g.base + cur % 2 ^ g.logsz)) ∧
        val (.hAvail i) (BitVec.ofInt 64 (((g.fill : Int) - cur) % 2 ^ 32)) ∧ val (.hCur i) (BitVec.ofNat 64 cur)) ∧
      (¬ok → ∀ src ∈ [Src.hAddr i, .hAvail i, .hCur i], s.readSrc s.cur src = .trap 0x0C ((me s).h.get i))) ∧
    (∀ i : BitVec 12, val (.imm i) (i.signExtend 64)) ∧
    (FlagsPending s s.cur → s.readSrc s.cur (.spec .sticky) = .stall ∧ s.readSrc s.cur (.spec .satcount) = .stall) ∧
    (¬FlagsPending s s.cur → val (.spec .sticky) (t.sticky.setWidth 64) ∧ val (.spec .satcount) (BitVec.ofNat 64 t.satcount)) ∧
    val (.spec .rank) (BitVec.ofNat 64 (v.rank % 2 ^ 24 + t.inc * 2 ^ 32)) ∧
    val (.spec .slot) (BitVec.ofNat 64 (s.cur.slot.val + (if (me s).sup then 2 ^ 3 else 0) + (if t.bank then 2 ^ 4 else 0))) ∧
    val (.spec .firing) (me s).firing ∧
    val (.spec .batch) (BitVec.ofNat 64 (t.bopen % 2 ^ 16 + (t.sealed.head?.getD t.bopen) % 2 ^ 16 * 2 ^ 16 + t.sealed.length * 2 ^ 32 +
      (if ∃ c ∈ t.copies, c.batch = t.bopen then 2 ^ 38 else 0))) ∧
    val (.spec .cycle) (BitVec.ofNat 64 s.regs.cycle) ∧
    val (.spec .ctx) (BitVec.ofNat 64 (v.ctx % 2 ^ 8 + (if d.flags % 2 = 1 then 2 ^ 8 else 0))) ∧
    val (.spec .vgrid) (BitVec.ofNat 64 (d.vx + d.vy * 2 ^ 24)) ∧
    val (.trap .tcause) (me s).tcause ∧ val (.trap .tval) (me s).tval ∧ val (.trap .tinst) (me s).tinst ∧ val (.trap .tframe) (me s).tframe) ∧
  (∀ (a b c : Move) (s : State) (code : Nat) (tval : Word), (me s).sup = true ∨ privilegedMove [(0, a), (1, b), (2, c)] = none →
    (me s).guard a.g = true → s.readSrc s.cur a.src = .trap code tval → TrapsWith (.m3 a b c) s code tval 0)

/-- R13, R14, R39, R88, R91. What a write does to its destination, and that it does nothing else: an x register takes the low 64 bits, or
8, 16 or 32 of them extended by sign or by zeros; a v register the value, or its low 32 or 16 bits in every lane; a predicate
whether the value is not 0; a handle its fields, bits 63 to 36 being reserved; a latch of VEC or RNG all of it, one of another unit 64
bits. Writes of x0 and p0 are discarded, and a trigger's value goes to `.a` of its unit. -/
def Sys2Proof.Claims.DestinationsTakeTheirValues : Prop :=
  ∀ (sl : Slot) (m : BitVec 3) (w : VWord),
    let extended : Word := match m.toNat with
      | 1 => (w.setWidth 8).signExtend 64
      | 2 => (w.setWidth 16).signExtend 64
      | 3 => (w.setWidth 32).signExtend 64
      | 4 => (w.setWidth 8).setWidth 64
      | 5 => (w.setWidth 16).setWidth 64
      | 6 => (w.setWidth 32).setWidth 64
      | _ => w.setWidth 64
    let operand (l : Latches 1024) (k : Nat) : VWord := if k = 0 then l.a else if k = 1 then l.b else l.c
    let latched (t : Slot) (u : FUnit) (l : Nat) : Prop :=
      operand (t.lat.get u) l = latchValue u w ∧ (∀ k < 3, k ≠ l → operand (t.lat.get u) k = operand (sl.lat.get u) k) ∧
      (t.lat.get u).q = (sl.lat.get u).q ∧ (t.lat.get u).q2 = (sl.lat.get u).q2 ∧ (∀ o, o ≠ u → t.lat.get o = sl.lat.get o) ∧
      t = { sl with lat := t.lat }
    (∀ i : Fin 32, let t := sl.write (.x i) m w
      t = { sl with x := t.x } ∧ (i ≠ 0 → t.x.get i = extended) ∧ ∀ k, k ≠ i ∨ k = 0 → t.x.get k = sl.x.get k) ∧
    (∀ i : Fin 16, let t := sl.write (.v i) m w
      t = { sl with v := t.v } ∧ (∀ k, k ≠ i → t.v.get k = sl.v.get k) ∧
      ∀ n < 1024, (t.v.get i).getLsbD n = w.getLsbD (if m = 1 then n % 32 else if m = 2 then n % 16 else n)) ∧
    (∀ i : Fin 8, let t := sl.write (.p i) m w
      t = { sl with p := t.p } ∧ (i ≠ 0 → t.p.getLsbD i.val = decide (w ≠ 0)) ∧ ∀ k < 8, k ≠ i.val ∨ k = 0 → t.p.getLsbD k = sl.p.getLsbD k) ∧
    (∀ i : Fin 8, let t := sl.write (.h i) m w
      t = { sl with h := t.h } ∧ t.h.get i = BitVec.ofNat 64 (w.toNat % 2 ^ 36) ∧ ∀ k, k ≠ i → t.h.get k = sl.h.get k) ∧
    (∀ (u : FUnit) (l : Fin 3), latched (sl.write (.latch u l) m w) u l.val) ∧
    (∀ t, trigUnit t ≠ .mxq → latched (sl.write (.trig t) m w) (trigUnit t) 0)

/-- R13, R14, R20, R39, R40, R75, R87, R88, R90, R91, R94. M3, MH and MW complete, each source gives its value, each destination takes
it, and the triggers of the moves, as those of the CT format, act as the rows of the triggers. -/
def Obligations.MoveInstructionsComplete : Prop :=
  MovesComplete ∧ TriggersActAsTheirRows ∧ SourcesGiveTheirValues ∧ DestinationsTakeTheirValues

/-- R94. Three enabled moves to destinations that are no triggers: every source is read before any write, the writes take
place in move order, a later one overwriting an earlier, nothing but the slot changes, and the slot goes on. -/
def Obligations.ThreePlainMovesReadThenWriteInOrder : Prop :=
  ∀ (a b c : Move) (s : State) (va vb vc : VWord),
    Plain a → Plain b → Plain c →
    ((me s).sup = true ∨ privilegedMove [(0, a), (1, b), (2, c)] = none) →
    (me s).guard a.g = true → (me s).guard b.g = true → (me s).guard c.g = true →
    s.readSrc s.cur a.src = .val va → s.readSrc s.cur b.src = .val vb → s.readSrc s.cur c.src = .val vc →
    exec (.m3 a b c) s = .next (s.modSlot s.cur (fun sl =>
      (((sl.write a.dst a.mod va).write b.dst b.mod vb).write c.dst c.mod vc).advance))

/-- R13, R83. MW writes the sign-extended 56-bit immediate to its register, and a write of x0 is discarded: x0 reads 0
afterwards as before, the other registers keep their values, and the slot goes on. The move is the null move. -/
def Obligations.MwWritesItsImmediateAndX0StaysZero : Prop :=
  ∀ (imm : BitVec 56) (xd : Fin 32) (s : State), Present s →
    ∃ t, exec (.mw ⟨⟨false, 0⟩, .x 0, .x 0, 0⟩ imm xd) s = .next t ∧
      (xd ≠ 0 → (me t).xGet xd = imm.signExtend 64) ∧ (me t).xGet 0 = 0 ∧
      (∀ k, k ≠ xd → (me t).xGet k = (me s).xGet k) ∧
      OnlySlot s t s.cur

/-- R27, R94. The frame of the instructions of moves: with destinations that are no triggers, M3 changes no register of the
slot but the destinations, no latch of a unit that no move writes, and nothing outside the slot: no byte of any memory, no
full-empty bit, no flag. -/
def Obligations.PlainMovesFrame : Prop :=
  ∀ (a b c : Move) (s t : State) (l : List Moved),
    Plain a → Plain b → Plain c →
    MovesDone s [(0, a), (1, b), (2, c)] (fun sl => sl) l t →
    ∃ u, exec (.m3 a b c) s = .next u ∧ OnlySlot s u s.cur ∧
      (∀ k : Fin 32, (∀ m ∈ [a, b, c], m.dst ≠ .x k) → (me u).xGet k = (me s).xGet k) ∧
      (∀ k : Fin 16, (∀ m ∈ [a, b, c], m.dst ≠ .v k) → (me u).v.get k = (me s).v.get k) ∧
      (∀ k : Fin 8, (∀ m ∈ [a, b, c], m.dst ≠ .p k) → (me u).pGet k = (me s).pGet k) ∧
      (∀ k : Fin 8, (∀ m ∈ [a, b, c], m.dst ≠ .h k) → (me u).h.get k = (me s).h.get k) ∧
      (∀ g, (∀ m ∈ [a, b, c], ∀ k, m.dst ≠ .latch g k) → (me u).lat.get g = (me s).lat.get g) ∧
      (me u).ops = (me s).ops ∧ (me u).sb = (me s).sb ∧ (me u).firing = (me s).firing ∧
      (me u).tcause = (me s).tcause ∧ (me u).tval = (me s).tval ∧ (me u).tinst = (me s).tinst ∧
      (∀ v x, u.spGet v x = s.spGet v x) ∧ (∀ v x, u.feGet v x = s.feGet v x) ∧ u.rim = s.rim ∧
      (∀ v, (u.vt v).sticky = (s.vt v).sticky ∧ (u.vt v).satcount = (s.vt v).satcount)

/-! ## Control operations (R127 to R134) -/

/-- R84, R127. Transfers: under a true control guard the slot goes on at the target, after its move; br and call go to the
own IX plus the offset, ret, jmp and calli to the IX in a register read before the move's write; call and calli write the
next IX to the link register. Under a false control guard only the move takes effect. -/
def Obligations.TransfersGoToTheirTargets : Prop :=
  ∀ (m : Move) (cg : Guard) (off : Word32) (r link : Fin 32) (s t : State) (l : List Moved),
    MovesDone s [(3, m)] (fun sl => sl) l t →
    ((me s).guard cg = true →
      exec (.br m cg off) s = .next (t.modSlot s.cur (fun sl => goesTo sl (targetOf (me s).ix off))) ∧
      exec (.call m cg off link) s = .next (t.modSlot s.cur (fun sl =>
        goesTo (sl.xSet link (word ((me s).ix + 1))) (targetOf (me s).ix off))) ∧
      exec (.ret m cg r) s = .next (t.modSlot s.cur (fun sl => goesTo sl ((me s).xGet r).toNat)) ∧
      exec (.jmp m cg r) s = .next (t.modSlot s.cur (fun sl => goesTo sl ((me s).xGet r).toNat)) ∧
      exec (.calli m cg r link) s = .next (t.modSlot s.cur (fun sl =>
        goesTo (sl.xSet link (word ((me s).ix + 1))) ((me s).xGet r).toNat))) ∧
    ((me s).guard cg = false →
      ∀ i ∈ [Instr.br m cg off, .call m cg off link, .ret m cg r, .jmp m cg r, .calli m cg r link],
        exec i s = .next (t.modSlot s.cur Slot.advance))

/-- R128, R129. `rep` under a true guard with a count above 0 opens a block from the next instruction to the last one named,
which runs count times; with count 0 it skips the block, unless an enclosing block loops at the `rep` itself (R129); a fifth block, or
one that would outlast the block around it, traps with REP_DEPTH and leaves no effect. -/
def Sys2Proof.Claims.RepOpensSkipsOrTraps : Prop :=
  ∀ (m : Move) (cg : Guard) (off : Word32) (r : Fin 32) (count : BitVec 16) (s t : State) (l : List Moved),
    MovesDone s [(3, m)] (fun sl => sl) l t → (me s).guard cg = true →
    let n := repeatCount (me s) r count
    let last := targetOf (me s).ix off
    let deep := (me s).rep.length = 4 ∨ ∃ top, (me s).rep.getLast? = some top ∧ top.last < last
    (n ≠ 0 → ¬deep → exec (.rep m cg off r count) s = .next (t.modSlot s.cur (fun sl =>
      ({ sl with rep := sl.rep ++ [{ first := (me s).ix + 1, last := last, remaining := n }] } : Slot).advance))) ∧
    (n = 0 → exec (.rep m cg off r count) s = .next (t.modSlot s.cur (fun sl =>
      if sl.advance.alone then sl.advance else { sl.advance with ix := last + 1 }))) ∧
    (n ≠ 0 → deep → TrapsWith (.rep m cg off r count) s 0x0E (word (me s).rep.length) 7)

/-- R129. Completing an instruction: past the last instruction of the innermost block, the block is left when it has run as
often as asked, and otherwise runs again from its first; every other instruction goes on to the next IX. -/
def Sys2Proof.Claims.CompletionFollowsTheRepeatStack : Prop :=
  ∀ (sl : Slot) (st : List RepEntry) (top : RepEntry), sl.rep = st ++ [top] →
    (top.last ≠ sl.ix → sl.advance.ix = sl.ix + 1 ∧ sl.advance.rep = sl.rep) ∧
    (top.last = sl.ix → 1 < top.remaining →
      sl.advance.ix = top.first ∧ sl.advance.rep = st ++ [{ top with remaining := top.remaining - 1 }]) ∧
    (top.last = sl.ix → top.remaining ≤ 1 → st = [] → sl.advance.ix = sl.ix + 1 ∧ sl.advance.rep = []) ∧
    (top.last = sl.ix → top.remaining ≤ 1 → st.length ≤ 3 →
      sl.advance.ix = ({ sl with rep := st } : Slot).advance.ix ∧ sl.advance.rep = ({ sl with rep := st } : Slot).advance.rep)

/-- R128, R129. Repeat blocks: what `rep` does, and how completing an instruction follows the repeat stack. -/
def Obligations.RepeatBlocksOpenLoopAndClose : Prop := RepOpensSkipsOrTraps ∧ CompletionFollowsTheRepeatStack

/-- R130. `end` ends the firing after its move. -/
def Sys2Proof.Claims.EndCompletes : Prop :=
  ∀ (m : Move) (cg : Guard) (s t : State) (l : List Moved), MovesDone s [(3, m)] (fun sl => sl) l t → (me s).guard cg = true →
    exec (.endF m cg) s = .next (t.endFiring s.cur)

/-- R72, R130. The end of a firing: the slot is FREE, its registers, latches, handles, repeat stack and operations are gone; its
stores stay buffered, and behind them the atomics, fe.clr and seals that it had accepted; the flags and counts of its short
operations with a known result join the vtile's; other slots, other vtiles, scratchpad, rim memory and commons stay. -/
def Sys2Proof.Claims.EndingAFiringFreesItsSlot : Prop :=
  ∀ (s : State) (r : SRef), s.hasVt r.vt = true →
    let u := s.endFiring r
    let sl := s.slot r
    let counted := sl.ops.filterMap (fun f => if discarded f.trig then none else f.res)
    let outlives (f : Flight) (op : LsuOp) : Prop := f ∈ sl.ops ∧ f.performed = false ∧ f.trig = .lsu op
    ((u.slot r).status = .free ∧ (u.slot r).ops = [] ∧ (u.slot r).saved = [] ∧ (u.slot r).rep = [] ∧ (u.slot r).lat = .zero ∧
      (∀ k, (u.slot r).xGet k = 0) ∧ (∀ k, (u.slot r).v.get k = 0) ∧ (∀ k, (u.slot r).pGet k = (k == 0)) ∧
      (∀ k, (u.slot r).h.get k = 0)) ∧
    ((∀ e ∈ sl.sb, e ∈ (u.slot r).sb) ∧ (u.slot r).sb.Pairwise (fun a b => a.id ≤ b.id) ∧
      (∀ f op i, outlives f op → atomicInstr op f.mod = some i → ∃ e ∈ (u.slot r).sb, e.id = f.id ∧
        e.kind = .rmw op f.mod (f.c.setWidth 64) f.ix sl.fser ∧ e.addr = f.a.toNat % 2 ^ 64 ∧ e.n = wOf f.mod / 8 ∧ e.data = f.b) ∧
      (∀ f, outlives f .feClr → ∃ e ∈ (u.slot r).sb, e.id = f.id ∧ e.kind = .feClr ∧ e.addr = f.a.toNat % 2 ^ 64) ∧
      (∀ f ∈ sl.ops, f.performed = false → f.trig = .cpe .seal → ∃ e ∈ (u.slot r).sb, e.id = f.id ∧ e.kind = .seal)) ∧
    (u.vt r.vt).sticky = counted.foldl (fun w x => w ||| x.ev.flags) (s.vt r.vt).sticky ∧
    (u.vt r.vt).satcount = min ((s.vt r.vt).satcount + (counted.map (fun x => x.ev.sat)).sum) (2 ^ 48 - 1) ∧
    (∀ q, q ≠ r → u.slot q = s.slot q) ∧ (∀ v, v ≠ r.vt → u.vt v = s.vt v) ∧ SameBytes s u ∧ SameFe s u

/-- R72, R130. `end`, and what the end of a firing leaves. -/
def Obligations.EndFreesTheSlot : Prop := EndCompletes ∧ EndingAFiringFreesItsSlot

/-- R131. `park` goes on when its condition holds after its move and parks the slot on it, at its own IX, when it does not; it
waits while a unit that holds the bytes it reads is out of the tile (R284), and one that reads the scratchpad also while an
access or a fence of the slot is to come before its read (R261, R266), as which it parks where its own move is one. Its read
corrects an error of the word (R140). An address outside the scratchpad or a misaligned
arrival word traps. -/
def Obligations.ParkGoesOnOrParks : Prop :=
  ∀ (m : Move) (cg : Guard) (kind : Fin 4) (x : Fin 32) (s t : State) (l : List Moved),
    MovesDone s [(3, m)] (fun sl => sl) l t → (me s).guard cg = true →
    let i := Instr.park m cg kind x
    let w := ((me s).xGet x).toNat
    let away := match kind.val with
      | 0 => UnitAway s w 1
      | 1 => UnitAway s (w % 2 ^ 22) 16
      | _ => False
    let comesAfter (u : State) : Prop := kind.val < 2 ∧
      (u.keptBefore s.cur (u.slot s.cur).nextId = true ∨ u.heldBack s.cur false = true)
    let p := s.preview s.cur l (fun sl => sl)
    (away ∨ comesAfter p → exec i s = .next s) ∧
    (¬away → ¬comesAfter p →
      (ParkAccepted kind w → ParkHolds t s.cur.vt kind w → ¬comesAfter t →
        exec i s = .next ((t.parkRead s.cur (parkedFor kind w)).modSlot s.cur Slot.advance) ∧
        ((t.vt s.cur.vt).marks = [] → exec i s = .next (t.modSlot s.cur Slot.advance))) ∧
      (ParkAccepted kind w → ¬ParkHolds t s.cur.vt kind w ∨ comesAfter t →
        exec i s = .next (t.modSlot s.cur (fun sl => ParkedOn sl (parkedFor kind w)))) ∧
      (kind = 0 → 0x400000 ≤ w → TrapsWith i s 0x09 ((me s).xGet x) 7) ∧
      (kind = 1 → 0x400000 < w % 2 ^ 22 + 16 → TrapsWith i s 0x09 (word (w % 2 ^ 22)) 7) ∧
      (kind = 1 → w % 2 ^ 22 + 16 ≤ 0x400000 → w % 16 ≠ 0 → TrapsWith i s 0x0A (word (w % 2 ^ 22)) 7))

/-- R132, R133. `hwait` goes on when its hurdle is not pending after its move and parks otherwise. `harr` waits while an earlier
access of the slot is not performed, a message that it sent among them, or its own move's operation waits for a word that is not full (log 93); else it performs
what its move has triggered, tells the flock and goes on. -/
def Sys2Proof.Claims.HurdleInstructionsComplete : Prop :=
  ∀ (m : Move) (cg : Guard) (h : Fin 16) (s t : State) (l : List Moved),
    MovesDone s [(3, m)] (fun sl => sl) l t → (me s).guard cg = true →
    let v := s.cur.vt
    let before := (me s).sb ≠ [] ∨ (∃ f ∈ (me s).ops, f.performed = false ∧ trigIsMemory f.trig = true) ∨
      (∃ u ∈ (s.ctx v.ctx).bankOps, u.rank = v.rank ∧ u.slot = s.cur.slot.val ∧ u.fid < (me s).nextId ∧
        ¬BehindRecord (me s) u.fid) ∨
      Undelivered s s.cur (me s).nextId false
    let waits := before ∨ AwaitsFull (s.preview s.cur l (fun sl => sl)) s.cur m
    ((t.vt v).pend.getLsbD h = false → exec (.hwait m cg h) s = .next (t.modSlot s.cur Slot.advance)) ∧
    ((t.vt v).pend.getLsbD h = true → exec (.hwait m cg h) s = .next (t.modSlot s.cur (fun sl => ParkedOn sl (.hurdle h.val)))) ∧
    (waits → exec (.harr m cg h) s = .next s) ∧
    (¬waits → exec (.harr m cg h) s = .next (((t.drainAll s.cur).harr v h).modSlot s.cur Slot.advance))

/-- R132, R235. An arrival at a hurdle at which the vtile is pending changes nothing. At one at which it is not: below the flock's
size it is counted and the vtile becomes pending; the last one clears the count and every member's pending bit, toggles the
phase, and at hurdle 15 of a running launch arms the finish. -/
def Obligations.HurdleArrivalsCountAndCompleteThePhase : Prop :=
  (∀ (s : State) (v : VRef) (h : Fin 16), (s.vt v).pend.getLsbD h = true → s.harr v h = s) ∧
  ∀ (s : State) (v : VRef) (h : Fin 16), s.hasVt v = true → (s.vt v).pend.getLsbD h = false →
    (Tbl.find? (s.ctx v.ctx).flocks (s.vt v).flock).isSome = true →
    let i := (s.vt v).flock
    let f := s.flock v.ctx i
    let t := s.harr v h
    (f.counts.get h + 1 ≠ f.w * f.h →
      (t.flock v.ctx i).counts.get h = f.counts.get h + 1 ∧ (t.flock v.ctx i).phase = f.phase ∧
      (t.vt v).pend = (s.vt v).pend ||| (1#16 <<< h.val) ∧ (t.vt v).sp = (s.vt v).sp) ∧
    (f.counts.get h + 1 = f.w * f.h →
      (t.flock v.ctx i).counts.get h = 0 ∧ (∀ u ∈ s.members v.ctx i, (t.vt u).pend.getLsbD h = false) ∧
      (t.flock v.ctx i).phase = f.phase ^^^ (1#16 <<< h.val) ∧
      (t.flock v.ctx i).finArm = (f.finArm || (h.val == 15 && f.run)))

/-- R86, R134. `trap` takes the USER trap after its move, with CIMM in `%tval`, to resume at the next IX; it stalls while the
entry has to wait (R284), for a store of its own move too. Under a false control guard `trap`, `end`, `park`, `harr`, `hwait` and `rep` do their move alone, whatever their operands. -/
def Sys2Proof.Claims.TrapInstructionTakesTheUserTrap : Prop :=
  ∀ (m : Move) (cg : Guard) (code : BitVec 16) (s t : State) (l : List Moved),
    MovesDone s [(3, m)] (fun sl => sl) l t →
    let p := s.preview s.cur l (fun sl => sl)
    let waits := ¬EntersAtOnce p s.cur ∨
      (∃ tr, m.dst = .trig tr ∧ trigIsStore tr = true) ∧ Undelivered p s.cur (p.slot s.cur).nextId true
    ((me s).guard cg = true →
      (¬waits → exec (.trap m cg code) s = .next (t.takeTrap s.cur
        { code := 0x0F, tval := code.setWidth 64, tinst := word (me s).ix, move := 7, pair2 := (me s).pair2 }
        ((me s).ix + 1) false none)) ∧
      (waits → exec (.trap m cg code) s = .next s)) ∧
    ((me s).guard cg = false → ∀ (kind : Fin 4) (x : Fin 32) (h : Fin 16) (off : Word32) (count : BitVec 16),
      ∀ i ∈ [Instr.trap m cg code, .endF m cg, .park m cg kind x, .harr m cg h, .hwait m cg h, .rep m cg off x count],
        exec i s = .next (t.modSlot s.cur Slot.advance))

/-- R86, R132 to R134. `hwait`, `harr` and `trap`, and every control operation under a false guard; how long `harr` waits for its
own move is the model's choice (log 93). -/
def Obligations.HurdleAndTrapInstructionsComplete : Prop := HurdleInstructionsComplete ∧ TrapInstructionTakesTheUserTrap

/-! ## System instructions (R135 to R141) -/

/-- R12, R85. In a user slot every SY instruction takes PRIVILEGE and leaves no effect. -/
def Obligations.UserSlotsTakePrivilege : Prop :=
  ∀ (xa : Fin 32) (ring : Fin 8) (g : TrapReg) (grp : Fin 64) (kind : Fin 6) (s : State), (me s).sup = false →
    ∀ i ∈ [Instr.stclr xa, .satwr xa, .rset xa ring, .mtsr g xa, .halt grp, .hgrp xa, .einj xa kind, .tret],
      TrapsWith i s 0x03 0 7

/-- R75, R135, R136. `stclr` clears the sticky flags that its register names, `satwr` writes the count of saturations; each waits
while an operation that may still raise flags has not landed, and takes ILLEGAL_MOVE for a reserved bit. Nothing else changes,
and the slot goes on. -/
def Sys2Proof.Claims.FlagRegistersAreWrittenBySupervisors : Prop :=
  (∀ (xa : Fin 32) (s : State), (me s).sup = true → FlagsPending s s.cur →
    exec (.stclr xa) s = .next s ∧ exec (.satwr xa) s = .next s) ∧
  ∀ (xa : Fin 32) (s : State), (me s).sup = true → ¬FlagsPending s s.cur →
    let x := (me s).xGet xa
    (x.toNat < 2 ^ 8 → RunsSy (.stclr xa) s (fun s => s.modVt s.cur.vt (fun t =>
      { t with sticky := t.sticky &&& ~~~(x.setWidth 8) }))) ∧
    (2 ^ 8 ≤ x.toNat → TrapsWith (.stclr xa) s 0x02 x 7) ∧
    (x.toNat < 2 ^ 48 → RunsSy (.satwr xa) s (fun s => s.modVt s.cur.vt (fun t => { t with satcount := x.toNat }))) ∧
    (2 ^ 48 ≤ x.toNat → TrapsWith (.satwr xa) s 0x02 x 7)

/-- R137. `rset` gives a ring a base and a size with nothing filled, drained or reserved; a size of 0 removes it; a size out
of 64 bytes to 4 MiB, or a base that is no multiple of it (and so a ring past the scratchpad), takes RING_HANDLE; a reserved bit takes
ILLEGAL_MOVE. -/
def Sys2Proof.Claims.RsetSetsARing : Prop :=
  ∀ (xa : Fin 32) (ring : Fin 8) (s : State), (me s).sup = true →
    let x := (me s).xGet xa
    let base := x.toNat % 2 ^ 22
    let logsz := x.toNat / 2 ^ 22 % 2 ^ 5
    (x.toNat < 2 ^ 27 → (logsz = 0 ∨ (6 ≤ logsz ∧ logsz ≤ 22 ∧ base % 2 ^ logsz = 0)) →
      RunsSy (.rset xa ring) s (fun s => s.modVt s.cur.vt (fun t =>
        { t with rings := t.rings.set ring.val ⟨base, logsz, 0, 0, 0, []⟩ ring.isLt }))) ∧
    (x.toNat < 2 ^ 27 → logsz ≠ 0 → (logsz < 6 ∨ 22 < logsz ∨ base % 2 ^ logsz ≠ 0) → TrapsWith (.rset xa ring) s 0x0C x 7) ∧
    (2 ^ 27 ≤ x.toNat → TrapsWith (.rset xa ring) s 0x02 x 7)

/-- R138, R342. `mtsr` writes a trap register; `%tframe` ignores it; a reserved bit of `%tcause` takes ILLEGAL_MOVE. -/
def Sys2Proof.Claims.MtsrWritesTrapRegisters : Prop :=
  ∀ (xa : Fin 32) (s : State), (me s).sup = true →
    let x := (me s).xGet xa
    RunsSy (.mtsr .tval xa) s (fun s => s.modSlot s.cur (fun sl => { sl with tval := x })) ∧
    RunsSy (.mtsr .tinst xa) s (fun s => s.modSlot s.cur (fun sl => { sl with tinst := x })) ∧
    RunsSy (.mtsr .tframe xa) s (fun s => s) ∧
    (x.toNat < 2 ^ 14 → RunsSy (.mtsr .tcause xa) s (fun s => s.modSlot s.cur (fun sl => { sl with tcause := x }))) ∧
    (2 ^ 14 ≤ x.toNat → TrapsWith (.mtsr .tcause xa) s 0x02 x 7)

/-- R135 to R138. `stclr`, `satwr`, `rset` and `mtsr` write what they name, or trap. -/
def Obligations.SystemInstructionsWriteTheirRegisters : Prop :=
  FlagRegistersAreWrittenBySupervisors ∧ RsetSetsARing ∧ MtsrWritesTrapRegisters

/-- R139, R402. `halt` stops a group that the context owns, and one of another owner not at all; `hgrp` joins the groups
named that the context owns, and leaves the others. Nothing else changes, and the slot goes on. -/
def Sys2Proof.Claims.HaltAndHgrpActOnOwnedGroups : Prop :=
  ∀ (grp : Fin 64) (xa : Fin 32) (s : State), (me s).sup = true →
    (OwnsGroup s grp → RunsSy (.halt grp) s (fun s => { s with crook := { s.crook with stopped := s.crook.stopped ||| (1#64 <<< grp.val) } })) ∧
    (¬OwnsGroup s grp → RunsSy (.halt grp) s (fun s => s)) ∧
    ∃ joined : Word, RunsSy (.hgrp xa) s (fun s => s.modVt s.cur.vt (fun t => { t with hgroups := joined })) ∧
      ∀ g : Fin 64, joined.getLsbD g.val = true ↔ ((me s).xGet xa).getLsbD g.val = true ∧ OwnsGroup s g

/-- R140. `einj` plants the error its kind names where error injection is enabled: in a scratchpad word, a commons line, a byte
of the B-store, or, in the copy of a line that the tile's instruction cache holds, the parity of one instruction; where the tile
holds no copy there is nothing to plant it in (log 46, the model's choice). A correctable error leaves an uncorrectable one as it
stands. The stored data stay as they are, nothing else changes, and the slot goes on. It takes PRIVILEGE where injection is not enabled and
SP_BOUNDS for a scratchpad address past the end. -/
def Sys2Proof.Claims.EinjPlantsErrors : Prop :=
  ∀ (xa : Fin 32) (s : State), (me s).sup = true →
    let a := ((me s).xGet xa).toNat
    let on := bit (s.ctx s.cur.vt.ctx).desc.flags 2 = true
    (on → a < 0x400000 →
      RunsSy (.einj xa 0) s (fun s => s.modVt s.cur.vt (fun t => { t with
        marks := if Tbl.find? t.marks (a / 8) = some .poison then t.marks else Tbl.put t.marks (a / 8) .correctable })) ∧
      RunsSy (.einj xa 1) s (fun s => s.modVt s.cur.vt (fun t => { t with marks := Tbl.put t.marks (a / 8) .poison }))) ∧
    (on →
      RunsSy (.einj xa 2) s (fun s => s.inCtx s.cur.vt.ctx (fun c => { c with
        cmarks := if Tbl.find? c.cmarks (a / 64) = some .poison then c.cmarks else Tbl.put c.cmarks (a / 64) .correctable })) ∧
      RunsSy (.einj xa 3) s (fun s => s.inCtx s.cur.vt.ctx (fun c => { c with cmarks := Tbl.put c.cmarks (a / 64) .poison })) ∧
      (Tbl.sorted (myVt s).mx.bpoison = true → ∃ marks,
        RunsSy (.einj xa 4) s (fun s => s.modVt s.cur.vt (fun t => { t with mx := { t.mx with bpoison := marks } })) ∧
        ∀ k, Tbl.find? marks k = if k / 8 = 131072 * (a % 2 ^ 6) + a / 2 ^ 8 % 2 ^ 17 then some true else Tbl.find? (myVt s).mx.bpoison k) ∧
      RunsSy (.einj xa 5) s (fun s => s.modTile (myVt s).site (fun t => { t with icache := t.icache.map (fun c =>
        if c.ctx = s.cur.vt.ctx ∧ c.line = a / 5 then { c with data := c.data ^^^ (1#512 <<< (489 + a % 5)) } else c) }))) ∧
    (on → 0x400000 ≤ a → ∀ k : Fin 6, k.val < 2 → TrapsWith (.einj xa k) s 0x09 ((me s).xGet xa) 7) ∧
    (¬on → ∀ k, TrapsWith (.einj xa k) s 0x03 0 7)

/-- R139, R140, R402. `halt`, `hgrp` and `einj`; kind 5 finds only a line that the own tile holds (log 46, the model's choice). -/
def Obligations.HaltHgrpAndEinjComplete : Prop := HaltAndHgrpActOnOwnedGroups ∧ EinjPlantsErrors

/-! ## Traps (R340 to R349) -/

/-- R342, R343. Trap entry of a slot with nothing under way: the slot is TRAPPED at supervisor level, remembers the level it
came from, and goes on at the handler; `%tcause`, `%tval`, `%tinst` and `%tframe` are written; the repeat stack is empty
(log 19, the model's choice); the general registers keep their values, and every other slot everything. A FORMAT trap also holds
the vtile and sends its message (R63, R354), which no other trap does. -/
def Sys2Proof.Claims.TrapEntryGoesToTheHandler : Prop :=
  ∀ (s : State) (r : SRef) (t : TrapReq) (resume ix : Nat), s.hasVt r.vt = true →
    Quiet (s.slot r) → (s.slot r).status ≠ .trapped → t.code < 2 ^ 8 → t.move < 8 →
    FrameAreaOk (s.vt r.vt) → TrapHandlerAt (s.vt r.vt) ix →
    let u := s.takeTrap r t resume false none
    (t.code = 0x08 → (u.vt r.vt).hold.fmt = true ∧ (u.vt r.vt).isHeld = true ∧
      Sends s u r.vt.ctx (fun m => m.kind = 5 ∧ m.reason = 0x22 ∧ m.srank = r.vt.rank ∧ GoesTo m (s.ctx r.vt.ctx).desc.supdest.toNat ∧
        m.payload = [causeWord t false (s.moreHeld r), t.tval, t.tinst, BitVec.ofNat 64 r.slot.val, 0])) ∧
    (t.code ≠ 0x08 → (u.vt r.vt).hold = (s.vt r.vt).hold ∧ (u.ctx r.vt.ctx).msgs = (s.ctx r.vt.ctx).msgs) ∧
    (u.slot r).status = .trapped ∧ (u.slot r).sup = true ∧ (u.slot r).supBefore = (s.slot r).sup ∧ (u.slot r).ix = ix ∧
    (u.slot r).tcause = causeWord t false (s.moreHeld r) ∧ (u.slot r).tval = t.tval ∧ (u.slot r).tinst = t.tinst ∧
    (u.slot r).tframe = word (frameOf (s.vt r.vt) r.slot) ∧ (u.slot r).rep = [] ∧
    (u.slot r).x = (s.slot r).x ∧ (u.slot r).p = (s.slot r).p ∧ (u.slot r).h = (s.slot r).h ∧ (u.slot r).v = (s.slot r).v ∧
    (∀ q, q ≠ r → u.slot q = s.slot q)

/-- R343, R344. The frame that trap entry writes: the trap registers, RESUME, CSEL, NREC 0, x1 to x15 and h0 to h7 stand at
their offsets; no byte of scratchpad outside the frame's 3,264 changes, and no full-empty bit. -/
def Sys2Proof.Claims.TrapEntryWritesTheFrame : Prop :=
  ∀ (s : State) (r : SRef) (t : TrapReq) (resume ix : Nat), s.hasVt r.vt = true →
    Quiet (s.slot r) → (s.slot r).status ≠ .trapped → t.code < 2 ^ 8 → t.move < 8 →
    FrameAreaOk (s.vt r.vt) → TrapHandlerAt (s.vt r.vt) ix → (s.vt r.vt).spOut = [] → (s.vt r.vt).sp.wf = true →
    (s.slot r).rep.length ≤ 4 → resume < 2 ^ 64 →
    let u := s.takeTrap r t resume false none
    let f := frameOf (s.vt r.vt) r.slot
    u.spRead r.vt f 8 = (causeWord t false (s.moreHeld r)).toNat ∧ u.spRead r.vt (f + 0x008) 8 = t.tval.toNat ∧
    u.spRead r.vt (f + 0x010) 8 = t.tinst.toNat ∧ u.spRead r.vt (f + 0x018) 8 = resume ∧
    u.spRead r.vt (f + 0x020) 8 = (s.slot r).csel.toNat ∧ u.spRead r.vt (f + 0x028) 8 = 0 ∧
    u.spRead r.vt (f + 0x040) 8 = (s.slot r).rep.length ∧
    (∀ k : Fin 32, 1 ≤ k.val → k.val ≤ 15 → u.spRead r.vt (f + 0x0B8 + 8 * k.val) 8 = ((s.slot r).x.get k).toNat) ∧
    (∀ k : Fin 8, u.spRead r.vt (f + 0x140 + 8 * k.val) 8 = ((s.slot r).h.get k).toNat) ∧
    (∀ a, a < f ∨ f + 0xCC0 ≤ a → u.spGet r.vt a = s.spGet r.vt a) ∧ (∀ a, u.feGet r.vt a = s.feGet r.vt a)

/-- R227, R343, R345, R346. Trap entry of a slot whose operations are such as go into records, each into one, in their order: unit, trigger,
modifier, VALID, REISSUE where it is abandoned, PEND where it waits for a word, TSEQ and its operands; the wide operand of an
abandoned operation of VEC goes into the next operand block. NREC counts them, the other records are zero, and the latches
keep what they hold. An update that could not be held at its bank is recorded with REISSUE, to be replayed. -/
def Sys2Proof.Claims.TrapEntryRecordsWhatIsUnderWay : Prop :=
  ∀ (s : State) (r : SRef) (t : TrapReq) (resume ix : Nat), s.hasVt r.vt = true →
    (s.slot r).status ≠ .trapped → FrameAreaOk (s.vt r.vt) → TrapHandlerAt (s.vt r.vt) ix → (s.vt r.vt).spOut = [] →
    (s.vt r.vt).sp.wf = true → (s.slot r).sb = [] → (s.slot r).rep.length ≤ 4 → resume < 2 ^ 64 →
    let f := frameOf (s.vt r.vt) r.slot
    let ops := (s.slot r).ops
    let read (u : State) (k off : Nat) : Nat := u.spRead r.vt (f + 0x6C0 + 32 * k + off) 8
    let operands (u : State) (k : Nat) (o : Flight) : Prop :=
      read u k 8 = (o.a.setWidth 64).toNat ∧ read u k 16 = (o.b.setWidth 64).toNat ∧ read u k 24 = (o.c.setWidth 64).toNat
    (ops.length ≤ 32 → (ops.filter (fun o => trigVecLong o.trig)).length ≤ 4 → (∀ o ∈ ops, Recorded s r.vt o) →
      let u := s.takeTrap r t resume false none
      u.spRead r.vt (f + 0x028) 8 = ops.length ∧
      (∀ k o, ops[k]? = some o →
        let block := ((ops.take k).filter (fun o => trigVecLong o.trig)).length
        (discarded o.trig = true → read u k 0 = recordWord o true false (if trigVecLong o.trig then block else 0)) ∧
        (AwaitsWord s r.vt o → read u k 0 = recordWord o false true 0) ∧
        (discarded o.trig = false → ¬AwaitsWord s r.vt o → read u k 0 = recordWord o false false 0) ∧
        (trigVecLong o.trig = false → operands u k o) ∧
        (trigVecLong o.trig = true → u.spRead r.vt (f + 0xAC0 + 128 * block) 128 = o.a.toNat)) ∧
      (∀ k, ops.length ≤ k → k < 32 → read u k 0 = 0) ∧
      (u.slot r).ops = [] ∧ (u.slot r).lat = (s.slot r).lat) ∧
    (∀ g op, ops = [] → g.trig = .lsu op → trigIsCommons g.trig = true →
      let u := s.takeTrap r t resume true (some g)
      u.spRead r.vt (f + 0x028) 8 = 1 ∧ read u 0 0 = recordWord g true false 0 ∧ operands u 0 g)

/-- R345. A commons operation that runs on while its slot is TRAPPED lands into its record when its bank performs it: its value in A,
and LANDED set in the same step; the slot's latches and the other bytes of the scratchpad stay. -/
def Sys2Proof.Claims.RecordedOperationsLandInTheirRecords : Prop :=
  ∀ (s : State) (ctx id k : Nat) (u : BankOp) (f : Flight),
    let v : VRef := ⟨ctx, u.rank⟩
    let r : SRef := ⟨v, Fin.ofNat 8 u.slot⟩
    let at_ := (s.slot r).tframe.toNat % 2 ^ 22 + 0x6C0 + 32 * k
    (s.ctx ctx).bankOps.find? (fun x => x.id == id) = some u → s.bankReady ctx u = true → s.hasVt v = true → u.op = .cLd →
    (s.slot r).status = .trapped → (s.slot r).fser = u.fser → (s.slot r).ops = [] → (s.slot r).sb = [] →
    (s.slot r).saved = [(k, f)] → f.id = u.fid → f.trig = .lsu .cLd → f.due = false → k < 32 → at_ + 32 ≤ 0x400000 →
    (s.vt v).spOut = [] → (s.vt v).sp.wf = true → LineSound s ctx u.ea →
    Tbl.find? (s.ctx ctx).wtags (u.ea / 8) = none → (s.ctx ctx).holding = [] →
    ∃ t, exec (.commonsBankPerform ctx id) s = .next t ∧ (t.slot r).saved = [] ∧
      t.spRead v at_ 8 = s.spRead v at_ 8 ||| 2 ^ 16 ∧
      t.spRead v (at_ + 8) 8 = (resOf u.mod (opOf u.mod (memRead (s.ctx ctx).commons u.ea (wOf u.mod / 8)))).toNat ∧
      (∀ a, a < at_ ∨ at_ + 24 ≤ a → t.spGet v a = s.spGet v a) ∧ (t.slot r).lat = (s.slot r).lat ∧
      (t.ctx ctx).commons = (s.ctx ctx).commons

/-- R63, R342 to R346, R354. Taking a trap: where control goes, what the trap registers hold, what the frame and its records hold, and
how an operation that runs on lands there. -/
def Obligations.TakingATrapSavesTheSlotAndEntersTheHandler : Prop :=
  TrapEntryGoesToTheHandler ∧ TrapEntryWritesTheFrame ∧ TrapEntryRecordsWhatIsUnderWay ∧ RecordedOperationsLandInTheirRecords

/-- R349. A trap in a TRAPPED slot is a DOUBLE_TRAP (0x21); one without a place for its frame, and one for which entry 31 is not
VALID or not SUP, is TRAP_UNHANDLED (0x20). In each case the firing ends, the slot is FREE, the vtile is held, and one message goes to
the supervisor port, with what the trap would have written and the slot. Nothing of scratchpad changes, but that in the
last case the frame is written. A FORMAT trap sends its own message before (R63). -/
def Obligations.FatalTrapsEndTheFiringAndHoldTheVtile : Prop :=
  ∀ (s : State) (r : SRef) (t : TrapReq) (resume : Nat) (held : Bool), s.hasVt r.vt = true → t.code < 2 ^ 8 → t.move < 8 →
    let u := s.takeTrap r t resume held none
    let cause := causeWord t held (s.moreHeld r)
    let tells (reason : Nat) (tail : List Word) (m : Msg) : Prop := m.kind = 5 ∧ m.reason = reason ∧ m.srank = r.vt.rank ∧
      GoesTo m (s.ctx r.vt.ctx).desc.supdest.toNat ∧ m.payload = [cause, t.tval, t.tinst, BitVec.ofNat 64 r.slot.val] ++ tail
    let fatal (reason : Nat) : Prop :=
      (u.slot r).status = .free ∧ (u.vt r.vt).hold.trap = true ∧ (u.vt r.vt).isHeld = true ∧ (∀ q, q ≠ r → u.slot q = s.slot q) ∧
      (t.code ≠ 0x08 → Sends s u r.vt.ctx (tells reason [])) ∧
      (t.code = 0x08 → ∃ f m, (u.ctx r.vt.ctx).msgs = (s.ctx r.vt.ctx).msgs ++ [f, m] ∧ tells 0x22 [0] f ∧ tells reason [] m)
    ((s.slot r).status = .trapped → held = false → fatal 0x21 ∧ ∀ a, u.spGet r.vt a = s.spGet r.vt a) ∧
    ((s.slot r).status ≠ .trapped → ¬FrameAreaOk (s.vt r.vt) → fatal 0x20 ∧ ∀ a, u.spGet r.vt a = s.spGet r.vt a) ∧
    ((s.slot r).status ≠ .trapped → FrameAreaOk (s.vt r.vt) → (∀ ix, ¬TrapHandlerAt (s.vt r.vt) ix) → Quiet (s.slot r) →
      let f := frameOf (s.vt r.vt) r.slot
      fatal 0x20 ∧ (∀ a, a < f ∨ f + 0xCC0 ≤ a → u.spGet r.vt a = s.spGet r.vt a) ∧
      ((s.vt r.vt).spOut = [] → (s.vt r.vt).sp.wf = true → (s.slot r).rep.length ≤ 4 → resume < 2 ^ 64 →
        u.spRead r.vt f 8 = cause.toNat ∧ u.spRead r.vt (f + 0x008) 8 = t.tval.toNat ∧ u.spRead r.vt (f + 0x018) 8 = resume))

/-- R348. `tret` of a TRAPPED slot with nothing under way reads the slot back from its frame: x1 to x15, p1 to p7, h0 to h7,
CSEL and the repeat stack; x16 to x31 and the vector registers keep what they hold; the slot is READY at RESUME at the
level it came from. Here the frame holds no valid record. -/
def Sys2Proof.Claims.TretRestoresTheSlotFromItsFrame : Prop :=
  ∀ (s : State), Present s → (me s).sup = true → (me s).status = .trapped → Quiet (me s) → AllUnitsIn s →
    let f := (me s).tframe.toNat % 2 ^ 22
    (∀ k, k < 32 → (s.spRead s.cur.vt (f + 0x6C0 + 32 * k) 8).testBit 15 = false) →
    ∃ u, exec .tret s = .next u ∧
      (me u).status = .ready ∧ (me u).sup = (me s).supBefore ∧ (me u).ix = s.spRead s.cur.vt (f + 0x018) 8 ∧
      (me u).alone = true ∧ (me u).ops = [] ∧
      (∃ n, n = min 4 (s.spRead s.cur.vt (f + 0x040) 8) ∧ (me u).rep.length = n ∧
        ∀ (k : Nat) (e : RepEntry), (me u).rep[k]? = some e → e.first = s.spRead s.cur.vt (f + 0x048 + 24 * k) 8 ∧
          e.last = s.spRead s.cur.vt (f + 0x050 + 24 * k) 8 ∧ e.remaining = s.spRead s.cur.vt (f + 0x058 + 24 * k) 8) ∧
      (me u).csel.toNat = s.spRead s.cur.vt (f + 0x020) 8 ∧
      (∀ k : Fin 32, 1 ≤ k.val → k.val ≤ 15 → ((me u).x.get k).toNat = s.spRead s.cur.vt (f + 0x0B8 + 8 * k.val) 8) ∧
      (∀ k : Fin 32, 16 ≤ k.val → (me u).x.get k = (me s).x.get k) ∧
      (∀ k : Fin 8, 1 ≤ k.val → (me u).pGet k = (s.spRead s.cur.vt (f + 0x138) 8).testBit k.val) ∧
      (∀ k : Fin 8, ((me u).h.get k).toNat = s.spRead s.cur.vt (f + 0x140 + 8 * k.val) 8 % 2 ^ 36) ∧
      (me u).v = (me s).v ∧ (∀ a, u.spGet s.cur.vt a = s.spGet s.cur.vt a)

/-- R141, R348. `tret` completes in every TRAPPED slot with nothing under way, whatever its frame holds; in a slot that is
not TRAPPED it takes ILLEGAL_INSN. -/
def Sys2Proof.Claims.TretCompletesOrIsIllegal : Prop :=
  ∀ (s : State), (me s).sup = true →
    ((me s).status = .trapped → Quiet (me s) → AllUnitsIn s → exec .tret s = .next (s.trapReturn s.cur)) ∧
    ((me s).status ≠ .trapped → TrapsWith .tret s 0x01 0 7)

/-- R345, R348. `tret` takes up the record of the frame that is valid: a landed one gives the unit's result latches A and B; one to be
reissued, or that waited for a word, fires again from its operands and keeps its trigger's place; one that is still under way
becomes the slot's operation again. -/
def Sys2Proof.Claims.TretTakesUpTheRecords : Prop :=
  ∀ (s : State) (k : Nat) (t : Trig), Present s → (me s).sup = true → (me s).status = .trapped → Quiet (me s) → AllUnitsIn s →
    let f := (me s).tframe.toNat % 2 ^ 22
    let word (j off : Nat) : Nat := s.spRead s.cur.vt (f + 0x6C0 + 32 * j + off) 8
    let w := word k 0
    let m := BitVec.ofNat 3 (w / 2 ^ 12)
    let a := word k 8
    let b := word k 16
    let u := trigUnit t
    k < 32 → (∀ j < 32, j ≠ k → (word j 0).testBit 15 = false) → w.testBit 15 = true → w % 2 ^ 4 = unitNum u → w / 2 ^ 4 % 2 ^ 8 = trigOffset t →
    trigOfOffset u (trigOffset t) = some t →
    let returns (x : State → Prop) : Prop := ∃ t, exec .tret s = .next t ∧ (me t).status = .ready ∧ x t
    let fires (t' : State) (x : Flight → Prop) : Prop := ∃ g, (me t').ops = [g] ∧ g.trig = t ∧ g.mod = m ∧ g.tseq = w / 2 ^ 32 ∧ x g
    (w.testBit 16 = true → u ≠ .vec → u ≠ .rng → ∀ ts lq lq2, (me s).savedSeq = some (ts, lq, lq2) →
      lq.get (unitIndex u) ≤ w / 2 ^ 32 → lq2.get (unitIndex u) ≤ w / 2 ^ 32 →
      returns (fun t => (me t).ops = [] ∧ ((me t).lat.get u).q = BitVec.ofNat 1024 a ∧
        (u = .mul → ((me t).lat.get u).q2 = BitVec.ofNat 1024 b))) ∧
    (w.testBit 16 = false → w.testBit 17 = true → ∀ op, t = .mul op → discarded t = true → trigModOk t m = true →
      returns (fun t => fires t (fun g => g.a.setWidth 64 = BitVec.ofNat 64 a ∧ g.b.setWidth 64 = BitVec.ofNat 64 b ∧
        g.res = some (mulResult op m a b 0)))) ∧
    (w.testBit 16 = false → w.testBit 17 = true → trigVecLong t = true → trigModOk t m = true →
      returns (fun t => fires t (fun g => g.a.toNat = s.spRead s.cur.vt (f + 0xAC0 + 128 * (w / 2 ^ 19 % 2 ^ 2)) 128))) ∧
    (w.testBit 16 = false → w.testBit 17 = false → w.testBit 18 = true → t = .lsu .ldWf ∨ t = .lsu .ldTake → trigModOk t m = true →
      SpOk a (wOf m / 8) → s.feGet s.cur.vt a = false →
      returns (fun t => fires t (fun g => g.a.setWidth 64 = BitVec.ofNat 64 a ∧ g.performed = false ∧ g.res = none))) ∧
    (w.testBit 16 = false → w.testBit 17 = false → w.testBit 18 = false → ∀ g, (me s).saved = [(k, g)] →
      returns (fun t => (me t).ops = [{ g with tseq := w / 2 ^ 32 }]))

/-- R141, R345, R348. `tret`: it reads the slot back from its frame and takes up its records, and is illegal outside a trap. -/
def Obligations.TretReadsTheSlotBack : Prop := TretRestoresTheSlotFromItsFrame ∧ TretTakesUpTheRecords ∧ TretCompletesOrIsIllegal

/-- R343 to R348. A trap and its return give the slot back: the registers, predicates, handles, result latches, CSEL, repeat
stack and level that it had, at RESUME. -/
def Obligations.TrapAndReturnRestoreTheSlot : Prop :=
  ∀ (s : State) (t : TrapReq) (resume ix : Nat), Present s →
    Quiet (me s) → (me s).status ≠ .trapped → t.code < 2 ^ 8 → t.move < 8 →
    FrameAreaOk (myVt s) → TrapHandlerAt (myVt s) ix → (myVt s).spOut = [] → (myVt s).sp.wf = true →
    (me s).rep.length ≤ 4 → (∀ e ∈ (me s).rep, e.first < 2 ^ 64 ∧ e.last < 2 ^ 64 ∧ e.remaining < 2 ^ 64) →
    (∀ k : Fin 8, ((me s).h.get k).toNat < 2 ^ 36) → resume < 2 ^ 64 →
    ∃ u, exec .tret (s.takeTrap s.cur t resume false none) = .next u ∧
      (me u).status = .ready ∧ (me u).ix = resume ∧ (me u).sup = (me s).sup ∧ (me u).x = (me s).x ∧ (me u).v = (me s).v ∧
      (∀ k, (me u).pGet k = (me s).pGet k) ∧ (me u).h = (me s).h ∧ (me u).rep = (me s).rep ∧ (me u).csel = (me s).csel ∧
      (∀ g, ((me u).lat.get g).q = ((me s).lat.get g).q) ∧ (∀ g ∈ [FUnit.mul, .lsu, .vec], ((me u).lat.get g).q2 = ((me s).lat.get g).q2)

/-! ## Results of scalar triggers (chapter 04) -/

/-- R107, R110 to R112. Each trigger of ALU0 and ALU1 fires whenever fewer than 32 operations of its slot have not landed,
with the result that its entry gives for `.a`, `.b` and the previous result, and with SAT, NX and one count where adds or
subs clamps. -/
def Obligations.AluTriggersGiveTheirResults : Prop :=
  ∀ (n : Bool) (op : AluOp) (m : BitVec 3) (s : State), (aluInstr n op m).wf = true → Room s →
    let l := if n then (me s).lat.alu1 else (me s).lat.alu0
    Issues (aluInstr n op m) s (.alu n op) m
      (aluResult op m l.a.toNat l.b.toNat ((me s).qPrev (if n then .alu1 else .alu0)))

/-- R107, R113, R114. Each trigger of MUL fires whenever fewer than 32 operations of its slot have not landed, with the product,
quotient or remainder that its entry gives; a divisor of 0 gives all ones and the dividend, with DZ and no trap. -/
def Obligations.MulTriggersGiveTheirResults : Prop :=
  ∀ (op : MulOp) (m : BitVec 3) (s : State), Room s →
    Issues (mulInstr op m) s (.mul op) m
      (mulResult op m (me s).lat.mul.a.toNat (me s).lat.mul.b.toNat ((me s).qPrev .mul))

/-- R115. The address operations: unsigned 64-bit arithmetic; chk and wrap take AGU_BOUNDS, with `.a` in `%tval`, when their
check fails. -/
def Sys2Proof.Claims.AguAddressesAreComputed : Prop :=
  ∀ (s : State), Room s →
    let a := (me s).lat.agu.a.toNat
    let b := (me s).lat.agu.b.toNat
    let c := (me s).lat.agu.c.toNat
    let gives (v : Nat) : Landing := givesQ (BitVec.ofNat 64 v)
    Issues (.aguAdd 0) s (.agu .add) 0 (gives (a + b)) ∧
    Issues (.aguIdx 0) s (.agu .idx) 0 (gives (b + a * 2 ^ (c % 8))) ∧
    Issues (.aguIdx2 0) s (.agu .idx2) 0 (gives (b + a / 2 ^ 32 * (c % 2 ^ 32) + a % 2 ^ 32 * 2 ^ (c / 2 ^ 32 % 8))) ∧
    (b ≤ a ∧ a < c → Issues (.aguChk 0) s (.agu .chk) 0 (gives a)) ∧
    (¬(b ≤ a ∧ a < c) → TrapsWith (.aguChk 0) s 0x0B (me s).lat.agu.a 0) ∧
    (c ≠ 0 → b ≤ a → Issues (.aguWrap 0) s (.agu .wrap) 0 (gives (b + (a - b) % c))) ∧
    (c ≠ 0 → a < b → Issues (.aguWrap 0) s (.agu .wrap) 0 (gives (b + (c - 1 - (b - a - 1) % c)))) ∧
    (c = 0 → TrapsWith (.aguWrap 0) s 0x0B (me s).lat.agu.a 0)

/-- R39, R116, R117. The ring operations on the handle in `.a`: hmk makes a handle, hadv moves its cursor on by `.b`, hrel moves
DRAIN to the cursor unless it lies behind DRAIN or past FILL and answers DRAIN; a handle without a ring takes RING_HANDLE, a step past FILL
takes RING_UNDERRUN. -/
def Sys2Proof.Claims.AguRingOperationsAct : Prop :=
  ∀ (s : State), Present s → Room s →
    let a := (me s).lat.agu.a
    let b := (me s).lat.agu.b
    let k : Fin 8 := ⟨a.toNat % 8, Nat.mod_lt _ (by decide)⟩
    let g := (myVt s).rings.get k
    let valid := a.getLsbD 3 = true ∧ g.logsz ≠ 0
    let cur := a.toNat / 2 ^ 4 % 2 ^ 32
    let behind (x y : Nat) : Nat := (((x : Int) - y) % 2 ^ 32).toNat
    (g.logsz ≠ 0 → Issues (.aguHmk 0) s (.agu .hmk) 0
      (givesQ (BitVec.ofNat 64 (k.val + 2 ^ 3 + b.toNat % 2 ^ 32 * 2 ^ 4)))) ∧
    (g.logsz = 0 → TrapsWith (.aguHmk 0) s 0x0C a 0) ∧
    (valid → b.toNat ≤ behind g.fill cur → Issues (.aguHadv 0) s (.agu .hadv) 0
      (givesQ (BitVec.ofNat 64 (a.toNat % 2 ^ 4 + (cur + b.toNat) % 2 ^ 32 * 2 ^ 4 + a.toNat / 2 ^ 36 * 2 ^ 36)))) ∧
    (valid → behind g.fill cur < b.toNat → TrapsWith (.aguHadv 0) s 0x0D b 0) ∧
    (¬valid → TrapsWith (.aguHadv 0) s 0x0C a 0 ∧ TrapsWith (.aguHrel 0) s 0x0C a 0) ∧
    (valid →
      let drain := if behind cur g.drain ≤ behind g.fill g.drain then cur else g.drain
      exec (.aguHrel 0) s = .next ((s.modVt s.cur.vt (fun t =>
        { t with rings := t.rings.set k.val { g with drain := drain } k.isLt })).modSlot s.cur (fun sl =>
          sl.fire (.agu .hrel) 0 (givesQ (BitVec.ofNat 64 drain)))))

/-- R115 to R117. The triggers of AGU. -/
def Obligations.AguTriggersGiveTheirResults : Prop := AguAddressesAreComputed ∧ AguRingOperationsAct

/-- R147 to R150. The arithmetic, compare, sign and class triggers of FPU fire whenever fewer than 32 operations of their slot have
not landed, with the value that the operation of chapter 02 gives on the operands' low bits. -/
def Sys2Proof.Claims.FpuTriggersComplete : Prop :=
  ∀ (op : FpuOp) (m : BitVec 3) (rm : BitVec 2) (s : State), Room s → op ∉ [FpuOp.cvt, .cvti, .cvtf] →
    (fpuInstr op m rm).wf = true →
    let l := (me s).lat.fpu
    Issues (fpuInstr op m rm) s (.fpu op (roundingOf op rm)) m (fpuResult op m rm l.a.toNat l.b.toNat l.c.toNat)

/-- R62, R63, R151, R153. The conversions of FPU: the record in `.b` bits 31 to 0 names the other format, and takes FORMAT
when it is ill-formed, names a format that is not a float, or scales a cvtf. -/
def Sys2Proof.Claims.FpuConversionsComplete : Prop :=
  ∀ (op : FpuOp) (m : BitVec 3) (rm : BitVec 2) (s : State), Room s → op ∈ [FpuOp.cvt, .cvti, .cvtf] →
    (fpuInstr op m rm).wf = true →
    let l := (me s).lat.fpu
    let record := l.b.toNat % 2 ^ 32
    (¬RecordRefused record (op == .cvtf) →
      Issues (fpuInstr op m rm) s (.fpu op rm) m (convResult op m rm record l.a.toNat (l.c.toNat % 2 ^ 8))) ∧
    (RecordRefused record (op == .cvtf) → TrapsWith (fpuInstr op m rm) s 0x08 (BitVec.ofNat 64 record) 0)

/-- R142, R147 to R151. The triggers of FPU complete, or take FORMAT where R63 says so. -/
def Obligations.FpuTriggersGiveTheirResults : Prop := FpuTriggersComplete ∧ FpuConversionsComplete

/-- R49, R148, R150. What the compare, sign and class results are, from the bits of the operands: values are ordered as
their magnitudes with the sign, minus zero equals plus zero in a compare and lies below it in min and max; a NaN operand
makes eq, lt and le false, un true, and min, max, abs and neg the default NaN; eq, un, min and max set NV for a signalling
operand, lt and le for any NaN, and no other flag is set. -/
def Sys2Proof.Claims.FpuComparesAndSigns : Prop :=
  ∀ (m : BitVec 3) (a b c : Nat), m.toNat < 3 →
    let x := a % 2 ^ fWidth m
    let y := b % 2 ^ fWidth m
    let nan := IsNaN m x ∨ IsNaN m y
    let nv : Ev := if IsSignalling m x ∨ IsSignalling m y then ⟨flagNV, 0⟩ else evNone
    let res (op : FpuOp) : Landing := fpuResult op m 0 a b c
    let num (k : Nat) (e : Ev) : Landing := givesQ (BitVec.ofNat 64 k) e
    (nan →
      res .eq = num 0 nv ∧ res .un = num 1 nv ∧ res .lt = num 0 ⟨flagNV, 0⟩ ∧ res .le = num 0 ⟨flagNV, 0⟩ ∧
      res .min = num (canonicalNaN m) nv ∧ res .max = num (canonicalNaN m) nv) ∧
    (¬nan →
      res .eq = num (if fKey m x = fKey m y then 1 else 0) evNone ∧ res .un = num 0 evNone ∧
      res .lt = num (if fKey m x < fKey m y then 1 else 0) evNone ∧
      res .le = num (if fKey m x ≤ fKey m y then 1 else 0) evNone ∧
      res .min = num (if fKey m x < fKey m y ∨ (fKey m x = fKey m y ∧ fNeg m x) then x else y) evNone ∧
      res .max = num (if fKey m y < fKey m x ∨ (fKey m x = fKey m y ∧ fNeg m y) then x else y) evNone) ∧
    (IsNaN m x → res .abs = num (canonicalNaN m) evNone ∧ res .neg = num (canonicalNaN m) evNone) ∧
    (¬IsNaN m x → res .abs = num (x % 2 ^ (fWidth m - 1)) evNone ∧
      res .neg = num (if fNeg m x then x - 2 ^ (fWidth m - 1) else x + 2 ^ (fWidth m - 1)) evNone) ∧
    res .cls = num (2 ^ fClassOf m x) evNone

/-- R49, R147. An arithmetic operation with a NaN operand gives the default NaN of its format, whatever the payloads, and
sets NV when an operand is signalling or the product of an fma is zero times infinity, and no other flag. -/
def Sys2Proof.Claims.FpuNaNsAreCanonical : Prop :=
  ∀ (m : BitVec 3) (rm : BitVec 2) (a b c : Nat), m.toNat < 3 →
    let x := a % 2 ^ fWidth m
    let y := b % 2 ^ fWidth m
    let z := c % 2 ^ fWidth m
    let given (op : FpuOp) (nv : Prop) [Decidable nv] : Prop :=
      fpuResult op m rm a b c = givesQ (BitVec.ofNat 64 (canonicalNaN m)) (if nv then ⟨flagNV, 0⟩ else evNone)
    let sig2 := IsSignalling m x ∨ IsSignalling m y
    let invalid := (fMag m x = 0 ∧ IsInf m y) ∨ (IsInf m x ∧ fMag m y = 0)
    (IsNaN m x ∨ IsNaN m y → given .add sig2 ∧ given .sub sig2 ∧ given .mul sig2 ∧ given .div sig2) ∧
    (IsNaN m x ∨ IsNaN m y ∨ IsNaN m z → given .fma (sig2 ∨ IsSignalling m z ∨ invalid)) ∧
    (IsNaN m x → given .sqrt (IsSignalling m x))

/-- R49, R147 to R150. Special values: compares, signs, classes and NaNs, from the bits of the operands. -/
def Obligations.FpuComparesSignsAndNaNs : Prop := FpuComparesAndSigns ∧ FpuNaNsAreCanonical

/-- R48, R57, R147. The arithmetic triggers on operands that are no NaN: the exact sum, difference, product, fused sum, quotient or
root is rounded once, with the flags of that rounding; an exact zero sum of unlike signs is minus zero only under `.rd`; infinities, zeros
and roots of negatives act as IEEE 754 prescribes, an invalid operation giving the default NaN with NV and NANP, and a finite
value over zero an infinity with DZ. -/
def Sys2Proof.Claims.ArithmeticRoundsOnce : Prop :=
  ∀ (m : BitVec 3) (rm : BitVec 2) (a b c : Nat), m.toNat < 3 →
    let x := a % 2 ^ fWidth m
    let y := b % 2 ^ fWidth m
    let z := c % 2 ^ fWidth m
    let X : ℝ := valueOf m x
    let Y : ℝ := valueOf m y
    let Z : ℝ := valueOf m z
    let unlike := ¬(fNeg m x ↔ fNeg m y)
    let gives (op : FpuOp) (r : Nat) (f : BitVec 8) : Prop := fpuResult op m rm a b c = givesQ (BitVec.ofNat 64 r) ⟨f, 0⟩
    let rounds (op : FpuOp) (v : ℝ) : Prop := ∃ r f, RoundsTo m rm v r f ∧ gives op r f
    let invalid (op : FpuOp) : Prop := gives op (canonicalNaN m) (flagNV ||| flagNANP)
    (Finite m x → Finite m y →
      (X + Y ≠ 0 → rounds .add (X + Y)) ∧ (X + Y = 0 → gives .add (zeroOf m (if unlike then rm = 3 else fNeg m x)) 0) ∧
      (X - Y ≠ 0 → rounds .sub (X - Y)) ∧ (X - Y = 0 → gives .sub (zeroOf m (if unlike then fNeg m x else rm = 3)) 0) ∧
      (X * Y ≠ 0 → rounds .mul (X * Y)) ∧ (X * Y = 0 → gives .mul (zeroOf m unlike) 0) ∧
      (X ≠ 0 → Y ≠ 0 → rounds .div (X / Y)) ∧ (X = 0 → Y ≠ 0 → gives .div (zeroOf m unlike) 0) ∧
      (X ≠ 0 → Y = 0 → gives .div (infOf m unlike) flagDZ) ∧ (X = 0 → Y = 0 → invalid .div)) ∧
    (Finite m x → Finite m y → Finite m z →
      (X * Y + Z ≠ 0 → rounds .fma (X * Y + Z)) ∧
      (X * Y + Z = 0 → gives .fma (zeroOf m (if unlike ↔ fNeg m z then unlike else rm = 3)) 0)) ∧
    (Finite m x →
      (0 < X → rounds .sqrt (Real.sqrt X)) ∧ (X = 0 → gives .sqrt x 0) ∧ (X < 0 → invalid .sqrt)) ∧
    (IsInf m x → Finite m y → gives .add x 0 ∧ gives .sub x 0 ∧ gives .div (infOf m unlike) 0) ∧
    (Finite m x → IsInf m y → gives .add y 0 ∧ gives .sub (infOf m (¬fNeg m y)) 0 ∧ gives .div (zeroOf m unlike) 0) ∧
    (IsInf m x → IsInf m y → invalid .div ∧
      (unlike → invalid .add ∧ gives .sub x 0) ∧ (¬unlike → gives .add x 0 ∧ invalid .sub)) ∧
    (IsInf m x ∧ fMag m y = 0 ∨ fMag m x = 0 ∧ IsInf m y → invalid .mul ∧ (¬IsNaN m z → invalid .fma)) ∧
    (IsInf m x ∧ fMag m y ≠ 0 ∧ ¬IsNaN m y ∨ fMag m x ≠ 0 ∧ ¬IsNaN m x ∧ IsInf m y →
      gives .mul (infOf m unlike) 0 ∧
      (Finite m z → gives .fma (infOf m unlike) 0) ∧
      (IsInf m z → (unlike ↔ fNeg m z) → gives .fma z 0) ∧ (IsInf m z → ¬(unlike ↔ fNeg m z) → invalid .fma)) ∧
    (Finite m x → Finite m y → IsInf m z → gives .fma z 0) ∧
    (IsInf m x → if fNeg m x then invalid .sqrt else gives .sqrt x 0)

/-- R57, R58, R60, R65, R151. A converted element: the exact value of the source, times its scale, is rounded once into the
destination; a NaN or a scale byte 0xFF gives the default NaN (cvti: 0 with NV), an infinity stays one or saturates, and a
clamped element counts one saturation. -/
def Sys2Proof.Claims.ConversionsRoundOnce : Prop :=
  ∀ (op : FpuOp) (m : BitVec 3) (rm : BitVec 2) (record x scale : Nat), op ∈ [FpuOp.cvt, .cvti, .cvtf] →
    (fpuInstr op m rm).wf = true → ¬RecordRefused record (op == .cvtf) → scale < 256 →
    let k : BitVec 3 := BitVec.ofNat 3 (record % 2 ^ 4 - 1)
    let s := x % 2 ^ eWidth k
    let scaled := record / 2 ^ 4 % 2 = 1
    let bad := scaled ∧ scale = 0xFF
    let v : ℝ := elemValue k s * (2 : ℝ) ^ (if scaled then (scale : ℤ) - 127 else 0)
    let met : BitVec 8 := (if k.toNat < 3 ∧ IsSignalling k s then flagNV else 0) ||| (if bad then flagNV ||| flagNANP else 0)
    let got := convElement op m rm record x scale
    let int (t : ℤ) : Nat := (BitVec.ofInt (wOf m) t).toNat
    let clamped : Ev := ⟨flagNV ||| flagSAT ||| flagNX, 1⟩
    (op = .cvt →
      (ElemNaN k s ∨ bad → got = (elemNaN m, ⟨met, 0⟩)) ∧
      (ElemInf k s → ¬bad → got = if m.toNat < 3 then (infOf m (fNeg k s), evNone)
        else ((if fNeg k s then 2 ^ taperedBits m else 0) + (2 ^ taperedBits m - 1), ⟨flagSAT ||| flagNX, 1⟩)) ∧
      (¬ElemNaN k s → ¬ElemInf k s → ¬bad → v = 0 →
        got = (if m.toNat < 3 then zeroOf m (k.toNat < 3 ∧ fNeg k s) else 0, evNone)) ∧
      (¬ElemNaN k s → ¬ElemInf k s → ¬bad → v ≠ 0 → NarrowsTo m rm v got)) ∧
    (op = .cvti →
      (ElemNaN k s ∨ bad → got = (0, ⟨met ||| flagNV, 0⟩)) ∧
      (ElemInf k s → ¬bad → got = (int (if fNeg k s then lowest m else highest m), clamped)) ∧
      (¬ElemNaN k s → ¬ElemInf k s → ¬bad → ∃ t, IntegralTo rm v t ∧
        (highest m < t → got = (int (highest m), clamped)) ∧ (t < lowest m → got = (int (lowest m), clamped)) ∧
        (lowest m ≤ t → t ≤ highest m → got.1 = int t ∧ got.2.sat = 0 ∧ (t = v → got.2.flags = 0) ∧ (t ≠ v → got.2.flags = flagNX)))) ∧
    (op = .cvtf →
      (opOf m x = 0 → got = (0, evNone)) ∧ (opOf m x ≠ 0 → NarrowsTo k rm (opOf m x : ℝ) got))

/-- R57, R58, R147, R151. The arithmetic triggers and the conversions deliver the exact value, rounded once. -/
def Obligations.FloatResultsAreTheExactValueRoundedOnce : Prop := ArithmeticRoundsOnce ∧ ConversionsRoundOnce

/-! ## Vector triggers and random numbers (chapter 05) -/

/-- R143, R144, R147 to R149. The element-wise triggers of VEC: lane i of the result is what the FPU trigger of the name
gives on lane i of the operands (all ones or zero for a compare; sel chooses by the lane of `.a`); the flags of all lanes
are ORed. -/
def Sys2Proof.Claims.VecLanesAreFpuResults : Prop :=
  ∀ (op : VecOp) (fop : FpuOp) (m : BitVec 3) (rm : BitVec 2) (s : State), Room s → m.toNat < 3 →
    (op, fop) ∈ [(VecOp.add, FpuOp.add), (.sub, .sub), (.mul, .mul), (.fma, .fma), (.min, .min), (.max, .max), (.eq, .eq),
      (.lt, .lt), (.le, .le), (.abs, .abs), (.neg, .neg)] →
    let l := (me s).lat.vec
    let w := fWidth m
    let one (i : Nat) : Landing := fpuResult fop m rm (laneOf w l.a.toNat i) (laneOf w l.b.toNat i) (laneOf w l.c.toNat i)
    let truth := op ∈ [VecOp.eq, .lt, .le]
    ∃ (q : VWord) (e : Ev), Issues (vecInstr op m rm) s (.vec op (roundingOf fop rm)) m ⟨some q, none, e⟩ ∧
      (∀ i < 1024 / w, ∃ x : VWord, (one i).q = some x ∧
        laneOf w q.toNat i = if truth then (if x = 1 then 2 ^ w - 1 else 0) else x.toNat % 2 ^ w) ∧
      e.flags = (List.range (1024 / w)).foldl (fun f i => f ||| (one i).ev.flags) 0 ∧ e.sat = 0

/-- R149, R158, R159. sel, the permutes and the integer lanes: each lane of the result from the lanes of the operands, without
a flag. -/
def Sys2Proof.Claims.VecSelectsPermutesAndIntegerLanes : Prop :=
  ∀ (op : VecOp) (m : BitVec 3) (s : State), Room s → (vecInstr op m 0).wf = true →
    let l := (me s).lat.vec
    let w := wOf m
    let n := 1024 / w
    let a := l.a.toNat
    let b := l.b.toNat
    let gives (w : Nat) (f : Nat → Nat) : Prop :=
      ∃ q : VWord, Issues (vecInstr op m 0) s (.vec op 0) m ⟨some q, none, evNone⟩ ∧ ∀ i < 1024 / w, laneOf w q.toNat i = f i
    (op = .sel → gives (fWidth m) (fun i => if laneOf (fWidth m) a i ≠ 0 then laneOf (fWidth m) b i
      else laneOf (fWidth m) l.c.toNat i)) ∧
    (op = .perm → gives w (fun i => if laneOf w a i / 2 ^ 7 % 2 = 1 then 0 else laneOf w b (laneOf w a i % 2 ^ 7 % n))) ∧
    (op = .bcast → gives w (fun _ => laneOf w b (a % 2 ^ 7 % n))) ∧
    (op = .rotl → gives w (fun i => laneOf w b ((i + n - a % 2 ^ 7 % n) % n))) ∧
    (op ∈ [VecOp.iadd, .isub, .imul, .iand, .ior, .ixor, .ishl, .ishr, .imin, .imax] →
      gives w (fun i => (intLaneResult op m (laneOf w a i) (laneOf w b i)).getD 0))

/-- R143, R144, R147 to R149, R158, R159. The element-wise triggers of VEC. -/
def Obligations.VecLanesSelectsAndIntegerLanes : Prop := VecLanesAreFpuResults ∧ VecSelectsPermutesAndIntegerLanes

/-- R144, R154, R155, R156. The reductions take lanes 0 to N - 1, N in `.b` bits 6 to 0 (0 for all lanes), and VEC_OPERAND when N
passes the lanes there are. redmax and redmin give the IEEE maximum and minimum, redadd.o sums lane after lane in FP32, redadd.u sums by a
tree of the unit's choosing (log 7), bfenc encodes the lanes. -/
def Sys2Proof.Claims.VecReductionsComplete : Prop :=
  ∀ (m : BitVec 3) (rm : BitVec 2) (s : State), Room s → m.toNat < 3 →
    let l := (me s).lat.vec
    let w := fWidth m
    let n := if l.b.toNat % 2 ^ 7 = 0 then 1024 / w else l.b.toNat % 2 ^ 7
    let xs := (List.range n).map (laneOf w l.a.toNat)
    let f := fmtOfF m
    let gives (x : Nat × Ev) : Landing := ⟨some (BitVec.ofNat 1024 x.1), none, x.2⟩
    (n ≤ 1024 / w →
      Issues (.vecRedmax m) s (.vec .redmax 0) m (gives (extremum f true xs)) ∧
      Issues (.vecRedmin m) s (.vec .redmin 0) m (gives (extremum f false xs)) ∧
      Issues (.vecRedaddO m rm) s (.vec .redaddO rm) m (gives (sumOrdered (rmOf rm) (xs.map (toF32 f)))) ∧
      Issues (.vecRedaddU m rm) s (.vec .redaddU rm) m
        (gives (sumUnordered (rmOf rm) (Config.reductionTree s.tick) (xs.map (toF32 f)))) ∧
      Issues (.vecBfenc m) s (.vec .bfenc 0) m
        (gives (bfPair (bfEncode (xs.map (ieeeDecode f))).1, (bfEncode (xs.map (ieeeDecode f))).2))) ∧
    (1024 / w < n → ∀ i ∈ [Instr.vecRedmax m, .vecRedmin m, .vecRedaddO m rm, .vecRedaddU m rm, .vecBfenc m],
      TrapsWith i s 0x11 (l.b.setWidth 64) 0)

/-- R154. An ordered sum adds lane after lane: one more lane is one more rounded FP32 addition, whose flags are ORed; N = 1 gives the
lane, a signalling NaN becoming the default NaN with NV. -/
def Sys2Proof.Claims.OrderedSumsAddLaneAfterLane : Prop :=
  (∀ (rm : RM) (x y : Nat), sumOrdered rm [x, y] = ((addF32 rm x y).1, evAnd evNone (addF32 rm x y).2)) ∧
  (∀ (rm : RM) (xs : List Nat) (x y : Nat), xs ≠ [] →
    sumOrdered rm (x :: xs ++ [y]) =
      ((addF32 rm (sumOrdered rm (x :: xs)).1 y).1, evAnd (sumOrdered rm (x :: xs)).2 (addF32 rm (sumOrdered rm (x :: xs)).1 y).2)) ∧
  (∀ (rm : RM) (x : Nat), x < 2 ^ 32 →
    (sumOrdered rm [x]) = if IsNaN 0 x then (canonicalNaN 0, if IsSignalling 0 x then ⟨flagNV, 0⟩ else evNone) else (x, evNone)) ∧
  (∀ (rm : RM) (pick x y : Nat), ∃ a b, (a, b) ∈ [(x, y), (y, x)] ∧
    sumUnordered rm pick [x, y] = ((addF32 rm a b).1, evAnd evNone (addF32 rm a b).2))

/-- R156. bfalign adds the pair in `.a` to the pair in `.b`; bfdec decodes the pair in `.a` into lane 0. -/
def Sys2Proof.Claims.BlockFloatTriggersComplete : Prop :=
  ∀ (m : BitVec 3) (rm : BitVec 2) (s : State), Room s →
    let l := (me s).lat.vec
    let mant (x : VWord) : Int := (x.setWidth 64).toInt
    let expo (x : VWord) : Int := (x.extractLsb' 64 32).toInt
    let sum := bfAlignAdd (mant l.b) (expo l.b) (mant l.a) (expo l.a)
    let dec := bfDecode (mant l.a) (expo l.a) (fmtOfF m) (rmOf rm)
    Issues (.vecBfalign 0) s (.vec .bfalign 0) 0
      ⟨some (((BitVec.ofInt 32 sum.1.2) ++ (BitVec.ofInt 64 sum.1.1) : BitVec 96).setWidth 1024), none, sum.2⟩ ∧
    (m.toNat < 5 → Issues (.vecBfdec m rm) s (.vec .bfdec rm) m ⟨some (BitVec.ofNat 1024 dec.1), none, dec.2⟩)

/-- R154. A lane widened to FP32 keeps its value, its sign and whether it is a signalling NaN; a sum of two lanes is the FPU's; and
redadd.u gives the sum of some tree whose leaves are the lanes in some order. -/
def Sys2Proof.Claims.SumsAreFpuSums : Prop :=
  (∀ (m : BitVec 3) (x : Nat), m.toNat < 3 → x < 2 ^ fWidth m →
    let r := toF32 (fmtOfF m) x
    r < 2 ^ 32 ∧ (¬IsNaN m x → (fNeg 0 r ↔ fNeg m x)) ∧
    (Finite m x → Finite 0 r ∧ valueOf 0 r = valueOf m x) ∧ (IsInf m x → IsInf 0 r) ∧
    (IsNaN m x → IsNaN 0 r ∧ (IsSignalling 0 r ↔ IsSignalling m x))) ∧
  (∀ (rm : BitVec 2) (x y z : Nat), fpuResult .add 0 rm x y z =
    givesQ (BitVec.ofNat 64 (addF32 (rmOf rm) x y).1) (addF32 (rmOf rm) x y).2) ∧
  (∀ (rm : BitVec 2) (pick : Nat) (xs : List Nat), 2 ≤ xs.length →
    let sum := sumUnordered (rmOf rm) pick xs
    ∃ ys, ys.Perm xs ∧ TreeSum rm ys sum.1 sum.2.flags) ∧
  (∀ (rm : BitVec 2) (pick x : Nat), sumUnordered (rmOf rm) pick [x] = sumOrdered (rmOf rm) [x])

/-- R148, R155. The extremum of lanes is a lane that no other passes, minus zero lying below plus zero, without a flag; with a NaN
among them it is the default NaN, with NV when one is signalling. -/
def Sys2Proof.Claims.ExtremaAreLanes : Prop :=
  ∀ (m : BitVec 3) (xs : List Nat), m.toNat < 3 → xs ≠ [] → (∀ x ∈ xs, x < 2 ^ fWidth m) →
    let top := extremum (fmtOfF m) true xs
    let bottom := extremum (fmtOfF m) false xs
    let nv : Ev := if ∃ x ∈ xs, IsSignalling m x then ⟨flagNV, 0⟩ else evNone
    ((∃ x ∈ xs, IsNaN m x) → top = (canonicalNaN m, nv) ∧ bottom = (canonicalNaN m, nv)) ∧
    ((∀ x ∈ xs, ¬IsNaN m x) →
      (top.1 ∈ xs ∧ (∀ x ∈ xs, fOrder m x ≤ fOrder m top.1) ∧ top.2 = evNone) ∧
      bottom.1 ∈ xs ∧ (∀ x ∈ xs, fOrder m bottom.1 ≤ fOrder m x) ∧ bottom.2 = evNone)

/-- R67, R156. What the block-float helpers compute: bfenc the sum of the lanes in units of 2^(E - 55), each rounded to an integer; bfalign the
sum with M shifted to Xa's place, rounded and clamped; bfdec the value rounded once. -/
def Sys2Proof.Claims.BlockFloatValues : Prop :=
  (∀ (m : BitVec 3) (xs : List Nat), m.toNat < 3 → xs.length ≤ 64 → (∀ x ∈ xs, x < 2 ^ fWidth m) →
    let got := bfEncode (xs.map (ieeeDecode (fmtOfF m)))
    ((∃ x ∈ xs, ExpOnes m x) →
      got = ((0, -2 ^ 31), ⟨flagNV ||| (if ∃ x ∈ xs, IsNaN m x then 0 else flagNANP), 0⟩)) ∧
    ((∀ x ∈ xs, fMag m x = 0) → got = ((0, 0), evNone)) ∧
    ((∀ x ∈ xs, ¬ExpOnes m x) → (∃ x ∈ xs, fMag m x ≠ 0) →
      ∃ (e : ℤ) (ts : List ℤ),
        let term (x : Nat) : ℚ := valueOf m x * 2 ^ (55 - e)
        (∃ x ∈ xs, 2 ^ e ≤ |valueOf m x|) ∧ (∀ x ∈ xs, |valueOf m x| < 2 ^ (e + 1)) ∧
        List.Forall₂ (fun x t => RoundInt (term x) t) xs ts ∧ got.1 = (ts.sum, e - 55) ∧
        (List.Forall₂ (fun x (t : ℤ) => term x = t) xs ts → got.2 = evNone) ∧
        (¬List.Forall₂ (fun x (t : ℤ) => term x = t) xs ts → got.2 = ⟨flagNX, 0⟩))) ∧
  (∀ a xa m x : ℤ, |a| ≤ 2 ^ 63 → |m| ≤ 2 ^ 63 → |xa| ≤ 2 ^ 31 → |x| ≤ 2 ^ 31 →
    let got := bfAlignAdd a xa m x
    let top : ℤ := 2 ^ 63 - 1
    let exact : ℚ := m * 2 ^ (x - xa)
    (xa = -2 ^ 31 ∨ x = -2 ^ 31 → got = ((0, -2 ^ 31), evNone)) ∧
    (xa ≠ -2 ^ 31 → x ≠ -2 ^ 31 → ∃ t, RoundInt exact t ∧
      let t' := max (-top) (min top t)
      got.1 = (max (-top) (min top (a + t')), xa) ∧
      got.2.sat = (if t' = t then 0 else 1) + (if a + t' ≤ top ∧ -top ≤ a + t' then 0 else 1) ∧
      got.2.flags = (if got.2.sat = 0 then 0 else flagSAT ||| flagNX) ||| (if exact = t' then 0 else flagNX))) ∧
  (∀ (m : BitVec 3) (rm : BitVec 2) (a xa : ℤ), m.toNat < 5 → |a| ≤ 2 ^ 63 → |xa| ≤ 2 ^ 31 →
    let got := bfDecode a xa (fmtOfF m) (rmOf rm)
    (xa = -2 ^ 31 → got = (elemNaN m, ⟨flagNV, 0⟩)) ∧ (xa ≠ -2 ^ 31 → a = 0 → got = (0, evNone)) ∧
    (xa ≠ -2 ^ 31 → a ≠ 0 → NarrowsTo m rm ((a : ℝ) * 2 ^ xa) got))

/-- R67, R144, R148, R154 to R156. The reductions and the block-float triggers of VEC. -/
def Obligations.VecReductionsAndBlockFloat : Prop :=
  VecReductionsComplete ∧ OrderedSumsAddLaneAfterLane ∧ SumsAreFpuSums ∧ ExtremaAreLanes ∧ BlockFloatTriggersComplete ∧ BlockFloatValues

/-- R151 to R153. The conversions of VEC handle as many elements as the narrower side has, of the part that `.b` bits 33 and 32 choose
on the wider side; every other destination element is zero; element e is scaled by byte e div 2^BCLOG of `.c`; a record that R62 refuses takes FORMAT, a part that
there is not takes VEC_OPERAND. (That FORMAT comes first is log 98: the model's choice.) -/
def Obligations.VecConversionsHandleOnePart : Prop :=
  ∀ (op : VecOp) (fop : FpuOp) (m : BitVec 3) (rm : BitVec 2) (s : State), Room s →
    (op, fop) ∈ [(VecOp.cvt, FpuOp.cvt), (.cvti, .cvti), (.cvtf, .cvtf)] → (vecInstr op m rm).wf = true →
    let l := (me s).lat.vec
    let record := l.b.toNat % 2 ^ 32
    let part := l.b.toNat / 2 ^ 32 % 4
    let named := recordFmt record
    let own := if op = .cvt then (fmtBits (fmtOfF m), laneCount (fmtOfF m)) else (wOf m, 1024 / wOf m)
    let other := (fmtBits named, laneCount named)
    let (bs, ls) := if op = .cvtf then own else other
    let (bd, ld) := if op = .cvtf then other else own
    let n := min ls ld
    let src (i : Nat) : Nat := if n < ls then part * n + i else i
    let dst (i : Nat) : Nat := if n < ld then part * n + i else i
    let elem (i : Nat) : Nat × Ev := convElement fop m rm record (laneOf bs l.a.toNat (src i))
      (laneOf 8 l.c.toNat (src i / 2 ^ (record / 2 ^ 8 % 8)))
    (RecordRefused record (op == .cvtf) → TrapsWith (vecInstr op m rm) s 0x08 (BitVec.ofNat 64 record) 0) ∧
    (¬RecordRefused record (op == .cvtf) → max ls ld / n ≤ part →
      TrapsWith (vecInstr op m rm) s 0x11 (l.b.setWidth 64) 0) ∧
    (¬RecordRefused record (op == .cvtf) → part < max ls ld / n →
      ∃ (q : VWord) (e : Ev), Issues (vecInstr op m rm) s (.vec op rm) m ⟨some q, none, e⟩ ∧
        (∀ i < n, laneOf bd q.toNat (dst i) = (elem i).1 % 2 ^ bd) ∧
        (∀ k < ld, (∀ i < n, k ≠ dst i) → laneOf bd q.toNat k = 0) ∧
        e.flags = (List.range n).foldl (fun f i => f ||| (elem i).2.flags) 0 ∧
        e.sat = (List.range n).foldl (fun c i => c + (elem i).2.sat) 0)

/-- R157, R346. The transcendental triggers fire while fewer than four of VEC's long operations have not landed, each lane with
the approximation of its function; a fifth one waits. -/
def Sys2Proof.Claims.VecApproximationsComplete : Prop :=
  ∀ (op : VecOp) (g : Fmt → FVal → LaneRes) (m : BitVec 3) (s : State), Room s → m.toNat < 3 →
    (op = .exp ∧ g = laneExp) ∨ (op = .log ∧ g = laneLog) ∨ (op = .rcp ∧ g = laneRcp) ∨ (op = .rsqrt ∧ g = laneRsqrt) ∨
      (op = .tanh ∧ g = laneTanh) ∨ (op = .sigm ∧ g = laneSigm) →
    let w := fWidth m
    let one (i : Nat) : Nat × Ev := approxLane g m (laneOf w (me s).lat.vec.a.toNat i)
    (RoomLong s → ∃ (q : VWord) (e : Ev), Issues (vecInstr op m 0) s (.vec op 0) m ⟨some q, none, e⟩ ∧
      (∀ i < 1024 / w, laneOf w q.toNat i = (one i).1 % 2 ^ w) ∧
      e.flags = (List.range (1024 / w)).foldl (fun f i => f ||| (one i).2.flags) 0) ∧
    (¬RoomLong s → exec (vecInstr op m 0) s = .next s)

/-- R157. The lanes whose results the table of R157 names, with no flag but those it names; and rcp and rsqrt, whose lanes are the
exact value rounded to FP32 and then to the lane format. -/
def Sys2Proof.Claims.ApproximationsAtTheirSpecialPoints : Prop :=
  ∀ (m : BitVec 3) (x : Nat), m.toNat < 3 → x < 2 ^ fWidth m →
    let one : Nat := fBias m * 2 ^ fMant m
    let half : Nat := (fBias m - 1) * 2 ^ fMant m
    let neg := zeroOf m True
    let is (g : Fmt → FVal → LaneRes) (r : Nat) (f : BitVec 8) : Prop := approxLane g m x = (r, ⟨f, 0⟩)
    let nan := canonicalNaN m
    let X : ℝ := valueOf m x
    (IsNaN m x → ∀ g ∈ [laneExp, laneLog, laneRcp, laneRsqrt, laneTanh, laneSigm], is g nan (if IsSignalling m x then flagNV else 0)) ∧
    (fMag m x = 0 → is laneExp one 0 ∧ is laneLog (infOf m True) flagDZ ∧ is laneRcp (infOf m (fNeg m x)) flagDZ ∧
      is laneRsqrt (infOf m (fNeg m x)) flagDZ ∧ is laneTanh x 0 ∧ is laneSigm half 0) ∧
    (x = infOf m False → is laneExp x 0 ∧ is laneLog x 0 ∧ is laneRcp 0 0 ∧ is laneRsqrt 0 0 ∧ is laneTanh one 0 ∧ is laneSigm one 0) ∧
    (x = infOf m True → is laneExp 0 0 ∧ is laneRcp neg 0 ∧ is laneTanh (one + neg) 0 ∧ is laneSigm 0 0) ∧
    (fNeg m x → fMag m x ≠ 0 → ¬IsNaN m x → is laneLog nan (flagNV ||| flagNANP) ∧ is laneRsqrt nan (flagNV ||| flagNANP)) ∧
    (x = one → is laneLog 0 0) ∧
    (Finite m x → X ≠ 0 → Delivers m (1 / X) (approxLane laneRcp m x)) ∧
    (Finite m x → 0 < X → Delivers m (1 / Real.sqrt X) (approxLane laneRsqrt m x))

/-- R157, R346. The approximations of VEC: their completion, their special results, and the values of rcp and rsqrt. -/
def Obligations.VecApproximationsGiveTheirLanes : Prop := VecApproximationsComplete ∧ ApproximationsAtTheirSpecialPoints

/-- R157. The lanes of exp, log, tanh and sigm are the exact value, rounded to FP32 and then to the lane format, wherever no
boundary of that rounding lies within 2^-1000 of the value. -/
def Sys2Proof.Claims.TranscendentalLanesAreRounded : Prop :=
  ∀ (g : Fmt → FVal → LaneRes) (f : ℝ → ℝ) (m : BitVec 3) (x : Nat), m.toNat < 3 → Finite m x → fMag m x ≠ 0 →
    let X : ℝ := valueOf m x
    (g = laneExp ∧ f = Real.exp) ∨ (g = laneLog ∧ f = Real.log ∧ 0 < X ∧ X ≠ 1) ∨ (g = laneTanh ∧ f = Real.tanh) ∨
      (g = laneSigm ∧ f = fun a => 1 / (1 + Real.exp (-a))) →
    Decided m (f X) → Delivers m (f X) (approxLane g m x)

/-- R167. The lanes of norm, in FP32: rad times the cosine for an even lane, rad times the sine for the odd lane after it, rounded
wherever no boundary lies within 2^-1000 of the value; an exact zero is plus zero; the other formats round that FP32 value. -/
def Sys2Proof.Claims.NormalLanesAreRounded : Prop :=
  ∀ (m : BitVec 3) (block i : Nat), m.toNat < 3 → i < 1024 / fWidth m →
    let w := fWidth m
    let ua : ℝ := (laneOf w block (i / 2 * 2) + 1) / 2 ^ w
    let ub : ℝ := laneOf w block (i / 2 * 2 + 1) / 2 ^ w
    let rad : ℝ := Real.sqrt (-2 * Real.log ua)
    let v : ℝ := if i % 2 = 0 then rad * Real.cos (2 * Real.pi * ub) else rad * Real.sin (2 * Real.pi * ub)
    let got := laneOf w (normLanes (fmtOfF m) block) i
    (v = 0 → got = 0) ∧
    (v ≠ 0 → Decided m v → ∃ r fl, RoundsTo 0 0 v r fl ∧ (m = 0 → got = r) ∧
      (m ≠ 0 → valueOf 0 r ≠ 0 → ∃ fl', RoundsTo m 0 (valueOf 0 r : ℝ) got fl'))

/-- R157, R167. The values of the approximations and of norm. -/
def Obligations.ApproximationsAreTheRoundedValue : Prop := TranscendentalLanesAreRounded ∧ NormalLanesAreRounded

/-- R163 to R168. The RNG triggers act on the record in `.a` bits 2 to 0: seed answers the old record and writes stream and counter;
draw, unif and norm use the block of the counter and step it, or exhaust the record at the last one; an exhausted record takes
RNG_EXHAUSTED. -/
def Sys2Proof.Claims.RngTriggersComplete : Prop :=
  ∀ (m : BitVec 3) (s : State), Present s → Room s →
    let l := (me s).lat.rng
    let k : Fin 8 := ⟨l.a.toNat % 8, Nat.mod_lt _ (by decide)⟩
    let g := (myVt s).rng.get k
    let set (g' : RngRec) (op : RngOp) (m : BitVec 3) (q : Nat) : Host.Outcome State Fault Refusal :=
      .next ((s.modVt s.cur.vt (fun t => { t with rng := t.rng.set k.val g' k.isLt })).modSlot s.cur (fun sl =>
        sl.fire (.rng op) m ⟨some (BitVec.ofNat 1024 q), none, evNone⟩))
    let block := rngBlock (s.ctx s.cur.vt.ctx).desc.seed.toNat (s.cur.vt.rank % 2 ^ 24) g.sid g.ctr
    let after : RngRec := if g.ctr = 2 ^ 64 - 1 then { g with exh := true } else { g with ctr := g.ctr + 1 }
    exec (.rngSeed 0) s = set ⟨l.b.toNat % 2 ^ 32, false, l.b.toNat / 2 ^ 64 % 2 ^ 64⟩ .seed 0
      (g.sid + (if g.exh then 2 ^ 32 else 0) + g.ctr * 2 ^ 64) ∧
    (g.exh = false →
      exec (.rngDraw 0) s = set after .draw 0 block ∧
      (m.toNat < 3 → exec (.rngUnif m) s = set after .unif m (unifLanes (fmtOfF m) block)) ∧
      (m.toNat < 3 → exec (.rngNorm m) s = set after .norm m (normLanes (fmtOfF m) block))) ∧
    (g.exh = true → TrapsWith (.rngDraw 0) s 0x12 (BitVec.ofNat 64 k.val) 0 ∧
      TrapsWith (.rngUnif m) s 0x12 (BitVec.ofNat 64 k.val) 0 ∧ TrapsWith (.rngNorm m) s 0x12 (BitVec.ofNat 64 k.val) 0)

/-- R164, R167. A block is the first 128 bytes of SHAKE256 over seed, rank, SID and CTR, each least significant byte first; a lane of unif
is exactly its chunk's upper bits as a fraction, never negative. -/
def Sys2Proof.Claims.BlocksAndUniformLanes : Prop :=
  (∀ seed rank sid ctr : Nat, seed < 2 ^ 256 → rank < 2 ^ 24 → sid < 2 ^ 32 → ctr < 2 ^ 64 →
    ∃ message : List Byte, message.length = 48 ∧
      (∀ j < 48, (message.getD j 0).toNat = (if j < 32 then seed / 2 ^ (8 * j) else if j < 36 then rank / 2 ^ (8 * (j - 32))
        else if j < 40 then sid / 2 ^ (8 * (j - 36)) else ctr / 2 ^ (8 * (j - 40))) % 2 ^ 8) ∧
      (shake256 message 128).length = 128 ∧
      ∀ j < 128, laneOf 8 (rngBlock seed rank sid ctr) j = ((shake256 message 128).getD j 0).toNat) ∧
  (∀ (m : BitVec 3) (block i : Nat), m.toNat < 3 → i < 1024 / fWidth m →
    let c := laneOf (fWidth m) block i
    let r := laneOf (fWidth m) (unifLanes (fmtOfF m) block) i
    Finite m r ∧ ¬fNeg m r ∧
    valueOf m r = if m = 0 then ((c / 2 ^ 8 : Nat) : ℚ) / 2 ^ 24 else if m = 1 then ((c / 2 ^ 8 : Nat) : ℚ) / 2 ^ 8
      else ((c / 2 ^ 5 : Nat) : ℚ) / 2 ^ 11)

/-- R163 to R167. The RNG triggers, their blocks and the lanes of unif. -/
def Obligations.RngTriggersStepTheirRecord : Prop := RngTriggersComplete ∧ BlocksAndUniformLanes

/-! ## Scratchpad and commons triggers (chapters 04 and 06) -/

/-- R118 to R121, R125. With nothing else under way, an aligned load inside the scratchpad is performed at once and gives the
bytes at its address; ld.wf and ld.take do so when their word is full, ld.take then empties it, and both wait when it is empty; fe.rd and
fe.clr give the full-empty bit, fe.clr empties the word. No byte of memory changes. An access past the scratchpad takes SP_BOUNDS, a
misaligned one MISALIGN. -/
def Sys2Proof.Claims.ScalarLoadsRead : Prop :=
  ∀ (m : BitVec 3) (s : State), Clean s →
    let v := s.cur.vt
    let n := wOf m / 8
    let ea := (me s).lat.lsu.a.toNat
    let value := resOf m (opOf m (s.spRead v ea n))
    let emptied (t : State) : Prop := ∀ v' a, t.feGet v' a = (s.feGet v' a && !(v' == v && a / 8 == ea / 8))
    let reads (i : Instr) (tr : Trig) (m : BitVec 3) (q : Word) (fe : State → Prop) : Prop :=
      ∃ t, exec i s = .next t ∧ OnlyFlight t tr m (some (givesQ q)) ∧ SameBytes s t ∧ fe t
    let waits (i : Instr) (tr : Trig) : Prop :=
      ∃ t, exec i s = .next t ∧ OnlyFlight t tr m none ∧ SameBytes s t ∧ SameFe s t
    (SpOk ea n → reads (.lsuLd m) (.lsu .ld) m value (SameFe s)) ∧
    (SpOk ea n → Full s ea → reads (.lsuLdWf m) (.lsu .ldWf) m value (SameFe s) ∧ reads (.lsuLdTake m) (.lsu .ldTake) m value emptied) ∧
    (SpOk ea n → ¬Full s ea → waits (.lsuLdWf m) (.lsu .ldWf) ∧ waits (.lsuLdTake m) (.lsu .ldTake)) ∧
    (SpOk ea 1 →
      reads (.lsuFeRd 0) (.lsu .feRd) 0 (if s.feGet v ea then 1 else 0) (SameFe s) ∧
      reads (.lsuFeClr 0) (.lsu .feClr) 0 (if s.feGet v ea then 1 else 0) emptied) ∧
    (0x400000 < ea + n → ∀ i ∈ [Instr.lsuLd m, .lsuLdWf m, .lsuLdTake m], TrapsWith i s 0x09 (BitVec.ofNat 64 ea) 0) ∧
    (0x400000 ≤ ea → ∀ i ∈ [Instr.lsuFeRd 0, .lsuFeClr 0], TrapsWith i s 0x09 (BitVec.ofNat 64 ea) 0) ∧
    (ea + n ≤ 0x400000 → ea % n ≠ 0 → ∀ i ∈ [Instr.lsuLd m, .lsuLdWf m, .lsuLdTake m], TrapsWith i s 0x0A (BitVec.ofNat 64 ea) 0)

/-- R160, R162. vld gives the NB bytes at its address, NB in `.c` bits 7 to 0 and 128 for 0, and zeros above them; vld.wf does so when all
its words are full and waits otherwise. (An NB above 128 gives the 128 bytes that a latch holds: the model's choice, log 21.) -/
def Sys2Proof.Claims.VectorLoadsRead : Prop :=
  ∀ (s : State), Clean s →
    let v := s.cur.vt
    let ea := (me s).lat.vec.a.toNat % 2 ^ 64
    let nb := if (me s).lat.vec.c.toNat % 2 ^ 8 = 0 then 128 else (me s).lat.vec.c.toNat % 2 ^ 8
    let full := ∀ a, ea ≤ a → a < ea + nb → s.feGet v a = true
    let reads (i : Instr) (tr : Trig) : Prop :=
      ∃ t q, exec i s = .next t ∧ OnlyFlight t tr 0 (some ⟨some q, none, evNone⟩) ∧ SameBytes s t ∧ SameFe s t ∧
        ∀ k < 128, laneOf 8 q.toNat k = if k < nb then (s.spGet v (ea + k)).toNat else 0
    (ea + nb ≤ 0x400000 → ea % 8 = 0 → reads (.vecVld 0) (.vec .vld 0) ∧ (full → reads (.vecVldWf 0) (.vec .vldWf 0)) ∧
      (¬full → ∃ t, exec (.vecVldWf 0) s = .next t ∧ OnlyFlight t (.vec .vldWf 0) 0 none ∧ SameBytes s t ∧ SameFe s t)) ∧
    (0x400000 < ea + nb → ∀ i ∈ [Instr.vecVld 0, .vecVldWf 0], TrapsWith i s 0x09 (BitVec.ofNat 64 ea) 0) ∧
    (ea + nb ≤ 0x400000 → ea % 8 ≠ 0 → ∀ i ∈ [Instr.vecVld 0, .vecVldWf 0], TrapsWith i s 0x0A (BitVec.ofNat 64 ea) 0)

/-- R118 to R121, R125, R160, R162. Loads and full-empty operations of LSU and VEC. -/
def Obligations.LoadsReadTheScratchpad : Prop := ScalarLoadsRead ∧ VectorLoadsRead

/-- R119, R124, R160, R207, R222, R223. A store enters the slot's store buffer with its address, its width and its data, and no byte
of memory changes before the buffer performs it. st, st.fill and vst leave the result latches alone, c.st gives 0. A store past the
scratchpad or on the port store takes SP_BOUNDS, one past the partition COMMONS_BOUNDS, a misaligned one MISALIGN. (That vst of NB above
128 enters 128 bytes is log 21: the model's choice.) -/
def Sys2Proof.Claims.StoresEnterTheBuffer : Prop :=
  ∀ (m : BitVec 3) (s : State), Clean s →
    let n := wOf m / 8
    let ea := (me s).lat.lsu.a.toNat
    let vea := (me s).lat.vec.a.toNat % 2 ^ 64
    let nb := if (me s).lat.vec.c.toNat % 2 ^ 8 = 0 then 128 else (me s).lat.vec.c.toNat % 2 ^ 8
    let size := (s.ctx s.cur.vt.ctx).desc.cpsize * 2 ^ 20
    let enters (i : Instr) (tr : Trig) (m : BitVec 3) (kind : SbKind) (a n : Nat) (data : VWord) (res : Landing) : Prop :=
      ∃ t e, exec i s = .next t ∧ OnlyFlight t tr m (some res) ∧ SameBytes s t ∧ SameFe s t ∧
        (me t).sb = [e] ∧ e.kind = kind ∧ e.addr = a ∧ e.n = n ∧ e.data = data
    (SpOk ea n → OffPorts (myVt s) ea n →
      enters (.lsuSt m) (.lsu .st) m .st ea n ((me s).lat.lsu.b.setWidth 1024) ⟨none, none, evNone⟩ ∧
      enters (.lsuStFill m) (.lsu .stFill) m .stFill ea n ((me s).lat.lsu.b.setWidth 1024) ⟨none, none, evNone⟩) ∧
    (vea + nb ≤ 0x400000 → vea % 8 = 0 → OffPorts (myVt s) vea nb →
      enters (.vecVst 0) (.vec .vst 0) 0 .vst vea (min nb 128) (me s).lat.vec.b ⟨none, none, evNone⟩) ∧
    (ea + n ≤ size → ea % n = 0 →
      enters (.lsuCSt m) (.lsu .cSt) m .cSt ea n ((me s).lat.lsu.b.setWidth 1024) (givesQ 0)) ∧
    (0x400000 < ea + n ∨ ¬OffPorts (myVt s) ea n → ∀ i ∈ [Instr.lsuSt m, .lsuStFill m], TrapsWith i s 0x09 (BitVec.ofNat 64 ea) 0) ∧
    (ea + n ≤ 0x400000 → OffPorts (myVt s) ea n → ea % n ≠ 0 →
      ∀ i ∈ [Instr.lsuSt m, .lsuStFill m], TrapsWith i s 0x0A (BitVec.ofNat 64 ea) 0) ∧
    (0x400000 < vea + nb ∨ ¬OffPorts (myVt s) vea nb → TrapsWith (.vecVst 0) s 0x09 (BitVec.ofNat 64 vea) 0) ∧
    (vea + nb ≤ 0x400000 → OffPorts (myVt s) vea nb → vea % 8 ≠ 0 → TrapsWith (.vecVst 0) s 0x0A (BitVec.ofNat 64 vea) 0) ∧
    (size < ea + n → TrapsWith (.lsuCSt m) s 0x1A (BitVec.ofNat 64 ea) 0) ∧
    (ea + n ≤ size → ea % n ≠ 0 → TrapsWith (.lsuCSt m) s 0x0A (BitVec.ofNat 64 ea) 0)

/-- R119, R124, R161. The buffer performs its oldest store: the bytes of the entry (of a vst, those up to the end of the word) are
written, every other byte stays; st.fill sets its word full, every other bit stays; then the next store is at the head. -/
def Sys2Proof.Claims.TheBufferPerformsItsOldestStore : Prop :=
  ∀ (s : State) (r : SRef) (e : SbEntry) (rest : List SbEntry), s.active r.vt = true → (s.slot r).sb = e :: rest →
    e.kind ∈ [SbKind.st, .stFill, .vst] → 0 < e.n → (s.slot r).unperformed = [] → BanksDone s r.vt → NothingSent s r → (s.vt r.vt).spOut = [] →
    (s.vt r.vt).sp.wf = true → FeSorted (s.vt r.vt) →
    let k := if e.kind = .vst then min e.n (8 - e.addr % 8) else e.n
    ∃ t, exec (.storeBufferPerform r) s = .next t ∧
      (∀ v a, t.spGet v a = if v = r.vt ∧ e.addr ≤ a ∧ a < e.addr + k then BitVec.ofNat 8 (e.data.toNat / 256 ^ (a - e.addr))
        else s.spGet v a) ∧
      (∀ v a, t.feGet v a = (s.feGet v a || (v == r.vt && e.kind == .stFill && a / 8 == e.addr / 8))) ∧
      (k = e.n → (t.slot r).sb = rest) ∧
      (k < e.n → (t.slot r).sb = { e with addr := e.addr + k, n := e.n - k, data := e.data >>> (8 * k) } :: rest) ∧
      (t.slot r).lat = (s.slot r).lat ∧ t.rim = s.rim ∧ ∀ c, (t.ctx c).commons = (s.ctx c).commons

/-- R119, R124, R160, R161, R223. Stores: into the buffer, and from it into the scratchpad. (The clause on log 21 is the model's choice.) -/
def Obligations.StoresGoThroughTheBuffer : Prop := StoresEnterTheBuffer ∧ TheBufferPerformsItsOldestStore

/-- R122. An aligned atomic off the port store reads its word, writes the new value in the same step, gives the old one, and leaves every
other byte, every full-empty bit and every flag as they were; a.cas writes nothing when the old value differs. -/
def Obligations.AtomicsReadAndWriteInOneStep : Prop :=
  ∀ (op : LsuOp) (m : BitVec 3) (i : Instr) (s : State), atomicInstr op m = some i → i.wf = true → Clean s →
    let v := s.cur.vt
    let n := wOf m / 8
    let ea := (me s).lat.lsu.a.toNat
    let old := s.spRead v ea n
    let new := atomicResult op m old (me s).lat.lsu.b.toNat (me s).lat.lsu.c.toNat
    (SpOk ea n → OffPorts (myVt s) ea n →
      ∃ t, exec i s = .next t ∧ OnlyFlight t (.lsu op) m (some (givesQ (resOf m (opOf m old)))) ∧ SameFe s t ∧
        (∀ v' a, t.spGet v' a = match new with
          | some x => if v' = v ∧ ea ≤ a ∧ a < ea + n then BitVec.ofNat 8 (x / 256 ^ (a - ea)) else s.spGet v' a
          | none => s.spGet v' a) ∧
        t.rim = s.rim ∧ (∀ c, (t.ctx c).commons = (s.ctx c).commons) ∧
        ∀ v', (t.vt v').sticky = (s.vt v').sticky ∧ (t.vt v').satcount = (s.vt v').satcount) ∧
    (0x400000 < ea + n ∨ ¬OffPorts (myVt s) ea n → TrapsWith i s 0x09 (BitVec.ofNat 64 ea) 0) ∧
    (ea + n ≤ 0x400000 → OffPorts (myVt s) ea n → ea % n ≠ 0 → TrapsWith i s 0x0A (BitVec.ofNat 64 ea) 0)

/-- R123, R263, R266, R281. The fences complete at once with 0 and order the slot's accesses: after a fence every later access is
held back while an earlier load, atomic, commons operation or store is not performed; after a rel every later write is, and
reads are as before; after an acq every later access is, while an earlier load, atomic or commons operation is not
performed; a message that the slot sent is such a write until it is delivered. Those of scope DOMAIN wait for the slot's earlier
copies too. An access that is held back waits. fence
and rel tag the later writes with their scope. -/
def Obligations.FencesOrderTheSlotsAccesses : Prop :=
  (∀ (m : BitVec 3) (s : State), m.toNat < 5 → Present s → Room s → CopiesPastFences s s.cur →
    (∀ f ∈ (me s).ops, f.id < (me s).nextId) → (∀ e ∈ (me s).sb, e.id < (me s).nextId) →
    let v := s.cur.vt
    let mine (u : BankOp) : Prop := u ∈ (s.ctx v.ctx).bankOps ∧ u.rank = v.rank ∧ u.slot = s.cur.slot.val ∧ ¬BehindRecord (me s) u.fid
    let copies (c : Copy) : Prop := c ∈ (myVt s).copies ∧ c.slot = s.cur.slot.val ∧ c.finished = false
    let sent := Undelivered s s.cur (me s).nextId false
    (∀ u, mine u → u.fid < (me s).nextId) → (∀ c, copies c → c.fid < (me s).nextId) →
    (∀ x ∈ (myVt s).outq, ∀ k n, x.after = some (k, n) → k = s.cur.slot.val → n < (me s).nextId) →
    (∀ u ∈ (s.ctx v.ctx).bankOps, u.rank = v.rank → (myVt s).stopAt ≤ u.id) → StopPast s v →
    let reads := (∃ f ∈ (me s).ops, f.performed = false ∧ trigIsMemory f.trig = true) ∨ ∃ u, mine u
    let behind := reads ∨ (me s).sb ≠ [] ∨ sent ∨ m.toNat = 4 ∧ ∃ c, copies c
    let fires (i : Instr) (op : LsuOp) (holds : State → Prop) : Prop :=
      ∃ t f, exec i s = .next t ∧ (me t).ops = (me s).ops ++ [f] ∧ f.trig = .lsu op ∧ f.mod = m ∧ f.res = some (givesQ 0) ∧
        SameBytes s t ∧ SameFe s t ∧ (me t).sb = (me s).sb ∧ holds t
    let tagged (t : State) : Prop := ∃ g, (me t).relTag = some g ∧ g.scope = m.toNat ∧ g.rank = v.rank
    fires (.lsuFence m) .fence (fun t => (∀ w, t.heldBack s.cur w = true ↔ behind) ∧ tagged t) ∧
    fires (.lsuRel m) .rel (fun t => (t.heldBack s.cur true = true ↔ behind) ∧ t.heldBack s.cur false = s.heldBack s.cur false ∧ tagged t) ∧
    fires (.lsuAcq m) .acq (fun t => (reads → ∀ w, t.heldBack s.cur w = true) ∧ (¬reads → (me s).sb = [] → ¬sent → ∀ w, t.heldBack s.cur w = false) ∧
      (me t).relTag = (me s).relTag)) ∧
  (∀ (m : BitVec 3) (c : LineWord) (s : State),
    (s.heldBack s.cur false = true → ∀ i ∈ [Instr.lsuLd m, .lsuLdWf m, .lsuLdTake m, .lsuFeRd 0, .vecVld 0, .lsuCLd m], exec i s = .next s) ∧
    (s.heldBack s.cur true = true → ∀ i ∈ [Instr.lsuSt m, .lsuStFill m, .vecVst 0, .lsuAAdd m, .lsuASwap m, .lsuCSt m, .lsuCAddO m,
      .lsuCDecq 0, .cpeSend 0, .cpeStore 0, .msgSend 0, .mxqCmd c], exec i s = .next s))

/-- R222, R223, R225. A commons trigger sends its operation to the bank with its address and operands; an ordered update takes OSEQ and steps
it. An address past the partition takes COMMONS_BOUNDS, a misaligned one MISALIGN. -/
def Sys2Proof.Claims.CommonsTriggersGoToTheBank : Prop :=
  ∀ (op : LsuOp) (m : BitVec 3) (i : Instr) (s : State), commonsInstr op m = some i → i.wf = true → Present s → Unordered s →
    let v := s.cur.vt
    let n := commonsSize op m
    let ea := (me s).lat.lsu.a.toNat
    let size := (s.ctx v.ctx).desc.cpsize * 2 ^ 20
    let ordered := op ∈ [LsuOp.cAddO, .cMinO, .cMaxO, .cCasO, .cSwapO]
    (ea + n ≤ size → ea % n = 0 →
      ∃ t f u, exec i s = .next t ∧ (me t).ops = [f] ∧ f.trig = .lsu op ∧ f.mod = m ∧ f.res = none ∧ SameBytes s t ∧ SameFe s t ∧
        (t.ctx v.ctx).bankOps = (s.ctx v.ctx).bankOps ++ [u] ∧ u.op = op ∧ u.mod = m ∧ u.ea = ea ∧ u.b = (me s).lat.lsu.b ∧
        u.c = (me s).lat.lsu.c ∧ u.rank = v.rank ∧ u.slot = s.cur.slot.val ∧ u.fid = f.id ∧ u.oseq = (myVt s).oseq ∧
        (myVt t).oseq = if ordered then ((myVt s).oseq + 1) % 2 ^ 32 else (myVt s).oseq) ∧
    (size < ea + n → TrapsWith i s 0x1A (BitVec.ofNat 64 ea) 0) ∧
    (ea + n ≤ size → ea % n ≠ 0 → TrapsWith i s 0x0A (BitVec.ofNat 64 ea) 0)

/-- R223, R224. The bank applies a plain or unordered operation in one step: the new value is written over the bytes of the access, every
other byte of commons and every scratchpad stays, and the old value goes to the slot's operation with the flags of an `.f32` form. -/
def Sys2Proof.Claims.TheBankAppliesPlainOperations : Prop :=
  ∀ (ctx id : Nat) (s : State) (u : BankOp), BankTakes s ctx id u → u.op ∈ [LsuOp.cLd, .cAddU, .cMinU, .cMaxU, .cCasU, .cSwapU] →
    LineSound s ctx u.ea → Tbl.find? (s.ctx ctx).wtags (u.ea / 8) = none → (∀ h ∈ (s.ctx ctx).holding, h.word ≠ u.ea / 8) →
    let n := commonsSize u.op u.mod
    let old := memRead (s.ctx ctx).commons u.ea n
    let r := commonsNew u.op u.mod old u.b.toNat u.c.toNat
    ∃ t, exec (.commonsBankPerform ctx id) s = .next t ∧
      (∀ a, memGet (t.ctx ctx).commons a = match r.1 with
        | some x => if u.ea ≤ a ∧ a < u.ea + n then BitVec.ofNat 8 (x / 256 ^ (a - u.ea)) else memGet (s.ctx ctx).commons a
        | none => memGet (s.ctx ctx).commons a) ∧
      (∀ v a, t.spGet v a = s.spGet v a) ∧ (∀ c, c ≠ ctx → t.ctx c = s.ctx c) ∧
      Answered t ctx u ⟨some ((if u.op = .cLd then resOf u.mod (opOf u.mod old) else BitVec.ofNat 64 old).setWidth 1024), none, r.2⟩

/-- R225, R227. An ordered update whose bank has room enters the holding set of its word, commons unchanged; add, min and max then land
0, cas and swap land at settling. -/
def Sys2Proof.Claims.OrderedUpdatesAreHeld : Prop :=
  ∀ (ctx id : Nat) (s : State) (u : BankOp), BankTakes s ctx id u → u.op ∈ [LsuOp.cAddO, .cMinO, .cMaxO, .cCasO, .cSwapO] →
    (s.ctx ctx).holding.length < 16 → (∀ h ∈ (s.ctx ctx).holding, h.word ≠ u.ea / 8) →
    ∃ t, exec (.commonsBankPerform ctx id) s = .next t ∧
      (t.ctx ctx).holding = (s.ctx ctx).holding ++ [{ word := u.ea / 8, u := u, pen := none, arrived := 0 }] ∧
      SameBytes s t ∧
      (u.op ∈ [LsuOp.cAddO, .cMinO, .cMaxO] → Answered t ctx u (givesQ 0)) ∧
      (u.op ∈ [LsuOp.cCasO, .cSwapO] → ∃ f ∈ (t.slot ⟨⟨ctx, u.rank⟩, Fin.ofNat 8 u.slot⟩).ops, f.id = u.fid ∧ f.performed = true)

/-- R228. c.decq on a record: a count above 1 is lowered; a count of 1 becomes 0 and one message of KIND 4 goes to DEST with the
address and PAYLOAD; a count of 0 or less stays, and COUNTER_UNDERFLOW goes to the supervisor port. The operation lands 0. (That the last
message names the rank of the decrement as its sender is log 82: the model's choice.) -/
def Sys2Proof.Claims.CounterDecrements : Prop :=
  ∀ (ctx id : Nat) (s : State) (u : BankOp), BankTakes s ctx id u → u.op = .cDecq → LineSound s ctx u.ea → u.ea % 32 = 0 →
    (s.ctx ctx).holding = [] →
    let mem := (s.ctx ctx).commons
    let count := (BitVec.ofNat 64 (memRead mem u.ea 8)).toInt
    let dest := memRead mem (u.ea + 8) 8
    ∃ t, exec (.commonsBankPerform ctx id) s = .next t ∧ Answered t ctx u (givesQ 0) ∧
      (∀ a, memGet (t.ctx ctx).commons a = if 0 < count ∧ u.ea ≤ a ∧ a < u.ea + 8
        then BitVec.ofNat 8 ((count - 1).toNat / 256 ^ (a - u.ea)) else memGet mem a) ∧
      (1 < count → (t.ctx ctx).msgs = (s.ctx ctx).msgs) ∧
      (count = 1 → ∃ x, (t.ctx ctx).msgs = (s.ctx ctx).msgs ++ [x] ∧ x.kind = 4 ∧ x.srank = 0xFFFFFF ∧ x.sseq = 0 ∧
        x.drank = dest % 2 ^ 24 ∧ x.dport = dest / 2 ^ 24 % 2 ^ 5 ∧ x.dinc = dest / 2 ^ 32 % 2 ^ 24 ∧
        x.payload = [BitVec.ofNat 64 u.ea, BitVec.ofNat 64 (memRead mem (u.ea + 16) 8)]) ∧
      (count ≤ 0 → ∃ x, (t.ctx ctx).msgs = (s.ctx ctx).msgs ++ [x] ∧ x.kind = 5 ∧ x.reason = 0x24 ∧ x.toCtxPort = true ∧
        x.srank = u.rank ∧ x.payload = [BitVec.ofNat 64 u.ea])

/-- R222 to R225, R227, R228. Commons operations: the triggers, and what the bank does with them. (The clause on log 82 is the model's choice.) -/
def Obligations.CommonsOperationsAreAppliedAtTheirBank : Prop :=
  CommonsTriggersGoToTheBank ∧ TheBankAppliesPlainOperations ∧ OrderedUpdatesAreHeld ∧ CounterDecrements

/-- R71, R226. Settling is a function of the set of updates: in whatever order they entered the holding set, two runs settle a
word to the same state, since the updates are applied in ascending rank and OSEQ. -/
def Obligations.SettlingForgetsTheOrderOfArrival : Prop :=
  ∀ (s : State) (ctx w : Nat) (l l' : List HeldUpdate), l.Perm l' → (∀ h ∈ l, h.word = w) →
    (l.map (fun h => (h.u.rank, h.u.oseq))).Nodup →
    let put (l : List HeldUpdate) : State := s.inCtx ctx (fun c => { c with holding := l })
    (put l).settleWord ctx w = (put l').settleWord ctx w

/-! ## What a slot has under way (chapters 01, 04 and 12) -/

/-- R25, R26, R74. The oldest operation of a unit lands once its result is known: it leaves the slot's operations, its value is
in the result latch that the latest trigger is bound to, its flags and its count join the vtile's, and the slot's registers and
every byte of memory stay. -/
def Sys2Proof.Claims.ResultsLandInOrder : Prop :=
  ∀ (s : State) (r : SRef) (f : Flight) (l : Landing), s.active r.vt = true → f ∈ (s.slot r).ops → f.res = some l →
    ((s.slot r).ops.map Flight.id).Nodup → (∀ o ∈ (s.slot r).ops, o ≠ f → o.unit = f.unit → f.tseq < o.tseq) →
    (s.slot r).landedQ.get (unitIndex f.unit) ≤ f.tseq →
    ∃ t, exec (.resultLanding r f.unit) s = .next t ∧
      (∀ o, o ∈ (t.slot r).ops ↔ o ∈ (s.slot r).ops ∧ o ≠ f) ∧
      ((t.slot r).lat.get f.unit).q = (match l.q with
        | some q => latchValue f.unit q
        | none => ((s.slot r).lat.get f.unit).q) ∧
      (∀ u, u ≠ f.unit → (t.slot r).lat.get u = (s.slot r).lat.get u) ∧
      (t.vt r.vt).sticky = (s.vt r.vt).sticky ||| l.ev.flags ∧
      (t.vt r.vt).satcount = min ((s.vt r.vt).satcount + l.ev.sat) (2 ^ 48 - 1) ∧
      (t.slot r).x = (s.slot r).x ∧ (t.slot r).v = (s.slot r).v ∧ (t.slot r).p = (s.slot r).p ∧ (t.slot r).h = (s.slot r).h ∧
      (t.slot r).sb = (s.slot r).sb ∧ SameBytes s t ∧ SameFe s t

/-- R24, R25. Until the result of its latest trigger has landed a result latch cannot be read: the read waits, or parks on a pending
record; a landed one is read as it stands. -/
def Sys2Proof.Claims.ReadsWaitForTheLatestTrigger : Prop :=
  ∀ (s : State) (u : FUnit) (second : Bool),
    ((∀ f ∈ (me s).ops, f.unit ≠ u) →
      s.readSrc s.cur (.latch u second) = .val (if second then ((me s).lat.get u).q2 else ((me s).lat.get u).q)) ∧
    ((∃ f ∈ (me s).ops, f.unit = u ∧ (me s).landedQ.get (unitIndex u) ≤ f.tseq) →
      s.readSrc s.cur (.latch u second) = .stall ∨ s.readSrc s.cur (.latch u second) = .park u)

/-- R120, R220. A pending record is performed when its condition holds: a load that waited for its words reads them when they are full
(ld.take empties its word), a cwait lands `%batch` when no more batches than it names are unfinished. -/
def Sys2Proof.Claims.PendingRecordsArePerformed : Prop :=
  ∀ (s : State) (r : SRef) (f : Flight), s.active r.vt = true → (s.slot r).ops = [f] → (s.slot r).sb = [] → f.performed = false →
    BanksDone s r.vt → NothingSent s r → (s.vt r.vt).spOut = [] → (s.vt r.vt).marks = [] → FeSorted (s.vt r.vt) →
    let ea := f.a.toNat % 2 ^ 64
    let n := wOf f.mod / 8
    let value := givesQ (resOf f.mod (opOf f.mod (s.spRead r.vt ea n)))
    let lands (t : State) (l : Landing) : Prop := (t.slot r).ops = [{ f with res := some l, performed := true }] ∧ SameBytes s t
    (f.trig = .lsu .ldWf → ea % n = 0 → s.feGet r.vt ea = true →
      ∃ t, exec (.pendingRecordPerform r .lsu) s = .next t ∧ lands t value ∧ SameFe s t) ∧
    (f.trig = .lsu .ldTake → ea % n = 0 → s.feGet r.vt ea = true →
      ∃ t, exec (.pendingRecordPerform r .lsu) s = .next t ∧ lands t value ∧
        ∀ v a, t.feGet v a = (s.feGet v a && !(v == r.vt && a / 8 == ea / 8))) ∧
    (f.trig = .cpe .cwait → (s.vt r.vt).sealed.length ≤ ea →
      ∃ t, exec (.pendingRecordPerform r .cpe) s = .next t ∧ lands t (givesQ (s.vt r.vt).batchWord) ∧ SameFe s t)

/-- R11, R120, R131, R318. A parked slot of a resident vtile that is not held becomes READY when what it waits for has come: a full word, a
generation that differs, a hurdle that is passed, few enough batches; it goes on behind its `park` or `hwait`, but takes up a read
that waited for a record. A read of the scratchpad comes after the slot's earlier accesses and fences (R261, R266), and corrects
an error of its word (R140). A slot of the vtile of a sliced tile that does not run becomes READY when the words of its record are full. -/
def Sys2Proof.Claims.ParkedSlotsWake : Prop :=
  ∀ (s : State) (r : SRef) (c : ParkCond), (s.slot r).status = .parked → (s.slot r).park = some c →
    (s.vt r.vt).loc = .resident → (s.vt r.vt).hold = ⟨false, false⟩ →
    let ready : Slot := { s.slot r with status := .ready, park := none }
    let reads := match c with
      | .fe _ | .aw _ _ => True
      | _ => False
    let wakes (u : State) : Prop := exec (.parkWake r) s = .next (u.modSlot r (fun _ => match c with
      | .pending _ | .hold => ready
      | _ => ready.advance))
    (WakeCondition s r c → (reads → s.keptBefore r (s.slot r).nextId = false ∧ s.heldBack r false = false) →
      wakes (s.parkRead r c) ∧ (¬reads ∨ (s.vt r.vt).marks = [] → wakes s)) ∧
    (s.active r.vt = false → ∀ f, (s.slot r).ops = [f] → c = .pending f.unit → f.performed = false →
      (f.trig = .lsu .ldWf ∨ f.trig = .lsu .ldTake) → f.a.toNat % 2 ^ 64 % (wOf f.mod / 8) = 0 → s.feGet r.vt (f.a.toNat % 2 ^ 64) = true →
      wakes s)

/-- R338. After 64 supervisor issues while a user slot was eligible, the tile's next issue is forced to be a user slot's. -/
def Sys2Proof.Claims.UserIssuesAreForced : Prop :=
  ∀ (s : State) (site : Nat), 64 ≤ (s.tile site).supRun → (s.tile site).forced = false → s.userEligible site = true →
    exec (.forcedUserIssue site) s = .next (s.modTile site (fun t => { t with forced := true, supRun := 0 }))

/-- R25, R26, R120, R131, R220, R338. Landings, pending records, wakes and the forced user issue. -/
def Obligations.SlotEventsComplete : Prop :=
  ResultsLandInOrder ∧ ReadsWaitForTheLatestTrigger ∧ PendingRecordsArePerformed ∧ ParkedSlotsWake ∧ UserIssuesAreForced

/-! ## The matrix unit (chapter 06) -/

/-- R170, R172, R177. A command that passes its checks joins the queue with the next sequence number, and its completion is
awaited; a full queue makes the slot wait; poll lands the snapshot of the sequencer, whose BUSY says whether a command has begun
or an MXFENCE waits. -/
def Sys2Proof.Claims.MatrixTriggersComplete : Prop :=
  ∀ (c : LineWord) (s : State),
    let x := (myVt s).mx
    (Present s → Unordered s → CommandAccepted c → x.queue.length < 16 → ∃ t f e, exec (.mxqCmd c) s = .next t ∧ (me t).ops = [f] ∧
      f.trig = .mxq .cmd ∧ f.res = none ∧
      (myVt t).mx = { x with queue := x.queue ++ [e], nextSeq := (x.nextSeq + 1) % 2 ^ 32 } ∧
      e.c = c ∧ e.seq = x.nextSeq ∧ e.slot = s.cur.slot.val ∧ e.fid = f.id ∧ SameBytes s t ∧ SameFe s t) ∧
    (16 ≤ x.queue.length → exec (.mxqCmd c) s = .next s) ∧
    (Room s → ∃ busy : Nat, Issues (.mxqPoll 0) s (.mxq .poll) 0 (givesQ (BitVec.ofNat 64 (x.rseq + x.queue.length * 2 ^ 32 +
        (if x.held then 2 ^ 37 else 0) + busy * 2 ^ 38 + (if (myVt s).bank then 2 ^ 39 else 0)))) ∧
      (MatrixBusy s s.cur.vt → busy = 1) ∧ (¬MatrixBusy s s.cur.vt → busy = 0))

/-- R177, R200, R340. The checks of a command come in order: the eight conditions of MATRIX_COMMAND, the first of which gives its number; the
records of A, B and C (in this order: the model's choice, log 98), FORMAT with the record; SP_BOUNDS for a run past the
scratchpad, MISALIGN for a base or pitch that is no multiple, each with an address of the operand at fault (log 98). The first
that fails is the trap, and nothing of the command takes effect. -/
def Sys2Proof.Claims.MatrixCommandsAreChecked : Prop :=
  ∀ (c : LineWord) (s : State), Unordered s → (myVt s).mx.queue.length < 16 →
    let i := Instr.mxqCmd c
    (∀ n, cmdBreaks c n → (∀ k < n, ¬cmdBreaks c k) → TrapsWith i s 0x13 (word n) 0) ∧
    (CommandStands c →
      (cmdRefusesA c → TrapsWith i s 0x08 (word (cmdField c 159 128)) 0) ∧
      (¬cmdRefusesA c → cmdRefusesB c → TrapsWith i s 0x08 (word (cmdField c 191 160)) 0) ∧
      (¬cmdRefusesA c → ¬cmdRefusesB c → cmdRefusesC c → TrapsWith i s 0x08 (word (cmdField c 479 448)) 0)) ∧
    (FormatsStand c → (∃ a n, cmdRuns c a n ∧ 0x400000 < a + n) →
      ∃ a n, cmdRuns c a n ∧ 0x400000 < a + n ∧ TrapsWith i s 0x09 (word a) 0) ∧
    (RunsStand c → (∃ b p m, cmdAligned c b p m ∧ (b % m ≠ 0 ∨ p % m ≠ 0)) →
      ∃ b p m, cmdAligned c b p m ∧ (b % m ≠ 0 ∨ p % m ≠ 0) ∧ TrapsWith i s 0x0A (word b) 0)

/-- R193. RELEASE lets a held queue go on. DISCARD does nothing to a queue that is not held; of one that is, where no command runs, it retires
every command with STATUS 1 and no other effect, and the hold ends; a command that runs is let run on (R192), the hold ending with
it alone in the queue, and those behind it being marked for the same end (log 32). -/
def Sys2Proof.Claims.MatrixHoldsAreReleased : Prop :=
  ∀ (v : VRef) (s : State),
    exec (.mxctlRelease v) s = .next (s.modVt v (fun t => { t with mx := { t.mx with held := false } })) ∧
    ((s.vt v).mx.held = false → exec (.mxctlDiscard v) s = .next s) ∧
    ((s.vt v).mx.held = true → (s.vt v).mx.run.started = true →
      ((s.vt v).mx.queue.length ≤ 1 → exec (.mxctlDiscard v) s = .next (s.modVt v (fun t => { t with mx := { t.mx with held := false } }))) ∧
      (∀ e rest, (s.vt v).mx.queue = e :: rest → rest ≠ [] → exec (.mxctlDiscard v) s = .next (s.modVt v (fun t =>
        { t with mx := { t.mx with queue := e :: rest.map (fun x => { x with gone := true }) } })))) ∧
    (s.hasVt v = true → (s.vt v).mx.held = true → (s.vt v).mx.run.started = false →
      ∃ t, exec (.mxctlDiscard v) s = .next t ∧ (t.vt v).mx.queue = [] ∧ (t.vt v).mx.held = false ∧
        (t.vt v).mx.acc = (s.vt v).mx.acc ∧ (∀ e, (s.vt v).mx.queue.getLast? = some e → (t.vt v).mx.rseq = e.seq) ∧
        (∀ e, (s.vt v).mx.queue = [e] → Awaited s v e → Lands t v e (BitVec.ofNat 64 (e.seq + 2 ^ 32)) ∧ SameBytes s t))

/-- R170, R172, R177, R193. The matrix command port. -/
def Obligations.MatrixCommandPort : Prop := MatrixTriggersComplete ∧ MatrixCommandsAreChecked ∧ MatrixHoldsAreReleased

/-- R180. ACCZ zeroes the cells of its M rows and N columns and unsets their tags, and retires; ACCLD loads the exact values of one row a
step and does the same at its last row. Other cells stay. -/
def Sys2Proof.Claims.AccumulatorCommands : Prop :=
  ∀ (s : State) (v : VRef) (e : MxCmd), Awaited s v e → Tbl.sorted (s.vt v).mx.acc = true →
    let rows := e.c.toNat / 2 ^ 8 % 2 ^ 6 + 1
    let cols := e.c.toNat / 2 ^ 14 % 2 ^ 6 + 1
    let cell (s : State) (i j : Nat) : Nat := (s.vt v).mx.cell i j
    (MatrixTurn s v 0 e → (s.vt v).mx.run = .start →
      ∃ t, exec (.accz v) s = .next t ∧ Retires s t v e ∧ Lands t v e (BitVec.ofNat 64 e.seq) ∧
        (∀ i < 64, ∀ j < 64, cell t i j = if i < rows ∧ j < cols then 0 else cell s i j) ∧
        (∀ i < rows, Tbl.find? (t.vt v).mx.atag i = none) ∧ (∀ j < cols, Tbl.find? (t.vt v).mx.btag j = none) ∧
        SameBytes s t ∧ SameFe s t) ∧
    (MatrixTurn s v 1 e → (s.vt v).marks = [] → (s.vt v).mx.run.pos < rows →
      let i := (s.vt v).mx.run.pos
      let f := recordFmt (e.c.toNat / 2 ^ 128 % 2 ^ 32)
      let row := e.c.toNat / 2 ^ 64 % 2 ^ 22 + i * (e.c.toNat / 2 ^ 96 % 2 ^ 22)
      ∃ t, exec (.accld v) s = .next t ∧
        (∀ j < cols, cell t i j = (roundVal .fp32 .rn (ieeeDecode f (elemOf f j (fun o n => seen s v (row + o) n)))).1 % 2 ^ 32) ∧
        (∀ i' < 64, ∀ j < 64, i' ≠ i ∨ cols ≤ j → cell t i' j = cell s i' j) ∧
        (i + 1 < rows → (t.vt v).mx.queue = (s.vt v).mx.queue ∧ (t.vt v).mx.run.pos = i + 1) ∧
        (i + 1 = rows → Retires s t v e) ∧ SameBytes s t ∧ SameFe s t)

/-- R181. BLOAD from scratchpad moves one source row a step: element (k, c) becomes element k, from BOFF on, of slice J0 + c; the last row raises
BHWM and retires. From rim memory it first splits its source and waits for its segments. (That BHWM changes at retirement is log 38: the
model's choice.) -/
def Sys2Proof.Claims.BstoreLoads : Prop :=
  ∀ (s : State) (v : VRef) (e : MxCmd), MatrixTurn s v 2 e → Awaited s v e → (s.vt v).mx.bstore.wf = true → BstoreFresh s v →
    let cols := e.c.toNat / 2 ^ 14 % 2 ^ 6 + 1
    let kb := e.c.toNat / 2 ^ 32 % 2 ^ 18
    let rim := e.c.getLsbD 215
    let f := recordFmt (e.c.toNat / 2 ^ 128 % 2 ^ 32)
    let boff := e.c.toNat / 2 ^ 192 % 2 ^ 17
    let j0 := e.c.toNat / 2 ^ 209 % 2 ^ 6
    let k := (s.vt v).mx.run.pos
    let row := e.c.toNat / 2 ^ 64 % 2 ^ 22 + k * (e.c.toNat / 2 ^ 96 % 2 ^ 22)
    let stored (t : State) (col o n : Nat) : Nat := memRead (t.vt v).mx.bstore (131072 * col + o) n
    (rim = false → (s.vt v).marks = [] → k < kb → j0 + cols ≤ 64 → boff + rowBytes f kb ≤ 131072 → mxFormatBad e.c = none →
      ∃ t, exec (.bload v) s = .next t ∧
        (∀ c < cols, elemOf f k (fun o n => stored t (j0 + c) (boff + o) n) = elemOf f c (fun o n => seen s v (row + o) n)) ∧
        (∀ col < 64, (col < j0 ∨ j0 + cols ≤ col) → ∀ o < 131072, stored t col o 1 = stored s col o 1) ∧
        (k + 1 < kb → (t.vt v).mx.run.pos = k + 1 ∧ (t.vt v).mx.queue = (s.vt v).mx.queue) ∧
        (k + 1 = kb → Retires s t v e ∧ (t.vt v).mx.bhwm = max (s.vt v).mx.bhwm (8192 * ((boff + rowBytes f kb + 8191) / 8192))) ∧
        SameBytes s t ∧ SameFe s t) ∧
    (rim = true → (s.vt v).mx.run.started = false →
      ∃ t, exec (.bload v) s = .next t ∧ (t.vt v).mx.run.started = true ∧ (t.vt v).mx.bstore = (s.vt v).mx.bstore ∧
        ∀ g ∈ (t.vt v).mx.run.segs, g.st = .untranslated ∧ g.addr / 8192 = (g.addr + g.len - 1) / 8192) ∧
    (rim = true → (s.vt v).mx.run.started = true → (∀ g ∈ (s.vt v).mx.run.segs, g.st = .done) →
      ∃ t, exec (.bload v) s = .next t ∧ Retires s t v e)

/-- R182, R183, R185. An MMA on sources without errors: its first step takes the scales (all 1 for unscaled operands, on tags that do
not conflict); then MMA.o adds one product to each cell with one rounding, MMA.g the exact sum of up to four T6 products; the last
step retires or starts the fused drain. (The sign of a group sum that is exactly zero is log 98: the model's choice.) -/
def Sys2Proof.Claims.MultiplyAccumulates : Prop :=
  ∀ (s : State) (v : VRef) (e : MxCmd) (g : Bool), MatrixTurn s v (if g then 4 else 3) e → Awaited s v e →
    (s.vt v).marks = [] → (s.vt v).mx.bpoison = [] → Tbl.sorted (s.vt v).mx.acc = true →
    let i := if g then Instr.mmaG v else .mmaO v
    let rows := e.c.toNat / 2 ^ 8 % 2 ^ 6 + 1
    let cols := e.c.toNat / 2 ^ 14 % 2 ^ 6 + 1
    let depth := e.c.toNat / 2 ^ 20 % 2 ^ 9
    let fa := if g then Fmt.t6 else recordFmt (e.c.toNat / 2 ^ 128 % 2 ^ 32)
    let fb := if g then Fmt.t6 else recordFmt (e.c.toNat / 2 ^ 160 % 2 ^ 32)
    let abase := e.c.toNat / 2 ^ 64 % 2 ^ 22
    let apitch := e.c.toNat / 2 ^ 96 % 2 ^ 22
    let boff := e.c.toNat / 2 ^ 192 % 2 ^ 17
    let a (i k : Nat) : FVal := fmtDecode fa true (elemOf fa k (fun o n => seen s v (abase + i * apitch + o) n))
    let b (k j : Nat) : FVal := fmtDecode fb true (elemOf fb k (fun o n => (s.vt v).mx.bsRead j (boff + o) n))
    let cell (s : State) (i j : Nat) : Nat := (s.vt v).mx.cell i j
    let k := (s.vt v).mx.run.pos
    let width := if g then 4 else 1
    let term (i j t : Nat) : FVal × Ev := fMul (a i (k + t)) (b (k + t) j)
    let sum (i j n : Nat) : FVal := ((List.range (n - 1)).foldl (fun acc t => (fAdd .rn acc (term i j (t + 1)).1).1) (term i j 0).1)
    let new (i j : Nat) : Nat :=
      if g then (roundVal .fp32 .rn (fAdd .rn (ieeeDecode .fp32 (cell s i j)) (sum i j (min 4 (depth - k)))).1).1
      else (roundVal .fp32 .rn (fFma .rn (a i k) (b k j) (ieeeDecode .fp32 (cell s i j))).1).1
    ((s.vt v).mx.run.started = false → e.c.getLsbD 132 = false → e.c.getLsbD 164 = false →
      (s.vt v).mx.atag = [] → (s.vt v).mx.btag = [] →
      ∃ t, exec i s = .next t ∧ (t.vt v).mx.run.started = true ∧ (t.vt v).mx.acc = (s.vt v).mx.acc ∧
        (∀ i < rows, Tbl.find? (t.vt v).mx.atag i = some (.set 0)) ∧ (∀ j < cols, Tbl.find? (t.vt v).mx.btag j = some (.set 0))) ∧
    ((s.vt v).mx.run.started = true → (s.vt v).mx.run.draining = false → k < depth →
      ∃ t, exec i s = .next t ∧ (∀ i < rows, ∀ j < cols, cell t i j = new i j % 2 ^ 32) ∧
        (∀ i < 64, ∀ j < 64, rows ≤ i ∨ cols ≤ j → cell t i j = cell s i j) ∧
        (k + width < depth → (t.vt v).mx.run.pos = k + width ∧ (t.vt v).mx.queue = (s.vt v).mx.queue) ∧
        (depth ≤ k + width → e.c.getLsbD 5 = false → Retires s t v e) ∧
        (depth ≤ k + width → e.c.getLsbD 5 = true → (t.vt v).mx.run.draining = true ∧ (t.vt v).mx.run.pos = 0) ∧
        SameBytes s t ∧ SameFe s t)

/-- R186, R188, R189. DRAIN converts one row of cells a step and writes it packed at its row of C, every other byte as it was, its words full but
for those that a later row completes, and clears the cells with ZC; MXFENCE retires when its condition holds; MXSTAT writes its 64 bytes and, with CLR, clears the
log. -/
def Sys2Proof.Claims.DrainsAndStatus : Prop :=
  ∀ (s : State) (v : VRef) (e : MxCmd), Awaited s v e → (s.vt v).sp.wf = true → FeSorted (s.vt v) → Tbl.sorted (s.vt v).mx.acc = true →
    let rows := e.c.toNat / 2 ^ 8 % 2 ^ 6 + 1
    let cols := e.c.toNat / 2 ^ 14 % 2 ^ 6 + 1
    let cell (s : State) (i j : Nat) : Nat := (s.vt v).mx.cell i j
    let i := (s.vt v).mx.run.pos
    let f := recordFmt (e.c.toNat / 2 ^ 448 % 2 ^ 32)
    let row := e.c.toNat / 2 ^ 384 % 2 ^ 22 + i * (e.c.toNat / 2 ^ 416 % 2 ^ 22)
    let addr := e.c.toNat / 2 ^ 64 % 2 ^ 22
    let out (j : Nat) : Nat := (narrow f (rmOf (BitVec.ofNat 2 (e.c.toNat / 2 ^ 480))) (ieeeDecode .fp32 (cell s i j))).1
    let zc := e.c.getLsbD 482
    let m := (s.vt v).mx
    let later (a : Nat) : Prop := ∃ k b, i < k ∧ k < rows ∧ b / 8 = a / 8 ∧ row + (k - i) * (e.c.toNat / 2 ^ 416 % 2 ^ 22) ≤ b ∧
      b < row + (k - i) * (e.c.toNat / 2 ^ 416 % 2 ^ 22) + rowBytes f cols
    (MatrixTurn s v 5 e → e.c.getLsbD 483 = false → i < rows → mxCheck e.c = none →
      ∃ t, exec (.drain v) s = .next t ∧
        (∀ j < cols, elemOf f j (fun o n => t.spRead v (row + o) n) = out j % 2 ^ fmtBits f) ∧
        (∀ v' a, ¬(v' = v ∧ row ≤ a ∧ a < row + rowBytes f cols) → t.spGet v' a = s.spGet v' a) ∧
        (∀ a, (∃ b, row ≤ b ∧ b < row + rowBytes f cols ∧ b / 8 = a / 8) → ¬later a → t.feGet v a = true) ∧
        (∀ v' a, ¬(v' = v ∧ ∃ b, row ≤ b ∧ b < row + rowBytes f cols ∧ b / 8 = a / 8) ∨ later a → t.feGet v' a = s.feGet v' a) ∧
        (∀ i' < 64, ∀ j < 64, cell t i' j = if zc ∧ i' = i ∧ j < cols then 0 else cell s i' j) ∧
        (i + 1 < rows → (t.vt v).mx.run.pos = i + 1 ∧ (t.vt v).mx.queue = m.queue) ∧ (i + 1 = rows → Retires s t v e)) ∧
    (MatrixTurn s v 6 e → (let wk := e.c.toNat / 2 ^ 96 % 4
        (wk = 1 → s.spRead v (addr + 8) 4 ≠ e.c.toNat / 2 ^ 128 % 2 ^ 32) ∧ (wk = 2 → s.feGet v addr = true)) →
      ∃ t, exec (.mxfence v) s = .next t ∧ Retires s t v e ∧ SameBytes s t ∧ SameFe s t) ∧
    (MatrixTurn s v 7 e →
      ∃ t, exec (.mxstat v) s = .next t ∧ Retires s t v e ∧
        t.spRead v addr 4 = m.rseq % 2 ^ 32 ∧ t.spRead v (addr + 4) 4 = m.uecnt % 2 ^ 32 ∧
        (∀ k < 4, t.spRead v (addr + 8 + 8 * k) 8 = (m.uelog.getD k 0).toNat) ∧ t.spRead v (addr + 40) 8 = m.nanrec.toNat ∧
        (∀ v' a, ¬(v' = v ∧ addr ≤ a ∧ a < addr + 64) → t.spGet v' a = s.spGet v' a) ∧
        (e.c.getLsbD 96 = true → (t.vt v).mx.uecnt = 0 ∧ (t.vt v).mx.uelog = []))

/-- R179 to R189. The eight matrix commands take their steps. (Clauses on log 38 and 98 are the model's choice.) -/
def Obligations.MatrixCommandsTakeTheirSteps : Prop :=
  AccumulatorCommands ∧ BstoreLoads ∧ MultiplyAccumulates ∧ DrainsAndStatus

/-! ## Copies (chapter 07) -/

/-- R210 to R213, R217. A copy trigger whose descriptor passes its checks joins the open batch with the next copy number, and gives batch and
copy number; its segments cover its bytes and cross no 8,192-byte boundary. With 64 copies unfinished the slot waits. -/
def Sys2Proof.Claims.CopiesJoinTheOpenBatch : Prop :=
  ∀ (op : CpeOp) (i : Instr) (s : State), copyInstr op = some i → Clean s →
    let v := s.cur.vt
    let a := (me s).lat.cpe.a.toNat
    let d := s.spRead v a 32
    let unfinished := ((myVt s).copies.filter (fun c => !c.finished)).length
    (DescOk op s a d → unfinished < 64 →
      ∃ t c, exec i s = .next t ∧
        OnlyFlight t (.cpe op) 0 (some (givesQ (BitVec.ofNat 64 ((myVt s).bopen % 2 ^ 16 + (myVt s).cseq * 2 ^ 32)))) ∧
        (myVt t).copies = (myVt s).copies ++ [c] ∧ c.op = op ∧ c.desc = d ∧ c.cseq = (myVt s).cseq ∧ c.batch = (myVt s).bopen ∧
        c.slot = s.cur.slot.val ∧ c.finished = false ∧ (myVt t).cseq = ((myVt s).cseq + 1) % 2 ^ 32 ∧
        (myVt t).mseq = (if op ∈ [CpeOp.read, .muster] ∧ d.testBit 247 then ((myVt s).mseq + 1) % 2 ^ 32 else (myVt s).mseq) ∧
        (∀ g ∈ c.segs ++ c.idxSegs, 0 < g.len ∧ g.addr / 8192 = (g.addr + g.len - 1) / 8192) ∧
        (op ∈ [CpeOp.send, .read, .store] → (c.segs.map Seg.len).sum = d / 2 ^ 160 % 2 ^ 23) ∧
        (op = .muster → (c.idxSegs.map Seg.len).sum = 4 * (d / 2 ^ 224 % 2 ^ 16)) ∧
        (op = .scatter → (c.segs.map Seg.len).sum = (d / 2 ^ 224 % 2 ^ 16) * (d / 2 ^ 160 % 2 ^ 23)) ∧
        SameBytes s t ∧ SameFe s t) ∧
    (64 ≤ unfinished → exec i s = .next s)

/-- R212. The checks of a copy in their order: SP_BOUNDS and MISALIGN of the descriptor, CPE_COMMAND, SP_BOUNDS of the local range, of a
scatter's index list, of a local arrival word, and of a range that the copy writes in its own scratchpad over the port store. -/
def Sys2Proof.Claims.CopyDescriptorsAreChecked : Prop :=
  ∀ (op : CpeOp) (i : Instr) (s : State), copyInstr op = some i → Clean s →
    ((myVt s).copies.filter (fun c => !c.finished)).length < 64 →
    let a := (me s).lat.cpe.a.toNat
    let d := s.spRead s.cur.vt a 32
    let len := d / 2 ^ 160 % 2 ^ 23
    let at_ := d / 2 ^ 128 % 2 ^ 22
    let n := len * (if op ∈ [CpeOp.muster, .scatter] then d / 2 ^ 224 % 2 ^ 16 else 1)
    let list := d / 2 ^ 64 % 2 ^ 22
    let word_ := d / 2 ^ 192 % 2 ^ 22
    let listOk := op = .scatter → list + 4 * (d / 2 ^ 224 % 2 ^ 16) ≤ 0x400000
    let wordOk := d.testBit 223 = true → op ∉ [CpeOp.send, .rsend] → word_ + 16 ≤ 0x400000
    let read := a + 32 ≤ 0x400000 ∧ a % 32 = 0
    (0x400000 < a + 32 → TrapsWith i s 0x09 (BitVec.ofNat 64 a) 0) ∧
    (a + 32 ≤ 0x400000 → a % 32 ≠ 0 → TrapsWith i s 0x0A (BitVec.ofNat 64 a) 0) ∧
    (read → DescBreaks op (gridOf s) d → TrapsWith i s 0x17 (BitVec.ofNat 64 a) 0) ∧
    (read → ¬DescBreaks op (gridOf s) d →
      (0x400000 < at_ + n → TrapsWith i s 0x09 (BitVec.ofNat 64 at_) 0) ∧
      (at_ + n ≤ 0x400000 → ¬listOk → TrapsWith i s 0x09 (BitVec.ofNat 64 list) 0) ∧
      (at_ + n ≤ 0x400000 → listOk → ¬wordOk → TrapsWith i s 0x09 (BitVec.ofNat 64 word_) 0) ∧
      (at_ + n ≤ 0x400000 → listOk → wordOk → op ∈ [CpeOp.read, .muster] → ¬OffPorts (myVt s) at_ n →
        TrapsWith i s 0x09 (BitVec.ofNat 64 at_) 0) ∧
      (at_ + n ≤ 0x400000 → wordOk → op = .send → d / 2 ^ 24 % 2 ^ 24 = s.cur.vt.rank → ¬OffPorts (myVt s) (d % 2 ^ 22) len →
        TrapsWith i s 0x09 (BitVec.ofNat 64 (d % 2 ^ 22)) 0))

/-- R20, R220. seal closes a batch that holds copies, which counts as unfinished while one of them is, and opens the next; an empty batch
stays open; with 63 unfinished batches it waits. cwait lands `%batch` at once when few enough batches are unfinished, and is a
pending record otherwise. -/
def Sys2Proof.Claims.BatchesAreSealedAndAwaited : Prop :=
  ∀ (s : State), Clean s →
    let t0 := myVt s
    let held := t0.copies.any (fun c => c.batch == t0.bopen)
    let busy := t0.copies.any (fun c => c.batch == t0.bopen && !c.finished)
    (held = false → ∃ t, exec (.cpeSeal 0) s = .next t ∧
      OnlyFlight t (.cpe .seal) 0 (some (givesQ (BitVec.ofNat 64 (t0.bopen % 2 ^ 16)))) ∧ (myVt t).bopen = t0.bopen ∧
      (myVt t).sealed = t0.sealed ∧ (myVt t).copies = t0.copies ∧ SameBytes s t) ∧
    (held = true → (busy = false ∨ t0.sealed.length ≠ 63) →
      ∃ t, exec (.cpeSeal 0) s = .next t ∧ OnlyFlight t (.cpe .seal) 0 (some (givesQ (BitVec.ofNat 64 (t0.bopen % 2 ^ 16 + 2 ^ 16)))) ∧
        (myVt t).bopen = t0.bopen + 1 ∧ (myVt t).sealed = (if busy then t0.sealed ++ [t0.bopen] else t0.sealed) ∧
        SameBytes s t) ∧
    (busy = true → t0.sealed.length = 63 → exec (.cpeSeal 0) s = .next s) ∧
    (t0.sealed.length ≤ (me s).lat.cpe.a.toNat →
      ∃ t, exec (.cpeCwait 0) s = .next t ∧ OnlyFlight t (.cpe .cwait) 0 (some (givesQ (BitVec.ofNat 64
        (t0.bopen % 2 ^ 16 + t0.sealed.headD t0.bopen % 2 ^ 16 * 2 ^ 16 + t0.sealed.length * 2 ^ 32 +
          if held then 2 ^ 38 else 0))))) ∧
    ((me s).lat.cpe.a.toNat < t0.sealed.length →
      ∃ t, exec (.cpeCwait 0) s = .next t ∧ OnlyFlight t (.cpe .cwait) 0 none ∧ SameBytes s t)

/-- R210 to R213, R217, R220. The triggers of CPE. -/
def Obligations.CopyTriggersComplete : Prop := CopiesJoinTheOpenBatch ∧ CopyDescriptorsAreChecked ∧ BatchesAreSealedAndAwaited

/-- R31. A landing of n bytes on an arrival word with a target adds to its count, and each time the target is reached takes it off and steps
the generation; without a target the count saturates. -/
def Sys2Proof.Claims.ArrivalWordsCount : Prop :=
  ∀ (s : State) (v : VRef) (w n : Nat), s.hasVt v = true → (s.vt v).spOut = [] → (s.vt v).sp.wf = true →
    let target := s.spRead v w 4
    let count := s.spRead v (w + 4) 4
    let t := s.arrive v w n
    (target ≠ 0 → t.spRead v (w + 4) 4 = (count + n) % target ∧
      t.spRead v (w + 8) 4 = (s.spRead v (w + 8) 4 + (count + n) / target) % 2 ^ 32) ∧
    (target = 0 → t.spRead v (w + 4) 4 = min (count + n) (2 ^ 32 - 1) ∧ t.spRead v (w + 8) 4 = s.spRead v (w + 8) 4) ∧
    t.spRead v w 4 = target ∧ ∀ a, (a < w + 4 ∨ w + 12 ≤ a) → t.spGet v a = s.spGet v a

/-- R299, R300. A walk of four tables of 8 KiB pages in local rim memory, stage 2 being off: the leaf gives the address; NOT_MAPPED for
an address of more than 53 bits or an entry with V = 0, PERM without the permission, HOME where the address has none. -/
def Sys2Proof.Claims.TranslationWalksTheTables : Prop :=
  ∀ (s : State) (d : CtxDesc) (va : Nat) (write : Bool) (a0 a1 a2 a3 e0 e1 e2 e3 : Nat), d.s2en = false →
    let index (k : Nat) : Nat := va / 2 ^ (43 - 10 * k) % 2 ^ 10
    let at_ (p a : Nat) (e : Nat) : Prop := s.home p = .rim a ∧ s.rimPoisoned a 8 = false ∧ e = s.rimRead a 8
    let step (e : Nat) : Prop := e % 2 ^ 13 = 1
    at_ (d.s1root + 8 * index 0) a0 e0 → step e0 → at_ (e0 / 8192 * 8192 + 8 * index 1) a1 e1 → step e1 →
    at_ (e1 / 8192 * 8192 + 8 * index 2) a2 e2 → step e2 → at_ (e2 / 8192 * 8192 + 8 * index 3) a3 e3 →
    let leaf := e3 % 2 = 1 ∧ e3 / 2 % 2 = 1 ∧ e3 / 2 ^ 4 % 2 = 0 ∧ e3 / 2 ^ 10 % 8 = 0
    let may := e3 / (if write then 2 ^ 3 else 2 ^ 2) % 2 = 1
    let pa := e3 / 8192 * 8192 + va % 8192
    (2 ^ 53 ≤ va → s.translate d va write = .error 1) ∧
    (va < 2 ^ 53 → e3 % 2 = 0 → s.translate d va write = .error 1) ∧
    (va < 2 ^ 53 → leaf → ¬may → s.translate d va write = .error 2) ∧
    (va < 2 ^ 53 → leaf → may → s.home pa = .none → s.translate d va write = .error 6) ∧
    (va < 2 ^ 53 → leaf → may → s.home pa ≠ .none → ∃ p q, s.translate d va write = .ok (pa, p, q))

/-- R63, R215. A segment's translation makes it ready at its physical address, or it waits and the supervisor is told the reason, or a
record that is refused holds the vtile and abandons the segment and every later one of the copy, whose earlier segments still land. (Which
segments are later is log 94: the model's choice.) -/
def Sys2Proof.Claims.SegmentsAreTranslated : Prop :=
  ∀ (s s' : State) (v : VRef) (c : Copy) (k : Nat) (g : Seg) (x : SegXlat), CopyAlone s v c → c.idxSegs = [] →
    c.segs[k]? = some g → g.st = .untranslated → DoneBefore s ⟨v, Fin.ofNat 8 c.slot⟩ →
    s.xlatSegment v g.addr (c.op == .store || c.op == .scatter) none = (s', x) →
    let q : Word32 := BitVec.ofNat 32 c.cseq
    let later (h : Seg) : Prop := g.row < h.row ∨ (h.row = g.row ∧ g.addr ≤ h.addr)
    let left := ∃ h ∈ c.segs, ¬later h ∧ h.st ≠ .done
    ∃ t, exec (.segmentTranslation v (.copy q) k) s = .next t ∧
      (∀ pa page, x = .ok pa page →
        ∃ c', (t.vt v).copies = [c'] ∧ c'.segs[k]? = some { g with st := .ready pa, page := page, dying := false }) ∧
      (∀ r, x = .fault r → (∃ c', (t.vt v).copies = [c'] ∧ c'.segs[k]? = some { g with st := .fault r }) ∧
        ∃ m, (t.ctx v.ctx).msgs = (s.ctx v.ctx).msgs ++ [m] ∧ m.kind = 5 ∧ m.reason = 0x23 ∧
          m.payload = [BitVec.ofNat 64 g.addr, BitVec.ofNat 64 (r + c.cseq * 2 ^ 16)]) ∧
      (∀ r, x = .format r → (t.vt v).hold.fmt = true ∧ (¬left → (t.vt v).copy? c.cseq = none) ∧
        (left → ∃ c', (t.vt v).copies = [c'] ∧ c'.status = 1 ∧ c'.segs.length = c.segs.length ∧ ∀ (j : Nat) (h : Seg), c.segs[j]? = some h →
          (later h → c'.segs[j]? = some { h with st := .done }) ∧ (¬later h → c'.segs[j]? = some h)))

/-- R29, R31, R213, R214, R216 to R218. A segment that lands (with no release before it) moves its bytes unchanged: read and muster from rim memory
into the scratchpad, the words set full; send into the destination's scratchpad likewise; store and scatter into rim memory, but for
bytes that a later row has written. An arrival word counts the segment, or the row once it is whole; every other byte stays; the copy
finishes with its last segment. (That a later row's bytes stay is log 39, and that a segment lands in one step log 80: both are the model's
choice.) -/
def Sys2Proof.Claims.SegmentsLand : Prop :=
  ∀ (s : State) (v : VRef) (c : Copy) (k : Nat) (g : Seg) (pa : Nat), CopyAlone s v c → c.idxSegs = [] → c.tag = none →
    c.segs[k]? = some g → g.st = .ready pa → DoneBefore s ⟨v, Fin.ofNat 8 c.slot⟩ →
    s.active v = true → (s.vt v).spOut = [] → (s.vt v).marks = [] → (s.vt v).sp.wf = true → FeSorted (s.vt v) →
    s.rim.poison = [] → s.rim.mem.wf = true →
    let i := Instr.copyLanding v (.copy (BitVec.ofNat 32 c.cseq)) k
    let last := ∀ j h, c.segs[j]? = some h → j ≠ k → h.st = .done
    let finishes (t : State) : Prop := last → (t.vt v).copy? c.cseq = none ∧
      (t.vt v).sealed = (s.vt v).sealed.filter (fun b => b != c.batch)
    let rows := c.op ∈ [CpeOp.muster, .scatter]
    let rowWhole := (∀ j h, c.segs[j]? = some h → j ≠ k → h.row = g.row → h.st = .done) ∧ g.row ∉ c.spoiled
    let counts := c.desc.testBit 223 = true ∧ (rows → rowWhole)
    let word_ := c.desc / 2 ^ 192 % 2 ^ 22
    let counter (v' u : VRef) (a : Nat) : Prop := v' = u ∧ counts ∧ word_ + 4 ≤ a ∧ a < word_ + 12
    let counted (t : State) (u : VRef) : Prop :=
      let total := s.spRead u (word_ + 4) 4 + (if rows then c.desc / 2 ^ 160 % 2 ^ 23 else g.len)
      counts → (s.spRead u word_ 4 ≠ 0 → t.spRead u (word_ + 4) 4 = total % s.spRead u word_ 4 ∧
          t.spRead u (word_ + 8) 4 = (s.spRead u (word_ + 8) 4 + total / s.spRead u word_ 4) % 2 ^ 32) ∧
        (s.spRead u word_ 4 = 0 → t.spRead u (word_ + 4) 4 = min total (2 ^ 32 - 1) ∧
          t.spRead u (word_ + 8) 4 = s.spRead u (word_ + 8) 4)
    let lands (t : State) (u : VRef) (at_ : Nat) (byte : Nat → Byte) : Prop :=
      (∀ v' a, ¬counter v' u a →
        t.spGet v' a = if v' = u ∧ at_ ≤ a ∧ a < at_ + g.len then byte (a - at_) else s.spGet v' a) ∧
      (∀ a, at_ ≤ a → a < at_ + g.len → t.feGet u a = true) ∧ t.rim = s.rim ∧
      (word_ + 16 ≤ at_ ∨ at_ + g.len ≤ word_ → counted t u)
    (c.op ∈ [CpeOp.read, .muster] → ∀ a, s.home pa = .rim a →
      ∃ t, exec i s = .next t ∧ lands t v g.loc (fun n => memGet s.rim.mem (a + n)) ∧ finishes t) ∧
    (c.op = .send → ∀ u, u = ⟨v.ctx, c.desc / 2 ^ 24 % 2 ^ 24⟩ → s.hasVt u = true → (s.vt u).inc = c.desc / 2 ^ 64 % 2 ^ 24 →
      (s.vt u).loc = .resident → (s.vt u).spOut = [] → (s.vt u).sp.wf = true → FeSorted (s.vt u) →
      OffPorts (s.vt u) g.addr g.len →
      ∃ t, exec i s = .next t ∧ lands t u g.addr (fun n => s.spGet v (g.loc + n)) ∧ finishes t) ∧
    (c.op ∈ [CpeOp.store, .scatter] → ∀ a, s.home pa = .rim a →
      let later (n : Nat) : Prop := c.op = .scatter ∧ ∃ o ∈ c.segs, g.row < o.row ∧ ∃ p, o.landed = some p ∧ p ≤ pa + n ∧ pa + n < p + o.len
      ∃ t, exec i s = .next t ∧
        (∀ b, (a ≤ b ∧ b < a + g.len ∧ ¬later (b - a) → memGet t.rim.mem b = s.spGet v (g.loc + (b - a))) ∧
          (¬(a ≤ b ∧ b < a + g.len ∧ ¬later (b - a)) → memGet t.rim.mem b = memGet s.rim.mem b)) ∧
        (∀ v' b, ¬counter v' v b → t.spGet v' b = s.spGet v' b) ∧ counted t v ∧ finishes t)

/-- R216, R219. The index read of a muster makes segments of the rows whose indices it has; a ring transfer that has room reserves its bytes, one to
a ring that cannot take it is dead-lettered with RING_FAULT's reason, one to a vtile that is gone with STALE's. -/
def Sys2Proof.Claims.MustersAndRingsStart : Prop :=
  ∀ (s : State) (v : VRef) (c : Copy), CopyAlone s v c → DoneBefore s ⟨v, Fin.ofNat 8 c.slot⟩ →
    let q : Word32 := BitVec.ofNat 32 c.cseq
    (∀ g pa a idx, c.op = .muster → c.cutRow = none → c.idxSegs = [g] → g.st = .ready pa → g.loc = 0 → g.len = 4 → c.segs = [] → c.idxBytes = [] →
      c.desc / 2 ^ 224 % 2 ^ 16 = 1 → 0 < c.desc / 2 ^ 160 % 2 ^ 23 → s.home pa = .rim a → s.rim.poison = [] →
      idx = s.rimRead a 4 →
      ∃ t c', exec (.musterIndexRead v q) s = .next t ∧ (t.vt v).copies = [c'] ∧ SameBytes s t ∧
        (c'.segs.map Seg.len).sum = c.desc / 2 ^ 160 % 2 ^ 23 ∧
        ∀ h, c'.segs.head? = some h → h.addr = c.desc % 2 ^ 64 + idx * (c.desc / 2 ^ 160 % 2 ^ 23) ∧ h.st = .untranslated) ∧
    (∀ u (n : Fin 8), c.op = .rsend → c.segs = [] → u = ⟨v.ctx, c.desc / 2 ^ 24 % 2 ^ 24⟩ → n.val = c.desc % 2 ^ 3 →
      let len := c.desc / 2 ^ 160 % 2 ^ 23
      let g := (s.vt u).rings.get n
      let gone := s.hasVt u = false ∨ (s.vt u).inc ≠ c.desc / 2 ^ 64 % 2 ^ 24
      let fits := g.logsz ≠ 0 ∧ len ≤ 2 ^ g.logsz ∧ OffPorts (s.vt u) g.base (2 ^ g.logsz)
      (¬gone → fits → ((((g.res : Int) + len - g.drain) % 2 ^ 32).toNat ≤ 2 ^ g.logsz) →
        ∃ t, exec (.ringReservation v q) s = .next t ∧ ((t.vt u).rings.get n).res = (g.res + len) % 2 ^ 32 ∧
          ((t.vt u).rings.get n).fill = g.fill ∧ SameBytes s t) ∧
      (gone ∨ ¬fits → ∃ t m, exec (.ringReservation v q) s = .next t ∧ (t.ctx v.ctx).msgs = (s.ctx v.ctx).msgs ++ [m] ∧ m.kind = 5 ∧
        m.reason = (if gone then 0x06 else 0x07) ∧ (t.vt v).copy? c.cseq = none))

/-- R29, R31, R63, R213 to R219, R299, R300. The copy engine's steps. (Clauses on log 39, 80 and 94 are the model's choice.) -/
def Obligations.CopyEngineMovesBytes : Prop :=
  ArrivalWordsCount ∧ TranslationWalksTheTables ∧ SegmentsAreTranslated ∧ SegmentsLand ∧ MustersAndRingsStart

/-! ## Messages (chapters 06 and 08) -/

/-- R202 to R204, R344. send, sendv, sendr and svc queue one message with the vtile's next SSEQ, and give that number; a destination or an
operand that breaks R203 or R204 takes MSG_COMMAND; a payload past the scratchpad SP_BOUNDS, a misaligned one MISALIGN; with 32
messages queued the slot waits. (That NB above 128 takes MSG_COMMAND is log 43: the model's choice.) -/
def Obligations.MessageTriggersComplete : Prop :=
  ∀ (s : State), Clean s →
    let v := s.cur.vt
    let a := (me s).lat.msg.a
    let b := (me s).lat.msg.b
    let c := (me s).lat.msg.c
    let n := payloadBytes c.toNat
    let words := (List.range (n / 8)).map (fun i => BitVec.ofNat 64 (s.spRead v (a.toNat + 8 * i) 8))
    let bytesOk := n % 8 = 0 ∧ n ≤ 128
    let ringOk := b.toNat / 2 ^ 24 % 2 ^ 5 ≤ 7 ∧ c.toNat / 2 ^ 8 % 2 ^ 8 = 0 ∧ c.toNat / 2 ^ 39 = 0 ∧
      (c.getLsbD 38 = true → c.toNat / 2 ^ 16 % 2 ^ 4 = 0)
    let aw := if c.getLsbD 38 then some (c.toNat / 2 ^ 16 % 2 ^ 22) else none
    ((myVt s).outq.length < 32 →
      (DestOk s b.toNat → Queues (.msgSend 0) s (.msg .send) 0 (fun g => GoesTo g b.toNat ∧ g.kind = 0 ∧ g.reason = 0 ∧ g.payload = [a, c])) ∧
      (¬DestOk s b.toNat → ∀ i ∈ [Instr.msgSend 0, .msgSendv 0, .msgSendr 0], TrapsWith i s 0x16 b 0) ∧
      (DestOk s b.toNat → bytesOk → a.toNat + n ≤ 0x400000 → a.toNat % 8 = 0 →
        (c.toNat < 2 ^ 8 → Queues (.msgSendv 0) s (.msg .sendv) 0 (fun g => GoesTo g b.toNat ∧ g.kind = 1 ∧ g.reason = 0 ∧ g.payload = words)) ∧
        (ringOk → Queues (.msgSendr 0) s (.msg .sendr) 0 (fun g => GoesTo g b.toNat ∧ g.kind = 6 ∧ g.payload = words ∧
          g.ring = some (b.toNat / 2 ^ 24 % 2 ^ 5) ∧ g.aw = aw)) ∧
        (¬ringOk → TrapsWith (.msgSendr 0) s 0x16 b 0)) ∧
      (¬bytesOk → ∀ i ∈ [Instr.msgSendv 0, .msgSendr 0], TrapsWith i s 0x16 b 0) ∧
      (2 ^ 8 ≤ c.toNat → TrapsWith (.msgSendv 0) s 0x16 b 0) ∧
      (DestOk s b.toNat → bytesOk → c.toNat < 2 ^ 8 →
        (0x400000 < a.toNat + n → ∀ i ∈ [Instr.msgSendv 0, .msgSendr 0], TrapsWith i s 0x09 a 0) ∧
        (a.toNat + n ≤ 0x400000 → a.toNat % 8 ≠ 0 → ∀ i ∈ [Instr.msgSendv 0, .msgSendr 0], TrapsWith i s 0x0A a 0)) ∧
      (b.toNat < 2 ^ 16 → Queues (.msgSvc 0) s (.msg .svc) 0 (fun g => GoesTo g (s.ctx v.ctx).desc.supdest.toNat ∧ g.kind = 2 ∧ g.payload = [b, a, c])) ∧
      (2 ^ 16 ≤ b.toNat → TrapsWith (.msgSvc 0) s 0x16 b 0)) ∧
    ((myVt s).outq.length = 32 → ∀ i ∈ [Instr.msgSend 0, .msgSendv 0, .msgSendr 0, .msgSvc 0], exec i s = .next s)

/-- R206, R207, R246, R248, R332. A message of an interface that arrives: a rank that is not populated, another incarnation and a disabled port make a
dead letter with its reason, the two header words and the payload; else it enters its port, at a free place of the port's region where there is one, or the pen of a vtile out of its
tile or halted, or of a full port with OVF = 0; a full port with OVF = 1 makes a dead letter and a PORT_OVERFLOW message. (No earlier message of the sender is on
its way: the premises rule it out.) -/
def Sys2Proof.Claims.MessagesArrive : Prop :=
  ∀ (s : State) (ctx id : Nat) (m : Msg), (s.ctx ctx).msgs = [m] → m.id = id → m.kind ≠ 5 → m.ring = none → m.tags = [] → m.poison = 0 →
    (m.kind = 3 → (s.vt ⟨ctx, m.srank⟩).outq = []) → (s.vt ⟨ctx, m.srank⟩).copies = [] →
    let v : VRef := ⟨ctx, m.drank⟩
    let i := Instr.messageDelivery ctx id
    let p := (s.vt v).port m.dport
    let held := p.visible.length + p.windowed.length + p.claimed
    let taken (k : Nat) : Prop := (∃ x ∈ p.visible ++ p.windowed, x.place = k) ∨
      ∃ r ∈ (s.vt v).fq, ∃ x ∈ r.msgs, x.1 = m.dport ∧ x.2.place = k
    let rcap := min 256 ((s.vt v).psSize / 32 / 144)
    let inPlace (t : State) (k : Nat) : Prop := (∃ j < rcap, ¬taken j) → k < rcap ∧ ¬taken k ∧
      ∀ b < 144, t.spGet v ((s.vt v).psBase + (s.vt v).psSize / 32 * m.dport + 144 * k + b) = m.entryBytes.getD b 0
    let dead (reason : Nat) : Prop := ∃ t d, exec i s = .next t ∧ (t.ctx ctx).msgs = [d] ∧ d.kind = 5 ∧ d.reason = reason ∧
      d.drank = (s.ctx ctx).desc.dldest.toNat % 2 ^ 24 ∧ d.srank = m.srank ∧ d.sseq = m.sseq ∧
      d.payload = m.header0 :: m.header1 :: m.payload.take 14 ∧ t.vt v = s.vt v
    (s.hasVt v = false → dead 0x02) ∧
    (s.hasVt v = true → (s.vt v).inc ≠ m.dinc → dead 0x01) ∧
    (s.hasVt v = true → (s.vt v).inc = m.dinc → m.dport < 32 →
      ((s.vt v).loc = .resident → (s.vt v).halted = false → p.en = false → dead 0x03) ∧
      ((s.vt v).loc = .resident → (s.vt v).halted = false → p.en = true → (s.vt v).spOut = [] → (∀ k : Fin 32, ((s.vt v).pats.get k).getLsbD 40 = false) →
        (s.vt v).sp.wf = true →
        (held < p.cap + 1 → (p.ovf = true ∨ p.parked = 0) →
          ∃ t k, exec i s = .next t ∧ (t.ctx ctx).msgs = [] ∧ (t.vt v).slots = (s.vt v).slots ∧ inPlace t k ∧
            (p.ord = false → ((t.vt v).port m.dport).visible = p.visible ++ [{ m with place := k }]) ∧
            (p.ord = true → p.windowed.length + 1 < p.win →
              ((t.vt v).port m.dport).windowed = p.windowed ++ [{ m with place := k }])) ∧
        (p.cap + 1 ≤ held → p.ovf = true →
          ∃ t d f, exec i s = .next t ∧ (t.ctx ctx).msgs = [d, f] ∧ d.reason = 0x04 ∧ f.reason = 0x10 ∧ f.srank = v.rank ∧
            f.payload = [BitVec.ofNat 64 (v.rank + m.dport * 2 ^ 24 + (s.vt v).inc * 2 ^ 32), BitVec.ofNat 64 (m.srank + m.sseq * 2 ^ 32)])) ∧
      (((s.vt v).loc ≠ .resident ∨ (s.vt v).halted = true ∧ (s.vt v).loc = .resident ∨
          (s.vt v).loc = .resident ∧ p.en = true ∧ (s.vt v).spOut = [] ∧ p.ovf = false ∧ (p.cap + 1 ≤ held ∨ p.parked ≠ 0)) →
        (s.vt v).pen.length < 21845 →
        ∃ t, exec i s = .next t ∧ ((s.vt v).loc ≠ .absent → (t.ctx ctx).msgs = []) ∧ (t.vt v).pen = (s.vt v).pen ++ [m] ∧
          ((t.vt v).port m.dport).parked = p.parked + 1 ∧ ((t.vt v).port m.dport).visible = p.visible))

/-- R12, R15, R20, R36, R243, R244. The head record of the firing queue starts in the lowest FREE slot: cleared, at the handler's line and slot
with its privilege, the messages' words and senders in the x registers and their payloads in the v registers, their number in
x31; a handler that is not VALID makes it take HANDLER_INVALID. -/
def Sys2Proof.Claims.FiringsStart : Prop :=
  ∀ (s : State) (v : VRef) (k : Fin 8) (m : MatchRec) (rest : List MatchRec), s.hasVt v = true → (s.vt v).fq = m :: rest →
    (s.slot ⟨v, k⟩).status = .free → (∀ j < k, (s.slot ⟨v, j⟩).status ≠ .free) → (s.vt v).loc = .resident →
    (s.vt v).hold = ⟨false, false⟩ → (s.vt v).spOut = [] → (∀ q ∈ m.msgs, q.2.poison = 0) → (s.vt v).pen = [] →
    let h := m.handler.toNat
    ∃ t, exec (.firingStart v) s = .next t ∧ (∃ more, (t.vt v).fq = rest ++ more) ∧ (∀ j, j ≠ k → t.slot ⟨v, j⟩ = s.slot ⟨v, j⟩) ∧ SameBytes s t ∧
      (let sl := t.slot ⟨v, k⟩;
        sl.status = .ready ∧ sl.ix = 5 * (h / 2 ^ 6 % 2 ^ 48) + h % 2 ^ 3 ∧ sl.sup = h.testBit 55 ∧ sl.p = 0 ∧ sl.lat = .zero ∧ sl.ops = [] ∧ sl.rep = [] ∧
        sl.sb = (s.slot ⟨v, k⟩).sb ∧ sl.firing = m.firing ∧
        m.firing = BitVec.ofNat 64 (m.pat + m.hnd * 2 ^ 5 + m.prio * 2 ^ 10 + (if m.qd then 2 ^ 13 else 0) + (if m.ord then 2 ^ 14 else 0) +
          m.fseq * 2 ^ 32) ∧
        sl.x.get 0 = 0 ∧ sl.x.get 31 = BitVec.ofNat 64 m.msgs.length ∧
        (∀ n : Fin 15, ∀ q, m.msgs[n.val]? = some q →
          sl.x.get ⟨2 * n.val + 1, by omega⟩ = q.2.payload.getD 0 0 ∧
          sl.x.get ⟨2 * n.val + 2, by omega⟩ = BitVec.ofNat 64 (q.2.srank + q.2.sinc * 2 ^ 32)) ∧
        (∀ n : Fin 16, ∀ q, m.msgs[n.val]? = some q → ∀ w < 16, laneOf 64 (sl.v.get n).toNat w = (q.2.payload.getD w 0).toNat) ∧
        (h.testBit 54 = true → sl.pendTrap = none) ∧
        (h.testBit 54 = false → ∃ r, sl.pendTrap = some r ∧ r.code = 0x07 ∧ r.tval = BitVec.ofNat 64 m.hnd))

/-- R278. A stripped write is reported once the releaser's stores are performed: one message of REASON SCOPE_MISS with the place, the scope of
the tag, the span, the releaser and the number. -/
def Sys2Proof.Claims.ScopeMissesAreReported : Prop :=
  ∀ (s : State) (ctx id : Nat) (x : Miss), (s.ctx ctx).misses = [x] → x.id = id →
    (∀ k : Fin 8, (s.slot ⟨⟨x.tag.ctx, x.tag.rank⟩, k⟩).sb = []) →
    ∃ t, exec (.scopeMiss ctx id) s = .next t ∧ (t.ctx ctx).misses = [] ∧ SameBytes s t ∧
      Sends s t ctx (fun m => m.kind = 5 ∧ m.reason = 0x27 ∧ m.srank = 0xFFFFFF ∧ m.sseq = 0 ∧
        m.payload = [x.where_, BitVec.ofNat 64 (x.tag.scope + x.need * 2 ^ 3 + x.loc * 2 ^ 6),
          BitVec.ofNat 64 (x.tag.rank + x.tag.inc * 2 ^ 32), x.seqno])

/-- R12, R15, R36, R206, R243, R244, R246, R248, R278, R332. Delivery, firing starts and scope misses. -/
def Obligations.MessagesArriveAndFiringsStart : Prop := MessagesArrive ∧ FiringsStart ∧ ScopeMissesAreReported

/-- R33 to R36, R207 to R209. The PAT triggers give the old descriptor, entry or masks, and write what they name; a descriptor that R209
refuses or a bad handler entry takes PAT_CONFIG, a bad pattern PATTERN_FORMAT, a supervisor handler from a user slot PRIVILEGE.
(No message is parked in the pen; parked ones re-enter by R247. That WIN above CAP + 1 is refused whatever ORD is, is log 82: the
model's choice.) -/
def Obligations.PatternTriggersComplete : Prop :=
  ∀ (s : State), Present s → Room s → (myVt s).pen = [] →
    let a := (me s).lat.pat.a
    let k : Fin 32 := Fin.ofNat 32 (me s).lat.pat.b.toNat
    let ka : Fin 32 := Fin.ofNat 32 a.toNat
    let t0 := myVt s
    let done (i : Instr) (op : PatOp) (q : Word → Prop) (ports : Fin 32 → Port → Prop) (pats : Fin 32 → BitVec 128 → Prop)
        (hnds : Fin 32 → Word → Prop) : Prop :=
      ∃ t f w, exec i s = .next t ∧ (me t).ops = (me s).ops ++ [f] ∧ f.trig = .pat op ∧ f.res = some (givesQ w) ∧ q w ∧
        (∀ j, ports j ((myVt t).ports.get j)) ∧ (∀ j, pats j ((myVt t).pats.get j)) ∧ (∀ j, hnds j ((myVt t).hnds.get j)) ∧
        (myVt t).fq = t0.fq ∧ SameBytes s t ∧ SameFe s t
    let samePorts (j : Fin 32) (p : Port) : Prop := p = t0.ports.get j
    let samePats (j : Fin 32) (p : BitVec 128) : Prop := p = t0.pats.get j
    let sameHnds (j : Fin 32) (p : Word) : Prop := p = t0.hnds.get j
    let enables (b : Bool) (j : Fin 32) (p : Port) : Prop := p = { t0.ports.get j with en := if a.getLsbD (32 + j.val) then b else (t0.ports.get j).en }
    let enablesPat (b : Bool) (j : Fin 32) (e : BitVec 128) : Prop := ∀ n < 128, e.getLsbD n =
      if n = 40 ∧ a.getLsbD j.val = true then b else (t0.pats.get j).getLsbD n
    let mayEnable (b : Bool) : Prop := ∀ j : Fin 32, a.getLsbD (32 + j.val) = true → ∃ d, PortHas { t0.ports.get j with en := b } d ∧ PortTakes t0 (t0.ports.get j) d
    (a.toNat < 2 ^ 19 → PortTakes t0 (t0.ports.get k) a.toNat →
      done (.patPcfg 0) .pcfg (fun w => w = portWord (t0.ports.get k))
        (fun j p => if j = k then PortHas p a.toNat ∧ p.visible = (t0.ports.get k).visible else samePorts j p) samePats sameHnds) ∧
    ((2 ^ 19 ≤ a.toNat ∨ ¬PortTakes t0 (t0.ports.get k) a.toNat) → TrapsWith (.patPcfg 0) s 0x18 a 0) ∧
    done (.patPrd 0) .prd (fun w => w = portWord (t0.ports.get ka)) samePorts samePats sameHnds ∧
    (PatternTakes a.toNat → done (.patPset 0) .pset (fun w => w = (t0.pats.get k).setWidth 64) samePorts
      (fun j e => e = if j = k then a.setWidth 128 else t0.pats.get j) sameHnds) ∧
    (¬PatternTakes a.toNat → TrapsWith (.patPset 0) s 0x19 a 0) ∧
    done (.patPget 0) .pget (fun w => w = (t0.pats.get ka).setWidth 64) samePorts samePats sameHnds ∧
    (let slotOk := a.toNat % 2 ^ 3 < 5 ∧ a.toNat / 2 ^ 3 % 2 ^ 3 = 0 ∧ a.toNat / 2 ^ 56 = 0;
      (slotOk → (a.getLsbD 55 = true → (me s).sup = true) → done (.patHset 0) .hset (fun w => w = t0.hnds.get k) samePorts samePats
        (fun j e => e = if j = k then a else t0.hnds.get j)) ∧
      (slotOk → a.getLsbD 55 = true → (me s).sup = false → TrapsWith (.patHset 0) s 0x03 0 0) ∧
      (¬slotOk → TrapsWith (.patHset 0) s 0x18 a 0)) ∧
    done (.patHget 0) .hget (fun w => w = t0.hnds.get ka) samePorts samePats sameHnds ∧
    ((∀ j, (t0.ports.get j).cap < 2 ^ 8 ∧ (t0.ports.get j).win < 2 ^ 8) →
    (mayEnable true → done (.patPen 0) .pen (enabledWord t0) (enables true) (enablesPat true) sameHnds) ∧
    (¬mayEnable true → TrapsWith (.patPen 0) s 0x18 a 0) ∧
    (mayEnable false → done (.patPdis 0) .pdis (enabledWord t0) (enables false) (enablesPat false) sameHnds) ∧
    (¬mayEnable false → TrapsWith (.patPdis 0) s 0x18 a 0))

/-! ## Configuration items (chapter 12) -/

/-- R350 to R352. fsr swaps CSEL with its operand; cfgrd gives the item of the own vtile; cfgwr writes an item of the own vtile at once, as the
item's event, and gives the old value. What R351 refuses takes CONFIG with CSEL. -/
def Sys2Proof.Claims.SysTriggersComplete : Prop :=
  ∀ (s : State), Present s → Room s →
    let v := s.cur.vt
    let c := cselOf s
    let a := (me s).lat.sys.a
    let item := c / 2 ^ 48
    let own := c % 2 ^ 24 = v.rank
    let t0 := myVt s
    let reads : Word := match item with
      | 0 => if t0.mx.held then 4 else 0
      | 1 => BitVec.ofNat 64 ((if t0.hold.fmt ∨ t0.hold.trap then 1 else 0) + (if t0.hold.fmt then 2 else 0) + (if t0.hold.trap then 4 else 0))
      | 2 => BitVec.ofNat 64 t0.tfbase
      | _ => 0
    let inGrid := c % 2 ^ 24 < (s.ctx v.ctx).desc.vx * (s.ctx v.ctx).desc.vy
    let fired (q : Word) : State := s.modSlot s.cur (fun sl => sl.fire (.sys .cfgwr) 0 (givesQ q))
    exec (.sysFsr 0) s = .next (s.modSlot s.cur (fun sl => { sl.fire (.sys .fsr) 0 (givesQ sl.csel) with csel := a })) ∧
    (item ≤ 4 → own → Issues (.sysCfgrd 0) s (.sys .cfgrd) 0 (givesQ reads)) ∧
    ((4 < item ∨ ¬own) → TrapsWith (.sysCfgrd 0) s 0x1C (me s).csel 0) ∧
    (own → inGrid → ItemTakes item a.toNat → (item = 2 → OffPorts t0 a.toNat 0x8000) → ThenDoes (.sysCfgwr 0) s (fired reads) (itemEvent v item a)) ∧
    (inGrid → ¬own → item = 4 → a.toNat < 64 → ThenDoes (.sysCfgwr 0) s (fired 0) (itemEvent v 4 a)) ∧
    ((own ∨ t0.outq.length < 32) → (¬inGrid ∨ ¬ItemTakes item a.toNat ∨ (own ∧ item = 2 ∧ ¬OffPorts t0 a.toNat 0x8000)) →
      TrapsWith (.sysCfgwr 0) s 0x1C (me s).csel 0)

/-- R353. A cfgwr to another rank sends a CFG_WRITE with CSEL and the value and gives 0; it waits while the outbound queue is full. The message
has the item's effect at its target; a value that the target refuses is reported with CFG_REFUSED; a halted target takes it into
its pen, and one that finds the pen full is a dead letter, with a PORT_OVERFLOW message (R246); another incarnation makes a dead
letter. That it waits for the queue is the model's choice (log 44). -/
def Sys2Proof.Claims.RemoteWritesTravel : Prop :=
  (∀ (s : State), Present s → Room s →
    let c := cselOf s
    let a := (me s).lat.sys.a
    let item := c / 2 ^ 48
    c % 2 ^ 24 ≠ s.cur.vt.rank → item < 4 →
    ((myVt s).outq.length < 32 → c % 2 ^ 24 < (s.ctx s.cur.vt.ctx).desc.vx * (s.ctx s.cur.vt.ctx).desc.vy → ItemTakes item a.toNat →
      ∃ t g f, exec (.sysCfgwr 0) s = .next t ∧ (me t).ops = (me s).ops ++ [f] ∧ f.trig = .sys .cfgwr ∧ f.res = some (givesQ 0) ∧
        (myVt t).outq = (myVt s).outq ++ [g] ∧ (myVt t).mseq = ((myVt s).mseq + 1) % 2 ^ 32 ∧ g.sseq = (myVt s).mseq ∧ g.kind = 5 ∧
        g.reason = 0x15 ∧ g.drank = c % 2 ^ 24 ∧ g.dinc = c / 2 ^ 24 % 2 ^ 24 ∧ g.payload = [(me s).csel, a] ∧ SameBytes s t ∧ SameFe s t) ∧
    ((myVt s).outq.length = 32 → exec (.sysCfgwr 0) s = .next s)) ∧
  (∀ (s : State) (ctx id : Nat) (m : Msg) (csel val : Word), (s.ctx ctx).msgs = [m] → m.id = id → m.kind = 5 → m.reason = 0x15 → m.payload = [csel, val] →
    let v : VRef := ⟨ctx, m.drank⟩
    let item := csel.toNat / 2 ^ 48
    let s' := s.inCtx ctx (fun c => { c with msgs := [] })
    let i := Instr.cfgWrite ctx id
    s.hasVt v = true →
    ((s.vt v).inc = m.dinc → ItemTakes item val.toNat →
      ((s.vt v).halted = false → (item = 2 → OffPorts (s.vt v) val.toNat 0x8000) → ThenDoes i s s' (itemEvent v item val)) ∧
      ((s.vt v).halted = false → item = 2 → ¬OffPorts (s.vt v) val.toNat 0x8000 →
        ∃ t, exec i s = .next t ∧ t.vt v = s.vt v ∧ Sends s' t ctx (fun x => x.kind = 5 ∧ x.reason = 0x2B ∧ x.srank = v.rank ∧
          x.payload = [csel, val, BitVec.ofNat 64 (m.srank + m.sinc * 2 ^ 32)])) ∧
      ((s.vt v).halted = true → (s.vt v).pen.length < 21845 →
        ∃ t, exec i s = .next t ∧ (t.vt v).pen = (s.vt v).pen ++ [m] ∧ (t.vt v).slots = (s.vt v).slots) ∧
      ((s.vt v).halted = true → 21845 ≤ (s.vt v).pen.length →
        ∃ t d f, exec i s = .next t ∧ t.vt v = s.vt v ∧ (t.ctx ctx).msgs = [d, f] ∧ d.kind = 5 ∧ d.reason = 0x04 ∧ f.kind = 5 ∧ f.reason = 0x10 ∧
          f.srank = v.rank ∧ f.payload.getD 1 0 = BitVec.ofNat 64 (m.srank + m.sseq * 2 ^ 32))) ∧
    ((s.vt v).inc ≠ m.dinc →
      ∃ t, exec i s = .next t ∧ t.vt v = s.vt v ∧ Sends s' t ctx (fun x => x.kind = 5 ∧ x.reason = 0x01 ∧ x.srank = m.srank ∧ x.sseq = m.sseq)))

/-- R215, R352, R353, R402. RELEASE ends a hold and nothing else of the slots; ABORT ends every firing; TFBASE takes a value that lies in the scratchpad and
off the port store; SEGRST restarts or drops the waiting segments of a copy, and finishes it when all are dropped; HGRES lets a
group of the context go on. -/
def Sys2Proof.Claims.ItemWritesTakeEffect : Prop :=
  ∀ (s : State) (v : VRef), s.hasVt v = true →
    ((s.vt v).hold = ⟨false, false⟩ → exec (.holdRelease v) s = .next s) ∧
    ((s.vt v).hold ≠ ⟨false, false⟩ → ∃ t, exec (.holdRelease v) s = .next t ∧ (t.vt v).hold = ⟨false, false⟩ ∧
      (t.vt v).slots = (s.vt v).slots ∧ SameBytes s t) ∧
    (∃ t, exec (.holdAbort v) s = .next t ∧ (∀ k : Fin 8, (t.slot ⟨v, k⟩).status = .free) ∧ (t.vt v).hold = ⟨false, false⟩ ∧
      (t.vt v).halted = (s.vt v).halted ∧ (t.vt v).pend = (s.vt v).pend ∧ ((s.vt v).hold = ⟨false, false⟩ → (t.vt v).fq = []) ∧ SameBytes s t) ∧
    (∀ val : Word, val.toNat % 0x8000 = 0 → val.toNat + 0x8000 ≤ 0x400000 → OffPorts (s.vt v) val.toNat 0x8000 →
      exec (.tfbaseWrite v val) s = .next (s.modVt v (fun t => { t with tfbase := val.toNat }))) ∧
    (∀ val : Word, (val.toNat % 0x8000 ≠ 0 ∨ 0x400000 < val.toNat + 0x8000 ∨ ¬OffPorts (s.vt v) val.toNat 0x8000) →
      exec (.tfbaseWrite v val) s = .next s) ∧
    (∀ c, CopyAlone s v c → c.idxSegs = [] →
      let o := SegOwner.copy (BitVec.ofNat 32 c.cseq)
      let waits (g : Seg) : Prop := ∃ r, g.st = .fault r
      ((∃ g ∈ c.segs, waits g) → ∃ t c', exec (.segrstRestart v o) s = .next t ∧ (t.vt v).copies = [c'] ∧ c'.status = c.status ∧ SameBytes s t ∧
        c'.segs.length = c.segs.length ∧
        ∀ (k : Nat) (g g' : Seg), c.segs[k]? = some g → c'.segs[k]? = some g' → (waits g → g' = { g with st := .untranslated }) ∧ (¬waits g → g' = g)) ∧
      ((∃ g ∈ c.segs, waits g) → (∀ g ∈ c.segs, waits g ∨ g.st = .done) → c.op = .store →
        ∃ t, exec (.segrstAbandon v o) s = .next t ∧ (t.vt v).copy? c.cseq = none ∧ SameBytes s t)) ∧
    (∀ g : Fin 64, exec (.hgres v g) s = .next (if Tbl.find? s.crook.owners g.val = some (v.ctx, false)
      then { s with crook := { s.crook with stopped := s.crook.stopped &&& ~~~(1#64 <<< g.val) } } else s))

/-- R193, R215, R350 to R353, R402. The SYS triggers and the writes of configuration items. (That a remote cfgwr waits for the outbound queue is log 44: the
model's choice.) -/
def Obligations.ConfigurationItemsAreReadAndWritten : Prop := SysTriggersComplete ∧ RemoteWritesTravel ∧ ItemWritesTakeEffect

/-! ## Held traps and halts (chapter 12) -/

/-- R192, R284, R340, R341, R343. A trap raised at a firing's start is taken as R343 says. A held trap is taken by its slot, while that firing runs untrapped,
before every other held trap of it that comes later in R341's order; for a firing that has ended it becomes a message. Each entry
waits for the units it writes, and the stores before it. -/
def Sys2Proof.Claims.HeldTrapsAreDelivered : Prop :=
  (∀ (s : State) (r : SRef) (q : TrapReq), (s.slot r).pendTrap = some q → s.running r.vt = true →
    (EntersAtOnce s r →
      exec (.trapEntry r) s = .next ((s.modSlot r (fun sl => { sl with pendTrap := none })).takeTrap r q (s.slot r).ix false none)) ∧
    (¬EntersAtOnce s r → ∀ t, exec (.trapEntry r) s ≠ .next t)) ∧
  (∀ (s : State) (v : VRef) (k : Nat) (h : HeldTrap), s.hasVt v = true → (s.vt v).held[k]? = some h → h.req.code < 2 ^ 8 → h.req.move < 8 →
    let r : SRef := ⟨v, Fin.ofNat 8 h.slot⟩
    let s' := s.modVt v (fun t => { t with held := t.held.eraseIdx k })
    let runs := (s.slot r).fser = h.fser ∧ (s.slot r).status ≠ .free
    (runs → (s.slot r).status ≠ .trapped → s.running v = true →
      (∀ j o, j ≠ k → (s.vt v).held[j]? = some o → o.slot = h.slot → o.fser = h.fser → HeldBefore h o) →
      (EntersAtOnce s r → exec (.heldTrapDelivery v k) s = .next (s'.takeTrap r h.req (s.slot r).ix true h.replay)) ∧
      (¬EntersAtOnce s r → ∀ t, exec (.heldTrapDelivery v k) s ≠ .next t)) ∧
    (¬runs → ∃ t, exec (.heldTrapDelivery v k) s = .next t ∧ t.vt v = s'.vt v ∧ Sends s t v.ctx (fun m => m.kind = 5 ∧ m.srank = v.rank ∧
      m.sinc = (s.vt v).inc ∧
      (h.req.code = 0x14 → m.reason = 0x25 ∧ m.payload = [h.req.tval, BitVec.ofNat 64 h.slot]) ∧
      (h.req.code = 0x15 → m.reason = 0x26 ∧ m.payload = [h.req.tval, BitVec.ofNat 64 h.slot]) ∧
      (h.req.code ≠ 0x14 → h.req.code ≠ 0x15 → m.reason = 0x20 ∧
        m.payload = [causeWord h.req true false, h.req.tval, h.req.tinst, BitVec.ofNat 64 h.slot]))))

/-- R361, R362, R402. A stop reaches a vtile or a hart of a stopped group, which then is halted, the debug halt of a hart stops its groups, and a resume reaches one none of whose groups is
stopped; a halted vtile's parked message re-enters its port. Nothing else changes. -/
def Sys2Proof.Claims.HaltsStopAndResume : Prop :=
  ∀ (s : State),
    (∀ v, s.hasVt v = true → (s.ctx v.ctx).regs.suspending = false → (s.tile (s.vt v).site).pairNext = none → (s.vt v).halted = false →
      (s.vt v).hgroups &&& s.crook.stopped ≠ 0 →
      exec (.haltStop (.vtile v)) s = .next (s.modVt v (fun t => { t with halted := true }))) ∧
    (∀ v, s.hasVt v = true → (s.vt v).halted = true → (s.vt v).hgroups &&& s.crook.stopped = 0 →
      ((s.vt v).pen = [] → (s.vt v).defer = 0 →
        exec (.haltResume (.vtile v)) s = .next (s.modVt v (fun t => { t with halted := false }))) ∧
      (∀ m, (s.vt v).pen = [m] → m.kind ≠ 5 → m.dport < 32 → (s.vt v).loc = .resident → (∀ k : Fin 32, ((s.vt v).pats.get k).getLsbD 40 = false) →
        let p := (s.vt v).port m.dport
        p.en = true → p.ord = false → p.visible.length + p.windowed.length + p.claimed < p.cap + 1 →
        ∃ t k, exec (.haltResume (.vtile v)) s = .next t ∧ (t.vt v).halted = false ∧ (t.vt v).pen = [] ∧
          ((t.vt v).port m.dport).visible = p.visible ++ [{ m with place := k }] ∧ ((t.vt v).port m.dport).parked = p.parked - 1 ∧ (t.vt v).slots = (s.vt v).slots)) ∧
    (∀ h : Fin 32,
      (setHas s.crook.hartHalted h.val = false → Tbl.getD s.crook.hartGrp h.val 0 &&& s.crook.stopped ≠ 0 →
        ∃ t, exec (.haltStop (.hart h)) s = .next t ∧ setHas t.crook.hartHalted h.val = true ∧ t.crook.stopped = s.crook.stopped ∧
          t.ctxs = s.ctxs ∧ t.rim = s.rim) ∧
      (setHas s.crook.hartHalted h.val = false → Tbl.getD s.crook.hartGrp h.val 0 &&& s.crook.stopped = 0 →
        ∃ t, exec (.haltStop (.hart h)) s = .next t ∧ setHas t.crook.hartHalted h.val = true ∧
          t.crook.stopped = s.crook.stopped ||| Tbl.getD s.crook.hartGrp h.val 0 ∧ t.ctxs = s.ctxs ∧ t.rim = s.rim) ∧
      (s.crook.hartHalted = [h.val] → Tbl.getD s.crook.hartGrp h.val 0 &&& s.crook.stopped = 0 →
        exec (.haltResume (.hart h)) s = .next { s with crook := { s.crook with hartHalted := [] } }))

/-- R192, R284, R340, R341, R343, R361, R362, R402. Traps that wait, and halts. -/
def Obligations.HeldTrapsAndHaltsReachTheirTargets : Prop := HeldTrapsAreDelivered ∧ HaltsStopAndResume

/-! ## Launches (chapters 08 and 11) -/

/-- R229, R230, R233, R313, R320. A valid launch record of one flock is taken: its entry is consumed and its herd joins the context's; an existing
flock runs again under the record's herd and priority; a new one waits, ready, with its ranks populated from the template,
absent, with every slot FREE. A record that is not valid is reported, with the ranks that are permanently retired, and its entry
consumed; one that cannot be read has the context torn down. -/
def Sys2Proof.Claims.LaunchRecordsAreTaken : Prop :=
  ∀ (s : State) (ctx : Nat) (q : Fin 16), QueueTakes s ctx q → (s.ctx ctx).herds = [] →
    let x := s.queue ctx q.val
    let va := x.base + 64 * (x.head % 2 ^ x.logn)
    let i := Instr.launchQueueTake ctx q
    let taken (t : State) : Prop := (t.queue ctx q.val).head = (x.head + 1) % 2 ^ 32 ∧ (t.queue ctx q.val).tail = x.tail
    (∀ r p, s.checkLaunch ctx va = .good r [p] → (s.flock ctx p.fidx).run = false →
      ∃ t h, exec i s = .next t ∧ taken t ∧ (t.ctx ctx).herds = [h] ∧ h.num = r % 2 ^ 16 ∧ h.entry = x.head ∧ h.queue = q.val ∧ h.todo = [p.fidx] ∧
        h.target = BitVec.ofNat 64 (r / 2 ^ 64) ∧ h.payload = BitVec.ofNat 64 (r / 2 ^ 128) ∧
        (let f := t.flock ctx p.fidx;
          f.run = true ∧ f.finArm = false ∧ f.herd = r % 2 ^ 16 ∧ f.prio = r / 2 ^ 21 % 2 ^ 3 ∧ f.arg = BitVec.ofNat 64 (r / 2 ^ 256) ∧
          f.retire = p.retire ∧ f.sen = p.sen ∧ f.sport = p.sport ∧
          (p.template = none → f.st = (s.flock ctx p.fidx).st ∧ (f.st ≠ .resident → f.ready = true)) ∧
          (∀ tp, p.template = some tp → f.st = .waiting ∧ f.ready = true ∧ f.x0 = p.x0 ∧ f.y0 = p.y0 ∧ f.w = p.w ∧ f.h = p.h ∧
            ∀ k ∈ p.ranks (s.ctx ctx).desc.vx, t.hasVt ⟨ctx, k⟩ = true ∧
              (let vt := t.vt ⟨ctx, k⟩;
                vt.loc = .absent ∧ vt.flock = p.fidx ∧ vt.inc = Tbl.getD (s.ctx ctx).incs k 0 ∧ vt.psBase = tp.psBase ∧ vt.psSize = tp.psSize ∧
                vt.fq = [] ∧ vt.mseq = 0 ∧ vt.sticky = 0 ∧ vt.tfbase = 0x3F8000 ∧ (∀ n, vt.slots.get n = Slot.blank) ∧
                ∀ n : Fin 32, vt.pats.get n = BitVec.ofNat 128 (tp.pats.getD n.val 0) ∧ vt.hnds.get n = BitVec.ofNat 64 (tp.hnds.getD n.val 0) ∧
                  PortHas (vt.ports.get n) (tp.ports.getD n.val 0))))) ∧
    (∀ idx reason bad gone, s.checkLaunch ctx va = .bad idx reason bad gone →
      ∃ t ms, exec i s = .next t ∧ taken t ∧ (t.ctx ctx).flocks = (s.ctx ctx).flocks ∧ (t.ctx ctx).vts = (s.ctx ctx).vts ∧
        (t.ctx ctx).msgs = (s.ctx ctx).msgs ++ ms ∧ ms.length = gone.length + 1 ∧
        (∀ (j k : Nat), gone[j]? = some k → ∃ m, ms[j]? = some m ∧ m.kind = 5 ∧ m.reason = 0x14 ∧ m.srank = 0xFFFFFF ∧
          m.payload = [BitVec.ofNat 64 k]) ∧
        ∃ m, ms[gone.length]? = some m ∧ m.kind = 5 ∧ m.reason = 0x13 ∧ m.srank = 0xFFFFFF ∧
          m.payload = [BitVec.ofNat 64 va, BitVec.ofNat 64 (idx + reason * 2 ^ 8), BitVec.ofNat 64 bad]) ∧
    (s.checkLaunch ctx va = .ue → ∃ t, exec i s = .next t ∧ t.inputs = .teardown ctx 0x11 :: s.inputs ∧ t.ctxs = s.ctxs)

/-- R229 to R232. Which launch records are good, for a record whose queue entry holds no bad byte: one of one flock is good when its
pages translate, the record keeps R229 and the flock descriptor R230, and the flock exists with the same rectangle, or is new
with a TEMPLATE aligned to 64, members that are neither populated nor retired, a template that keeps R231, R35, R36 and R209, and
an initial image whose pages translate. Else it is bad, with index 0xFF for the record itself and 0 for the descriptor, the reason and address
of a failed translation or zeros, and the retired members of a new flock, each once. A good record of several flocks has
as many as NFLOCK says, with different flock indices (log 52: the model's choice) and no rank twice. A bad byte in the
queue entry is an error of its own. -/
def Sys2Proof.Claims.LaunchRecordsAreValidated : Prop :=
  ∀ (s : State) (ctx va : Nat),
    let c := (s.ctx ctx).desc
    let found := s.checkLaunch ctx va
    (∀ e a, s.virtPieces c va 64 = .error (e, a) → found = .bad 0xFF e a []) ∧
    (∀ ps, s.virtPieces c va 64 = .ok ps →
      ((∃ p ∈ ps, ∃ i < p.2, s.homeBad p.1 i = true) → found = .ue) ∧
      ((∀ p ∈ ps, ∀ i < p.2, s.homeBad p.1 i = false) → ∀ r, s.virtRead c va 64 = .ok r →
        (RecordBreaks r → found = .bad 0xFF 0 0 []) ∧
        (∀ r' plans, found = .good r' plans → r' = r ∧ ¬RecordBreaks r ∧ plans.length = r / 2 ^ 16 % 2 ^ 5 ∧
          plans.Pairwise (fun p q => p.fidx ≠ q.fidx ∧ ∀ k ∈ p.ranks c.vx, k ∉ q.ranks c.vx)) ∧
        (¬RecordBreaks r → r / 2 ^ 16 % 2 ^ 5 = 1 →
          (∀ e a, s.virtRead c (r / 2 ^ 192 % 2 ^ 64) 64 = .error (e, a) → found = .bad 0 e a []) ∧
          ∀ d, s.virtRead c (r / 2 ^ 192 % 2 ^ 64) 64 = .ok d →
            let f := s.flock ctx (d % 2 ^ 14)
            let same := f.x0 = d / 2 ^ 32 % 2 ^ 32 ∧ f.y0 = d / 2 ^ 64 % 2 ^ 32 ∧ f.w = d / 2 ^ 96 % 2 ^ 32 ∧ f.h = d / 2 ^ 128 % 2 ^ 32
            let clash := d / 2 ^ 192 % 2 ^ 6 ≠ 0 ∨ ∃ k, MemberOf c d k ∧ (s.hasVt ⟨ctx, k⟩ = true ∨ k ∈ (s.ctx ctx).retired)
            (DescriptorBreaks c d → found = .bad 0 0 0 []) ∧
            (¬DescriptorBreaks c d → f.st ≠ .nonexistent → same → ∃ p, found = .good r [p] ∧ Describes p d ∧ p.template = none) ∧
            (¬DescriptorBreaks c d → f.st ≠ .nonexistent → ¬same → found = .bad 0 0 0 []) ∧
            (¬DescriptorBreaks c d → f.st = .nonexistent → clash →
              ∃ gone, found = .bad 0 0 0 gone ∧ gone.Nodup ∧ ∀ k, k ∈ gone ↔ MemberOf c d k ∧ k ∈ (s.ctx ctx).retired) ∧
            (¬DescriptorBreaks c d → f.st = .nonexistent → ¬clash →
              (∀ e a, s.virtRead c (d / 2 ^ 192 % 2 ^ 64) 1088 = .error (e, a) → found = .bad 0 e a []) ∧
              ∀ w, s.virtRead c (d / 2 ^ 192 % 2 ^ 64) 1088 = .ok w →
                (TemplateBreaks w → found = .bad 0 0 0 []) ∧
                (¬TemplateBreaks w →
                  (∀ e a, s.virtPieces c (w / 2 ^ 64 % 2 ^ 64) (w / 2 ^ 128 % 2 ^ 32) = .error (e, a) → found = .bad 0 e a []) ∧
                  ∀ qs, s.virtPieces c (w / 2 ^ 64 % 2 ^ 64) (w / 2 ^ 128 % 2 ^ 32) = .ok qs →
                    ∃ p tp, found = .good r [p] ∧ Describes p d ∧ p.template = some tp ∧ TemplateHas tp w)))))

/-- R18, R235 to R238. The launch of a flock finishes once hurdle 15 has armed it and every member has nothing to do: RUN clears, NFIN counts it, its
status record says so, and the herd's last flock sends the completion message with the OR of the sticky flags, after which
PROG passes the entry. With RETIRE its ranks are gone. -/
def Sys2Proof.Claims.LaunchesFinish : Prop :=
  ∀ (s : State) (ctx fidx : Nat) (h : Herd) (rank : Nat) (vt : Vtile),
    let f := s.flock ctx fidx
    let x := s.queue ctx h.queue
    let i := Instr.flockFinish ctx fidx
    (s.ctx ctx).regs.st = .live → f.run = true → f.finArm = true → f.w = 1 → f.h = 1 → rank = f.y0 * (s.ctx ctx).desc.vx + f.x0 →
    (s.ctx ctx).vts = [(rank, vt)] → ¬AtWork vt → BanksDone s ⟨ctx, rank⟩ → (s.ctx ctx).herds = [h] → h.todo = [fidx] → h.queue < 16 → h.entry = x.prog →
    s.rim.mem.wf = true →
    ∃ t m, exec i s = .next t ∧ (t.flock ctx fidx).run = false ∧ (t.flock ctx fidx).nfin = (f.nfin + 1) % 2 ^ 64 ∧ (t.ctx ctx).herds = [] ∧
      (t.queue ctx h.queue).prog = (x.prog + 1) % 2 ^ 32 ∧ m ∈ (t.ctx ctx).msgs ∧ m.kind = 5 ∧ m.reason = 0x11 ∧ m.srank = 0xFFFFFF ∧
      GoesTo m h.target.toNat ∧ m.payload = [h.payload, BitVec.ofNat 64 (h.num + (h.agg ||| vt.sticky).toNat * 2 ^ 16)] ∧
      t.rimRead (s.rimAt ((s.ctx ctx).desc.flocktab + 16 * fidx) + 8) 8 = (f.nfin + 1) % 2 ^ 64 ∧
      (f.retire = false → (t.ctx ctx).vts = [(rank, vt)] ∧ (t.flock ctx fidx).st = f.st) ∧
      (f.retire = true → (t.ctx ctx).vts = [] ∧ (t.flock ctx fidx).st = .nonexistent ∧
        (vt.inc < 2 ^ 24 - 1 → Tbl.getD (t.ctx ctx).incs rank 0 = vt.inc + 1))

/-- R314, R315, R316, R318, R320, R321. A switched-out queue that wants it becomes active while fewer than 512 are; a ready flock of one
vtile takes a bank of a free live tile; a waiting flock ages by a step each AGEQ; one that is urgent, at level 0 after eight steps,
and fits nowhere makes the one resident flock that has been there for QUANT leave, when those that leave already do not give it
room and this one does, and makes none leave where they do or it does not; of a sliced pair the one that does not run
moves to a free tile of its fold. (Which tile is the shepherd's choice: log 8. That victims are taken one at a time, as long as they
help: log 55. That a sliced vtile that moves counts one rotation more: log 56. All three are the model's choice.) -/
def Sys2Proof.Claims.TheShepherdPlacesAndAges : Prop :=
  (∀ (s : State) (ctx : Nat) (q : Fin 16), (s.ctx ctx).regs.st = .live → (s.ctx ctx).regs.suspending = false → (s.queue ctx q.val).en = true →
    (s.queue ctx q.val).swout = true → (s.queue ctx q.val).want = true → s.activeQueues.length < 512 →
    exec (.queueSwitchIn ctx q) s = .next (s.modQueue ctx q.val (fun x => { x with swout := false, want := false }))) ∧
  (∀ (s : State) (ctx fidx n : Nat) (f : Flock), s.readyFlocks = [(ctx, fidx, f)] → s.flock ctx fidx = f → f.st = .waiting ∨ f.st = .rotatedOut →
    f.w = 1 → f.h = 1 → (∀ n b v, (s.tile n).bank b ≠ some v) → s.regs.held = [] → TileFree s n →
    let v : VRef := ⟨ctx, f.y0 * (s.ctx ctx).desc.vx + f.x0⟩
    s.hasVt v = true →
    ∃ t k, exec (.placement ctx fidx) s = .next t ∧ TileFree s k ∧ (t.vt v).site = k ∧ (t.tile k).bank (t.vt v).bank = some v ∧
      (t.vt v).bank = !(s.tile k).sel ∧ (t.vt v).slice = false ∧ (t.flock ctx fidx).st = .goingIn ∧ (t.flock ctx fidx).ready = false ∧
      (∀ m, m ≠ k → t.tile m = s.tile m)) ∧
  (∀ (s : State) (ctx fidx : Nat), (s.ctx ctx).regs.st = .live → (s.ctx ctx).regs.suspending = false →
    let f := s.flock ctx fidx
    let n := (s.regs.cycle - f.waitStart) / (max 1 s.regs.ageq * 1250)
    f.ready = true → f.st ≠ .resident → f.aging < n →
    exec (.agingStep ctx fidx) s = .next (s.modFlock ctx fidx (fun f => { f with aging := n }))) ∧
  (∀ (s : State) (ctx fidx c2 i2 : Nat) (f g : Flock), s.readyFlocks = [(ctx, fidx, f)] → s.flock ctx fidx = f → f.st = .waiting ∨ f.st = .rotatedOut →
    let n := (s.regs.cycle - f.waitStart) / (max 1 s.regs.ageq * 1250)
    f.prio ≤ n → 8 ≤ n → s.fit ctx fidx [] = none → s.residents = [(c2, i2, g)] →
    Tbl.find? (s.ctx c2).flocks i2 = some g → s.regs.quant * 1250 ≤ s.regs.cycle - g.residentSince →
    let helps := s.fitsWith ctx fidx s.leaving = false ∧ s.fitsWith ctx fidx (s.leaving ++ [(c2, i2)]) = true
    (helps → ∃ t, exec (.placement ctx fidx) s = .next t ∧ (t.flock c2 i2).victim = true ∧ t.tiles = s.tiles) ∧
    (¬helps → ∀ t, exec (.placement ctx fidx) s ≠ .next t)) ∧
  (∀ (s : State) (ctx i n : Nat) (v u : VRef), (s.flock ctx i).st = .resident → (s.flock ctx i).victim = false → s.members ctx i = [v] →
    s.hasVt v = true → s.hasVt u = true → v ≠ u → v.ctx = ctx →
    (s.vt v).slice = true → (s.vt v).loc = .resident → (s.vt v).halted = false → UnitsCanonical s v →
    (s.tile (s.vt v).site).bank (s.tile (s.vt v).site).sel = some u → (s.tile (s.vt v).site).bank (!(s.tile (s.vt v).site).sel) = some v →
    (∀ k < 512, k ∈ (s.vt v).spOut) → (s.vt v).mx.bhwm = 0 → s.regs.held = [] → (s.vt v).site < 5376 → TileFree s n →
    foldOfSite n = foldOfSite (s.vt v).site →
    ∃ t k, exec (.placement ctx i) s = .next t ∧ TileFree s k ∧ foldOfSite k = foldOfSite (s.vt v).site ∧ (t.vt v).site = k ∧
      (t.vt v).loc = .transitIn ∧ (t.vt v).slice = false ∧ (t.vt v).rot = (s.vt v).rot + 1 ∧ (t.vt u).slice = false ∧
      (t.vt v).slots = (s.vt v).slots ∧ (t.vt u).slots = (s.vt u).slots)

/-- R18, R229 to R233, R235 to R238, R313 to R316, R318, R320, R321. Launches. (Clauses on log 8, 52, 55 and 56 are the model's choice.) -/
def Obligations.LaunchesStartRunAndFinish : Prop :=
  LaunchRecordsAreTaken ∧ LaunchRecordsAreValidated ∧ LaunchesFinish ∧ TheShepherdPlacesAndAges

/-! ## Rotation, slicing and drift (chapter 11) -/

/-- R42, R276, R324 to R329. A placed flock of absent members goes into transit, and a vtile whose image nothing has written to comes back
as it was; a victim starts on its way out, but not one that migrates while a member is trapped; the flip of a tile changes its bank
select, so that a vtile on its way in is resident and runs, also where it takes the place of one that leaves, and one on its
way out stops and has rotated once more. (A vtile that comes in with parked messages and with records to be written in its
frames is left out. What counts as a rotation is log 56, and that a flip is one step is log 79: both are the model's choice.) -/
def Sys2Proof.Claims.FlocksRotate : Prop :=
  ∀ (s : State),
    (∀ ctx i, (s.flock ctx i).st = .goingIn → (∀ v ∈ s.members ctx i, s.hasVt v = true ∧ (s.vt v).loc = .absent) →
      ∃ t, exec (.rotationIn ctx i) s = .next t ∧ (∀ v ∈ s.members ctx i, (t.vt v).loc = .transitIn) ∧ t.tiles = s.tiles) ∧
    (∀ v, s.hasVt v = true → s.rim.poison = [] → s.rim.mem.wf = true → ((s.writeImage v).preload v).vt v = s.vt v) ∧
    (∀ ctx i, (s.flock ctx i).st = .resident → (s.flock ctx i).victim = true → (∀ v ∈ s.members ctx i, (s.vt v).halted = false) →
      let stays := (s.flock ctx i).binds ≠ [] ∧ ∃ v ∈ s.members ctx i, ∃ k, (s.slot ⟨v, k⟩).status = .trapped
      (¬stays → exec (.rotationOut ctx i) s = .next (s.modFlock ctx i (fun f => { f with st := .goingOut, victim := false }))) ∧
      (stays → (s.ctx ctx).regs.suspending = false → (s.ctx ctx).regs.st ≠ .suspended → ∀ t, exec (.rotationOut ctx i) s ≠ .next t)) ∧
    (∀ site v, s.hasVt v = true → (s.tile site).pairNext = none → (s.tile site).bank (s.tile site).sel = none → (s.tile site).bank (!(s.tile site).sel) = some v →
      (s.vt v).loc = .transitIn → (s.vt v).pen = [] ∨ (∀ k, (s.slot ⟨v, k⟩).saved = []) →
      ∃ t, exec (.flip site) s = .next t ∧ (t.tile site).sel = !(s.tile site).sel ∧ (t.vt v).loc = .resident ∧ (t.vt v).slots = (s.vt v).slots ∧
        (t.vt v).rot = (s.vt v).rot) ∧
    (∀ site v u, s.hasVt v = true → s.hasVt u = true → v ≠ u → (s.tile site).pairNext = none → (s.vt v).site = site →
      (s.tile site).bank (s.tile site).sel = some v → (s.tile site).bank (!(s.tile site).sel) = some u →
      (s.vt v).loc = .resident → (s.flock v.ctx (s.vt v).flock).st = .goingOut → (s.vt u).loc = .transitIn →
      (s.vt u).pen = [] ∨ (∀ k, (s.slot ⟨u, k⟩).saved = []) →
      ∃ t, exec (.flip site) s = .next t ∧ (t.tile site).sel = !(s.tile site).sel ∧ ((t.vt v).loc = .transitOut ∨ (t.vt v).loc = .absent) ∧
        (t.vt v).rot = (s.vt v).rot + 1 ∧ (t.vt u).loc = .resident ∧ (t.vt u).slots = (s.vt u).slots ∧ (t.vt u).rot = (s.vt u).rot) ∧
    (∀ site v, s.hasVt v = true → (s.vt v).site = site → (s.tile site).pairNext = none →
      (s.tile site).bank (s.tile site).sel = some v → (s.tile site).bank (!(s.tile site).sel) = none →
      (s.vt v).loc = .resident → (s.flock v.ctx (s.vt v).flock).st = .goingOut →
      ∃ t, exec (.flip site) s = .next t ∧ (t.tile site).sel = !(s.tile site).sel ∧ ((t.vt v).loc = .transitOut ∨ (t.vt v).loc = .absent) ∧
        (t.vt v).rot = (s.vt v).rot + 1)

/-- R197, R284, R323. A unit of a vtile that does not run goes to its image, and one of the running vtile comes back: every byte and every full-empty bit
reads as before, and only that unit changes its place. What comes back is a unit that an access waits for, or the only one left. (No
record of a frame waits to be written with it. Which unit comes first is log 8: the model's choice.) -/
def Sys2Proof.Claims.UnitsMoveUnchanged : Prop :=
  ∀ (s : State) (v : VRef), s.hasVt v = true → UnitsCanonical s v →
    let img := s.image v
    let t0 := s.vt v
    ((s.active v = false) → t0.loc = .resident → t0.slice = true →
      (∀ n < 512, n ∉ t0.spOut →
        ∃ t, exec (.unitSpill v (.sp n)) s = .next t ∧ SameScratchpad s t v ∧ (∀ k, k ∈ (t.vt v).spOut ↔ k = n ∨ k ∈ t0.spOut)) ∧
      (∀ col < 64, ∀ n < 16, 16 * col + n ∉ t0.mx.bsOut → 8192 * n < t0.mx.bhwm →
        ∃ t, exec (.unitSpill v (.bs col n)) s = .next t ∧ (∀ k, k ∈ (t.vt v).mx.bsOut ↔ k = 16 * col + n ∨ k ∈ t0.mx.bsOut) ∧
          ∀ k, 131072 * col + 8192 * n ≤ k → k < 131072 * col + 8192 * n + 8192 →
            memGet t.rim.mem (img + 0x800000 + k) = memGet t0.mx.bstore k)) ∧
    (s.active v = true → (s.tile t0.site).bank (!t0.bank) = none →
      (∀ n < 512, n ∈ t0.spOut → (∀ w ∈ t0.fe, w / 1024 ≠ n) →
        (∀ k, ∀ p ∈ (s.slot ⟨v, k⟩).saved, p.2.due = false ∧ p.2.unit ≠ .mxq) →
        (t0.spOut = [n] ∨ ∃ (k : Fin 8) (e : SbEntry), (t0.slots.get k).sb.head? = some e ∧ e.kind ≠ .cSt ∧ e.chunk ≠ 0 ∧ 8192 * n < e.addr + e.chunk ∧
          e.addr < 8192 * n + 8192) →
        ∃ t, exec (.unitRestore v (.sp n)) s = .next t ∧ SameScratchpad s t v ∧ (∀ k, k ∈ (t.vt v).spOut ↔ k ≠ n ∧ k ∈ t0.spOut) ∧ t.rim = s.rim) ∧
      (∀ col < 64, ∀ n < 16, t0.mx.bsOut = [16 * col + n] → BstoreFresh s v →
        ∃ t, exec (.unitRestore v (.bs col n)) s = .next t ∧ (∀ k, k ∈ (t.vt v).mx.bsOut ↔ k ≠ 16 * col + n ∧ k ∈ t0.mx.bsOut) ∧ t.rim = s.rim ∧
          ∀ k, 131072 * col + 8192 * n ≤ k → k < 131072 * col + 8192 * n + 8192 →
            memGet (t.vt v).mx.bstore k = memGet s.rim.mem (img + 0x800000 + k)))

/-- R318, R331, R337. Of two vtiles that share a tile the other runs after SLICEQ times 1,024 cycles when it has work, or after 4,096 cycles in which the
running one has none; the stores of the one that stops are performed. (No message of it waits to be delivered, and it buffers no
seal. Work is a match or a READY slot: log 81, the model's choice.) Every 4,096 cycles each fold learns its own load and its
neighbours'. -/
def Sys2Proof.Claims.SlicesSwitchAndFoldsTellTheirLoad : Prop :=
  (∀ (s : State) (site : Nat) (v u : VRef), s.hasVt v = true → s.hasVt u = true → v ≠ u → (s.tile site).bank (s.tile site).sel = some v →
    (s.tile site).bank (!(s.tile site).sel) = some u → (s.vt v).loc = .resident → (s.vt u).loc = .resident → (s.vt v).slice = true →
    (s.vt v).halted = false → (s.flock v.ctx (s.vt v).flock).st = .resident → (s.tile site).pairNext = none → (s.vt u).hasWork = true →
    (s.vt v).site = site → (s.vt v).bank = (s.tile site).sel → (s.vt v).spOut.Pairwise (· < ·) →
    (∀ k, NothingSent s ⟨v, k⟩ ∧ ∀ e ∈ (s.slot ⟨v, k⟩).sb, e.kind ≠ .seal) →
    let switches (i : Instr) : Prop := ∃ t, exec i s = .next t ∧ (t.tile site).sel = !(s.tile site).sel ∧ (t.tile site).lastSwitch = s.regs.cycle ∧
      (∀ k, (t.slot ⟨v, k⟩).sb = []) ∧ (t.vt u).loc = .resident ∧ (t.vt v).loc = .resident
    (max 1 s.regs.sliceq * 1024 ≤ s.regs.cycle - (s.tile site).lastSwitch → switches (.timeSliceSwitch site)) ∧
    (4096 ≤ s.regs.cycle - (s.tile site).idleSince → (s.vt v).hasWork = false → switches (.idleSliceSwitch site))) ∧
  (∀ (s : State), 4096 ≤ s.regs.cycle - s.regs.lastDrift →
    ∃ t, exec .driftLoadExchange s = .next t ∧ t.regs.lastDrift = s.regs.cycle ∧
      ∀ f < 336, (t.fold f).load = s.foldLoad f ∧
        (f % 24 ≠ 0 → Tbl.getD (t.fold f).known (f - 1) 0 = s.foldLoad (f - 1)) ∧ (f % 24 ≠ 23 → Tbl.getD (t.fold f).known (f + 1) 0 = s.foldLoad (f + 1)) ∧
        (24 ≤ f → Tbl.getD (t.fold f).known (f - 24) 0 = s.foldLoad (f - 24)) ∧ (f < 312 → Tbl.getD (t.fold f).known (f + 24) 0 = s.foldLoad (f + 24)))

/-- R42, R197, R276, R284, R318, R323, R325 to R329, R331, R337. Rotation, units, slices and drift. (Clauses on log 8, 56, 79 and 81 are the model's
choice.) -/
def Obligations.RotationKeepsWhatVtilesHold : Prop := FlocksRotate ∧ UnitsMoveUnchanged ∧ SlicesSwitchAndFoldsTellTheirLoad

/-! ## Contexts and their queues (chapters 11 and 12) -/

/-- R20, R289, R290, R292, R298, R308 to R310. CREATE of a context in STATE 0 reads its record, its memory descriptor and its commons map, and the
context is live with what they say, without vtiles or flocks and with commons of zeros; a record, a descriptor or a map that
breaks its rules fails with BAD_REC, BAD_DESC or BAD_MAP. -/
def Sys2Proof.Claims.ContextsAreCreated : Prop :=
  ∀ (s : State) (ctx : Nat), (s.ctx ctx).regs.st = .none → (s.ctx ctx).regs.busy = false →
    let r := phys s (s.ctx ctx).regs.recAddr 128
    let w := phys s (r % 2 ^ 64) 128
    let n := w / 2 ^ 320 % 2 ^ 32 + w / 2 ^ 352 % 2 ^ 8
    let map := (List.range n).map (fun i => BitVec.ofNat 32 (phys s (w / 2 ^ 256 % 2 ^ 64 + 4 * i) 4))
    let i := Instr.create ctx
    (recordBad r = true → CommandFails i s ctx 1) ∧
    (recordBad r = false → (descBad w = true ∨ s.keyOk ctx (w / 2 ^ 368 % 2 ^ 12) = false) → CommandFails i s ctx 2) ∧
    (recordBad r = false → descBad w = false → s.keyOk ctx (w / 2 ^ 368 % 2 ^ 12) = true → s.mapBad ctx map = true → CommandFails i s ctx 3) ∧
    (recordBad r = false → descBad w = false → s.keyOk ctx (w / 2 ^ 368 % 2 ^ 12) = true → s.mapBad ctx map = false →
      ∃ t, exec i s = .next t ∧ (t.ctx ctx).regs.st = .live ∧ (t.ctx ctx).regs.busy = false ∧ (t.ctx ctx).regs.sseq = 0 ∧
        (t.ctx ctx).vts = [] ∧ (t.ctx ctx).flocks = [] ∧ (t.ctx ctx).commons = [] ∧ (t.ctx ctx).msgs = [] ∧ (t.ctx ctx).herds = [] ∧
        (∀ q : Fin 16, t.queue ctx q.val = LaunchQueue.blank) ∧
        (let d := (t.ctx ctx).desc;
          d.vx = r / 2 ^ 448 % 2 ^ 24 ∧ d.vy = r / 2 ^ 472 % 2 ^ 24 ∧ d.flags = r / 2 ^ 496 % 2 ^ 4 ∧ d.seed = BitVec.ofNat 256 (r / 2 ^ 768) ∧
          d.ranktab = r / 2 ^ 64 % 2 ^ 64 ∧ d.flocktab = r / 2 ^ 128 % 2 ^ 64 ∧ d.imgarea = r / 2 ^ 192 % 2 ^ 64 ∧
          d.supdest = BitVec.ofNat 64 (r / 2 ^ 256) ∧ d.dldest = BitVec.ofNat 64 (r / 2 ^ 320) ∧ d.smdest = BitVec.ofNat 64 (r / 2 ^ 384) ∧
          d.s1root = w % 2 ^ 64 ∧ d.iroot = w / 2 ^ 64 % 2 ^ 64 ∧ d.s2en = w.testBit 128 ∧ d.vmid = w / 2 ^ 192 % 2 ^ 12 ∧
          d.cpsize = w / 2 ^ 320 % 2 ^ 32 ∧ d.pench = w / 2 ^ 352 % 2 ^ 8 ∧ d.bkey = w / 2 ^ 368 % 2 ^ 12 ∧ d.cmap = map ∧
          ∀ k : Fin 16, d.fmttab.get k = BitVec.ofNat 32 (w / 2 ^ (512 + 32 * k.val))))

/-- R293, R308, R310, R314, R356, R357. SUSPEND stops placement and switches the queues out, and is done at once where no vtile is in a tile; RESUME makes
the context live and starts its waits again; TEARDOWN takes every vtile and message of the context away and has its keys
zeroised, and ends with STATE 0 and those keys EMPTY. In another STATE a command fails with BAD_STATE; while BUSY it sets ERR. -/
def Sys2Proof.Claims.ContextCommandsAct : Prop :=
  ∀ (s : State) (ctx : Nat),
    let c := s.ctx ctx
    let commands := [Instr.create ctx, .suspend ctx, .resume ctx, .teardown ctx 0x10]
    (c.regs.busy = true → ∀ i ∈ commands, exec i s = .next (s.modCtx ctx (fun c => { c with regs := { c.regs with err := true } }))) ∧
    (c.regs.busy = false →
      (c.regs.st ≠ .none → CommandFails (.create ctx) s ctx 4) ∧ (c.regs.st ≠ .live → CommandFails (.suspend ctx) s ctx 4) ∧
      (c.regs.st ≠ .suspended → CommandFails (.resume ctx) s ctx 4) ∧
      (c.regs.st ≠ .live → c.regs.st ≠ .suspended → CommandFails (.teardown ctx 0x10) s ctx 4) ∧
      (c.regs.st = .live →
        ∃ t, exec (.suspend ctx) s = .next t ∧ (t.ctx ctx).vts = c.vts ∧ (t.ctx ctx).flocks = c.flocks ∧
          (∀ q : Fin 16, (t.queue ctx q.val).swout = (if (s.queue ctx q.val).en then true else (s.queue ctx q.val).swout)) ∧
          (c.vts = [] → (t.ctx ctx).regs.st = .suspended ∧ (t.ctx ctx).regs.busy = false) ∧
          ((∃ p ∈ c.vts, p.2.loc = .resident ∧ p.2.halted = false) →
            (t.ctx ctx).regs.st = .live ∧ (t.ctx ctx).regs.busy = true ∧ (t.ctx ctx).regs.suspending = true)) ∧
      (c.regs.st = .suspended →
        ∃ t, exec (.resume ctx) s = .next t ∧ (t.ctx ctx).regs.st = .live ∧ (t.ctx ctx).vts = c.vts ∧
          ∀ i, (s.flock ctx i).ready = true → (t.flock ctx i).waitStart = s.regs.cycle ∧ (t.flock ctx i).aging = 0) ∧
      ((c.regs.st = .live ∨ c.regs.st = .suspended) →
        ∃ t, exec (.teardown ctx 0x10) s = .next t ∧ (t.ctx ctx).regs.st = .tearing ∧ (t.ctx ctx).regs.busy = true ∧ (t.ctx ctx).regs.reason = 0x10 ∧
          (t.ctx ctx).vts = [] ∧ (t.ctx ctx).msgs = [] ∧ (t.ctx ctx).bankOps = [] ∧ (t.ctx ctx).holding = [] ∧
          (∀ n b v, (t.tile n).bank b = some v → v.ctx ≠ ctx) ∧
          (∀ k e, Tbl.find? s.keys k = some e → e.owner = ctx → (Tbl.getD t.keys k KeySlot.blank).st = .zeroising) ∧
          ∀ n, n ≠ ctx → t.ctx n = s.ctx n)) ∧
    (c.regs.st = .tearing →
      ∃ t, exec (.teardown ctx 0) s = .next t ∧ (t.ctx ctx).regs.st = .none ∧
        (∀ k e, Tbl.find? s.keys k = some e → e.owner = ctx → e.st = .zeroising →
          (Tbl.getD t.keys k KeySlot.blank).st = .empty ∧ (Tbl.getD t.keys k KeySlot.blank).key = 0) ∧ (t.ctx ctx).regs.busy = false ∧ (t.ctx ctx).commons = [] ∧
        (t.ctx ctx).flocks = [] ∧ ∀ n, n ≠ ctx → t.ctx n = s.ctx n)

/-- R312 to R314. A write to LQCFG of an idle queue sets LOGN, BASE and EN, and on opening it HEAD and PROG to TAIL; a write that breaks R312 sets ERR. A new
TAIL is taken where the ring has room, and asks for a switched-out queue; else it sets ERR. (That a TAIL is taken whether or not the queue is
enabled is log 58: the model's choice.) -/
def Sys2Proof.Claims.LaunchQueueRegistersAreWritten : Prop :=
  ∀ (s : State) (ctx : Nat) (q : Fin 16) (h : Fin 32) (val : Word), ctx < 256 → setHas s.crook.hartHalted h.val = false → (s.ctx ctx).regs.st = .live ∨ (s.ctx ctx).regs.st = .suspended →
    let x := s.queue ctx q.val
    let v := val.toNat
    let logn := v % 2 ^ 5
    let base := v / 2 ^ 6 % 2 ^ 47 * 64
    let idle := x.tail = x.head ∧ x.head = x.prog
    let room := (((v : Int) - x.tail) % 2 ^ 32).toNat + (((x.tail : Int) - x.head) % 2 ^ 32).toNat ≤ 2 ^ x.logn
    let errs (i : Instr) : Prop := exec i s = .next (s.modQueue ctx q.val (fun x => { x with err := true }))
    (logn ≤ 16 → base % (64 * 2 ^ logn) = 0 → idle → s.activeQueues.length < 512 →
      ∃ t, exec (.lqcfgWrite ctx q val) s = .next t ∧ (t.ctx ctx).vts = (s.ctx ctx).vts ∧
        (let y := t.queue ctx q.val;
          y.logn = logn ∧ y.base = base ∧ y.en = val.getLsbD 5 ∧ y.tail = x.tail ∧
          (x.en = false → val.getLsbD 5 = true → y.head = x.tail ∧ y.prog = x.tail ∧ y.swout = false))) ∧
    ((16 < logn ∨ base % (64 * 2 ^ logn) ≠ 0 ∨ ¬idle) → errs (.lqcfgWrite ctx q val)) ∧
    (v < 2 ^ 32 → room → ∃ t, exec (.lqtailWrite h ctx q val) s = .next t ∧ (t.queue ctx q.val).tail = v ∧ (t.queue ctx q.val).head = x.head ∧
      (t.queue ctx q.val).want = (x.want || (x.swout && decide (v ≠ x.head)))) ∧
    ((2 ^ 32 ≤ v ∨ ¬room) → errs (.lqtailWrite h ctx q val))

/-- R20, R289, R290, R292, R293, R298, R308 to R310, R312 to R314, R356, R357. Contexts and their queues. (The clause on log 58 is the model's choice.) -/
def Obligations.ContextCommandsTakeEffect : Prop := ContextsAreCreated ∧ ContextCommandsAct ∧ LaunchQueueRegistersAreWritten

/-! ## Invalidations, keys, features and the croft's registers (chapters 10, 11 and 14) -/

/-- R302, R303. A request that is taken sets BUSY and acts: kind 0 and kind 2 make the entries of a context or VMID stale by a new generation, kinds 1 and 3
drop those that meet the range, kind 4 drops instruction entries and lines, kind 5 reads the descriptor again as well. The
segments that were translated under what it covers are marked, and it completes when none of those is left; while BUSY, or with an empty range, it
sets ERR. (Which segments are marked is log 63, and that kind 5 reads without checks log 64: both are the model's choice.) -/
def Sys2Proof.Claims.InvalidationsAct : Prop :=
  ∀ (s : State),
    let a := s.regs.tinvAddr
    let n := 8192 * s.regs.tinvLen
    let meets (x size : Nat) : Prop := 0 < size ∧ x < a + n ∧ a < x + size
    let ignored := { s with regs := { s.regs with tinvErr := true } }
    let busy (t : State) : Prop := t.regs.tinvBusy = true ∧ (∀ v, t.hasVt v = s.hasVt v ∧ (t.vt v).slots = (s.vt v).slots) ∧ t.rim = s.rim
    let noInsn (t : State) (ctx : Nat) : Prop := ∀ k, (∀ l ∈ (t.tile k).icache, l.ctx ≠ ctx) ∧ (∀ e ∈ (t.tile k).itlb, e.ctx ≠ ctx) ∧
      ∀ e ∈ (t.fold k).tlb, ¬(e.insn = true ∧ e.ctx = ctx)
    let sameCtx (t : State) (n : Nat) : Prop := (t.ctx n).desc = (s.ctx n).desc ∧ (t.ctx n).s1gen = (s.ctx n).s1gen ∧
      (t.ctx n).regs = (s.ctx n).regs ∧ (t.ctx n).commons = (s.ctx n).commons
    let ready (g : Seg) : Prop := ∃ pa, g.st = .ready pa
    let marks (t : State) (hit : VRef → Seg → Prop) : Prop := ∀ v c, s.hasVt v = true → (s.vt v).copies = [c] → c.finished = false →
      c.op ∉ [CpeOp.send, .rsend] → ∃ c', (t.vt v).copies = [c'] ∧ c'.segs.length = c.segs.length ∧
        ∀ (j : Nat) (g g' : Seg), c.segs[j]? = some g → c'.segs[j]? = some g' →
          g'.st = g.st ∧ (g'.dying = true ↔ ready g ∧ hit v g)
    let waiting := ∃ p ∈ s.ctxs, ∃ q ∈ p.2.vts, ∃ g, ready g ∧ g.dying = true ∧ (g ∈ q.2.mx.run.segs ∨
      ∃ c ∈ q.2.copies, c.finished = false ∧ c.op ∉ [CpeOp.send, .rsend] ∧ g ∈ c.idxSegs ++ c.segs)
    (s.regs.tinvBusy = true → ∀ x, ∀ i ∈ [Instr.stage1All x, .stage1Range x, .stage2All x, .stage2Range x, .instructionAll x, .descriptorReload x],
      exec i s = .next ignored) ∧
    (s.regs.tinvBusy = false → s.regs.tinvLen = 0 → ∀ x, exec (.stage1Range x) s = .next ignored ∧ exec (.stage2Range x) s = .next ignored) ∧
    (s.regs.tinvBusy = false → ∀ ctx < 256,
      (∃ t, exec (.stage1All ctx) s = .next t ∧ busy t ∧ marks t (fun v _ => v.ctx = ctx) ∧
        ((s.ctx ctx).regs.st ≠ .none → (t.ctx ctx).s1gen = (s.ctx ctx).s1gen + 1)) ∧
      (0 < s.regs.tinvLen → ∃ t, exec (.stage1Range ctx) s = .next t ∧ busy t ∧ marks t (fun v g => v.ctx = ctx ∧ meets g.page.va g.page.size) ∧
        ∀ f, ∀ e ∈ (s.fold f).tlb, e ∈ (t.fold f).tlb ↔ ¬(e.ctx = ctx ∧ meets e.va e.size)) ∧
      (∃ t, exec (.instructionAll ctx) s = .next t ∧ busy t ∧ marks t (fun _ _ => False) ∧ noInsn t ctx ∧ ∀ n, sameCtx t n) ∧
      ((s.ctx ctx).regs.st ≠ .none →
        let w := phys s (s.ctx ctx).desc.memdesc 128
        ∃ t, exec (.descriptorReload ctx) s = .next t ∧ busy t ∧ marks t (fun v _ => v.ctx = ctx) ∧ noInsn t ctx ∧ (t.ctx ctx).s1gen = (s.ctx ctx).s1gen + 1 ∧
          (t.ctx ctx).desc.s1root = w / 2 ^ 13 % 2 ^ 51 * 2 ^ 13 ∧ (t.ctx ctx).desc.vmid = w / 2 ^ 192 % 2 ^ 12 ∧
          (t.ctx ctx).desc.bkey = w / 2 ^ 368 % 2 ^ 12 ∧ (t.ctx ctx).desc.cmap = (s.ctx ctx).desc.cmap ∧
          (t.ctx ctx).desc.cpsize = (s.ctx ctx).desc.cpsize)) ∧
    (s.regs.tinvBusy = false → ∀ vmid < 4096,
      (∃ t, exec (.stage2All vmid) s = .next t ∧ busy t ∧ marks t (fun v _ => (s.ctx v.ctx).desc.vmid = vmid) ∧
        Tbl.getD t.s2gen vmid 0 = Tbl.getD s.s2gen vmid 0 + 1 ∧ ∀ n, sameCtx t n) ∧
      (0 < s.regs.tinvLen → ∃ t, exec (.stage2Range vmid) s = .next t ∧ busy t ∧
        marks t (fun v g => (s.ctx v.ctx).desc.vmid = vmid ∧ meets g.page.gpa g.page.size) ∧
        ∀ f, ∀ e ∈ (s.fold f).tlb, e ∈ (t.fold f).tlb ↔ ¬(e.vmid = vmid ∧ meets e.gpa e.size))) ∧
    (waiting → ∀ t, exec .invalidationComplete s ≠ .next t) ∧
    (s.regs.tinvBusy = true → ¬waiting →
      exec .invalidationComplete s =
        .next { s with regs := { s.regs with tinvBusy := false, tinvDone := (s.regs.tinvDone + 1) % 2 ^ 32 } })

/-- R292, R293, R368, R369, R397. LOAD of an EMPTY key slot names its owner and makes it LOADED, one that is not EMPTY keeps its state; ZERO makes a slot
ZEROISING, and at the end of that it is EMPTY, its key zero, what was under way under it discarded and its lines condemned. FEATM is written only with bit 0 clear and while every context has STATE 0. A write to RIMG restores an image into a
context of STATE 0, unless its version, generation or features forbid it. (That zeroising takes two steps and condemns the lines is log
23, and what a restored context holds beyond its header log 14: both are the model's choice.) -/
def Sys2Proof.Claims.KeysFeaturesAndImages : Prop :=
  ∀ (s : State),
    (∀ slot < 4096, ∀ owner : Byte,
      let k (s : State) := Tbl.getD s.keys slot KeySlot.blank
      ((k s).st = .empty → ∃ t, exec (.keyLoad slot owner) s = .next t ∧ (k t).st = .loaded ∧ (k t).owner = owner.toNat ∧ (k t).key = (k s).key ∧
        t.ctxs = s.ctxs) ∧
      ((k s).st ≠ .empty → exec (.keyLoad slot owner) s = .next s) ∧
      ((k s).st ≠ .zeroising → ∃ t, exec (.keyZero slot owner) s = .next t ∧ (k t).st = .zeroising ∧ t.ctxs = s.ctxs ∧
        ∀ n, n ≠ slot → Tbl.getD t.keys n KeySlot.blank = Tbl.getD s.keys n KeySlot.blank) ∧
      ((k s).st = .zeroising → ∃ t, exec (.keyZero slot owner) s = .next t ∧ (k t).st = .empty ∧ (k t).key = 0 ∧
        (∀ n, n ≠ slot → Tbl.getD t.keys n KeySlot.blank = Tbl.getD s.keys n KeySlot.blank) ∧
        (∀ u ∈ (t.ctx (k s).owner).bankOps, (s.ctx (k s).owner).mapEntry u.ea / 2 ^ 19 % 2 ^ 12 ≠ slot) ∧
        (∀ ea, ((s.ctx (k s).owner).mapEntry ea / 2 ^ 19 % 2 ^ 12 = slot) → ea / 2 ^ 20 < (s.ctx (k s).owner).desc.cmap.length →
          setHas (t.ctx (k s).owner).condemned (ea / 64) = true))) ∧
    (∀ val : Word,
      (val.getLsbD 0 = false → (∀ p ∈ s.ctxs, p.2.regs.st = .none) → exec (.featmWrite val) s = .next { s with ident := { s.ident with featm := val } }) ∧
      ((val.getLsbD 0 = true ∨ ∃ p ∈ s.ctxs, p.2.regs.st ≠ .none) → exec (.featmWrite val) s = .next s)) ∧
    (∀ ctx (val : Word), (s.ctx ctx).regs.st = .none →
      let h := phys s val.toNat 64
      let live : Word := BitVec.ofNat 64 (h / 2 ^ 128)
      let present : Word := BitVec.ofNat 64 s.featp &&& ~~~s.ident.featm
      let versionOk := h % 2 ^ 32 = 1 ∧ h / 2 ^ 32 % 2 ^ 32 = 3
      (versionOk → live &&& ~~~present = 0 → ∃ t, exec (.rimgRestore ctx val) s = .next t ∧ (t.ctx ctx).regs.st ≠ .none ∧ (t.ctx ctx).regs.rimg = val ∧
        (t.ctx ctx).regs.rpn = h / 2 ^ 192 % 2 ^ 32 ∧ (t.ctx ctx).live = live ∧ (t.ctx ctx).commons.wf = true ∧ ∀ n, n ≠ ctx → t.ctx n = s.ctx n) ∧
      (¬versionOk → ∃ t, exec (.rimgRestore ctx val) s = .next t ∧ (t.ctx ctx).regs.st = .none ∧ (t.ctx ctx).regs.reason = 0x21 ∧ (t.ctx ctx).regs.err = true) ∧
      (versionOk → live &&& ~~~present ≠ 0 → ∃ t, exec (.rimgRestore ctx val) s = .next t ∧ (t.ctx ctx).regs.st = .none ∧ (t.ctx ctx).regs.reason = 0x20 ∧
        (t.ctx ctx).regs.err = true))

/-- R292, R293, R302, R303, R368, R369, R397. Invalidations, key slots, the feature mask and context images. (Clauses on log 14, 23, 63 and 64 are the
model's choice.) -/
def Obligations.InvalidationsKeysAndImagesAct : Prop := InvalidationsAct ∧ KeysFeaturesAndImages

/-! ## The croft's ports, registers and memory (chapter 14) -/

/-- R222, R295, R399. CMSEND sends CMW0 and CMW1 to CMDEST with the context's own count, unless R203 forbids the destination; CCOP 1 reads the word at CCOFF into
CCDATA and CCOP 2 writes CCDATA there, unless the offset is out of bounds or misaligned. What a hart sends or writes after a FENCE with W carries
a tag of scope DOMAIN. -/
def Sys2Proof.Claims.CroftPortsAct : Prop :=
  ∀ (s : State) (ctx : Nat) (h : Fin 32), ctx < 256 → setHas s.crook.hartHalted h.val = false → (s.ctx ctx).regs.st = .live →
    let fenced := setHas s.croft.fenced h.val
    let domain (x : RelTag) : Prop := x.scope = 4 ∧ x.ctx = ctx ∧ x.rank = 0xFFFFFF
    let g := (s.ctx ctx).regs
    let d := g.cmdest.toNat
    let ea := g.ccoff.toNat
    let ok := d / 2 ^ 29 % 2 ^ 3 = 0 ∧ d / 2 ^ 56 = 0 ∧ d % 2 ^ 24 < (s.ctx ctx).desc.vx * (s.ctx ctx).desc.vy
    let lies := ea % 8 = 0 ∧ ea + 8 ≤ (s.ctx ctx).desc.cpsize * 2 ^ 20
    (ok → g.sseq < 2 ^ 32 → ∃ t, exec (.cmsend h ctx) s = .next t ∧ (t.ctx ctx).regs.sseq = (g.sseq + 1) % 2 ^ 32 ∧ (t.ctx ctx).regs.cmstat.toNat % 2 ^ 32 = g.sseq ∧
      Sends s t ctx (fun m => m.kind = 0 ∧ m.srank = 0xFFFFFF ∧ m.sinc = 0 ∧ m.sseq = g.sseq ∧ GoesTo m d ∧ m.payload = [g.cmw0, g.cmw1] ∧
        (fenced = false → m.tags = []) ∧ (fenced = true → ∃ x, m.tags = [x] ∧ domain x))) ∧
    (¬ok → exec (.cmsend h ctx) s = .next (s.modCtx ctx (fun c => { c with regs := { c.regs with cmstat := c.regs.cmstat ||| (1#64 <<< 32) } }))) ∧
    (¬lies → ∀ i ∈ [Instr.ccopLd ctx, .ccopSt h ctx],
      exec i s = .next (s.modCtx ctx (fun c => { c with regs := { c.regs with ccstat := 1 } }))) ∧
    (lies → LineSound s ctx ea → (s.ctx ctx).holding = [] → Tbl.find? (s.ctx ctx).wtags (ea / 8) = none →
      (∃ t, exec (.ccopLd ctx) s = .next t ∧ (t.ctx ctx).regs.ccdata = BitVec.ofNat 64 (memRead (s.ctx ctx).commons ea 8) ∧
        (t.ctx ctx).commons = (s.ctx ctx).commons) ∧
      (∃ t, exec (.ccopSt h ctx) s = .next t ∧ (t.ctx ctx).regs.ccdata = g.ccdata ∧
        (fenced = false → Tbl.find? (t.ctx ctx).wtags (ea / 8) = none) ∧
        (fenced = true → ∃ x, Tbl.find? (t.ctx ctx).wtags (ea / 8) = some ⟨x, false⟩ ∧ domain x) ∧
        ∀ a, memGet (t.ctx ctx).commons a = if ea ≤ a ∧ a < ea + 8 then BitVec.ofNat 8 (g.ccdata.toNat / 256 ^ (a - ea))
          else memGet (s.ctx ctx).commons a))

/-- R302, R312, R319, R361, R394, R398, R402, R408, R409, R412. HSTOP and HRESUME stop and resume halt groups; a routing entry is written below module 768; a 64-bit
write of a hart to a register has that register's effect, one outside the register space or misaligned has none. (That the reserved
bits of PWRLVL are dropped is log 98: the model's choice.) -/
def Sys2Proof.Claims.CroftRegistersAreWritten : Prop :=
  ∀ (s : State) (h : Fin 32) (val : Word), setHas s.crook.hartHalted h.val = false →
    let w (off : Nat) : Instr := .registerWrite h (regAddr off) val
    let v := val.toNat
    let sh : ModRegs := { s.regs with ageq := v % 2 ^ 16, quant := v / 2 ^ 16 % 2 ^ 16, sliceq := v / 2 ^ 32 % 2 ^ 8, dthr := v / 2 ^ 40 % 2 ^ 8 }
    exec (.hstop val) s = .next { s with crook := { s.crook with stopped := s.crook.stopped ||| val } } ∧
    exec (.hresume val) s = .next { s with crook := { s.crook with stopped := s.crook.stopped &&& ~~~val } } ∧
    (∀ m second, 768 ≤ m → exec (.routeWrite m second val) s = .next s) ∧
    (∀ m < 768, ∃ t, exec (.routeWrite m false val) s = .next t ∧ Tbl.getD t.fabric.routes (2 * m) 0 = val ∧ t.ctxs = s.ctxs ∧
      ∀ k, k ≠ 2 * m → Tbl.getD t.fabric.routes k 0 = Tbl.getD s.fabric.routes k 0) ∧
    (∀ m < 768, ∃ t, exec (.routeWrite m true val) s = .next t ∧ Tbl.getD t.fabric.routes (2 * m + 1) 0 = val &&& 1 ∧
      ∀ k, k ≠ 2 * m + 1 → Tbl.getD t.fabric.routes k 0 = Tbl.getD s.fabric.routes k 0) ∧
    (∀ loc, (loc < 0x20000000000000 ∨ 0x20100000000000 ≤ loc ∨ loc % 8 ≠ 0) → exec (.registerWrite h loc val) s = .next s) ∧
    exec (w 0x140000) s = .next { s with regs := sh } ∧
    exec (w 0x300008) s = .next { s with regs := { s.regs with tinvAddr := val.toNat / 8192 * 8192 } } ∧
    exec (w 0x300010) s = .next { s with regs := { s.regs with tinvLen := val.toNat % 2 ^ 32 } } ∧
    exec (w 0x700010) s = .next { s with ambient := { s.ambient with pwrlvl := BitVec.ofNat 64 (val.toNat % 4) } } ∧
    (∀ ctx < 256, ∀ q : Fin 16, exec (w (0x100000 + 0x400 * ctx + 0x100 + 0x20 * q.val + 8)) s = exec (.lqtailWrite h ctx q val) s ∧
      exec (w (0x100000 + 0x400 * ctx + 0x100 + 0x20 * q.val)) s = exec (.lqcfgWrite ctx q val) s ∧
      exec (w (0x100000 + 0x400 * ctx + 0x398)) s = exec (.cmsend h ctx) s ∧ exec (w (0x100000 + 0x400 * ctx + 0x320)) s = exec (.rimgRestore ctx val) s)

/-- R296, R365, R398, R399, R402, R408. A load of a hart that is not halted reads its own module's rim memory, and a store writes it, byte by byte in the order
of R3; a FENCE completes, and one with W tags the hart's later port writes; a write that leaves the domain is released at once when
it is immediate, and else waits in the egress buffer, for room if there is none; an address with bit 54 set and bit 55 clear, or
of a module without a route, is an access fault of the hart; one that leads nowhere stops the model (its fault, R398 names no
effect). A hart that is halted does nothing. (How outside writes are held and logged, with the number of the last committed point: log 69.
That a halted hart does nothing: log 70. The fault: log 73. All are the model's choice.) -/
def Sys2Proof.Claims.HartsLoadAndStore : Prop :=
  ∀ (s : State) (h : Fin 32), setHas s.crook.hartHalted h.val = false → Tbl.sorted s.rim.mem = true → s.croft.faulted.Pairwise (· < ·) →
    (∀ (pa : Word) n, n ∈ [1, 2, 4, 8] → pa.toNat + n ≤ 0x18000000000 → s.rim.poison = [] →
      ∃ t, exec (.croftMemoryAccess h (.load pa n)) s = .next t ∧ Tbl.getD t.croft.loads h.val 0 = BitVec.ofNat 64 (s.rimRead pa.toNat n) ∧
        t.rim = s.rim ∧ t.ctxs = s.ctxs ∧ h.val ∉ t.croft.faulted) ∧
    (∀ (pa val : Word) n, n ∈ [1, 2, 4, 8] → pa.toNat + n ≤ 0x18000000000 →
      ∃ t, exec (.croftMemoryAccess h (.store pa n val)) s = .next t ∧ t.ctxs = s.ctxs ∧ h.val ∉ t.croft.faulted ∧
        ∀ a, memGet t.rim.mem a = if pa.toNat ≤ a ∧ a < pa.toNat + n then BitVec.ofNat 8 (val.toNat / 256 ^ (a - pa.toNat)) else memGet s.rim.mem a) ∧
    (∀ a b c d, ∃ t, exec (.croftMemoryAccess h (.fence a b c d)) s = .next t ∧ t.ctxs = s.ctxs ∧ t.rim = s.rim ∧
      (b = true → setHas t.croft.fenced h.val = true) ∧ (b = false → t.croft.fenced = s.croft.fenced)) ∧
    (∀ ctx (val : Word),
      let last := match s.recovery.committed with
        | some p => p.rpn
        | none => 0
      (∃ t, exec (.croftMemoryAccess h (.outside ctx true val)) s = .next t ∧ t.croft.released = s.croft.released ++ [val] ∧
        t.croft.immediates = s.croft.immediates ++ [⟨ctx, s.recovery.rpn, last, val⟩] ∧ t.croft.egress = s.croft.egress) ∧
      (s.croft.egress.length < Config.egressRoom →
        ∃ t, exec (.croftMemoryAccess h (.outside ctx false val)) s = .next t ∧ t.croft.released = s.croft.released ∧
          t.croft.egress = s.croft.egress ++ [⟨ctx, s.recovery.rpn, last, val⟩]) ∧
      (Config.egressRoom ≤ s.croft.egress.length → ∀ t, exec (.croftMemoryAccess h (.outside ctx false val)) s ≠ .next t)) ∧
    (∀ (pa : Word) n, 2 ^ 55 ≤ pa.toNat → pa.toNat < 2 ^ 56 →
      let m := (Tbl.getD s.croft.xwin (2 * h.val + pa.toNat / 2 ^ 54 % 2) 0).toNat
      m ≠ s.fabric.ctl.toNat % 2 ^ 10 → (768 ≤ m ∨ (Tbl.getD s.fabric.routes (2 * m + 1) 0).getLsbD 0 = false ∨
        Tbl.getD s.fabric.routes (2 * m) 0 &&& s.fabric.portUp = 0) →
      ∃ t, exec (.croftMemoryAccess h (.load pa n)) s = .next t ∧ h.val ∈ t.croft.faulted ∧ t.croft.loads = s.croft.loads ∧ t.rim = s.rim) ∧
    (∀ (pa : Word) n, pa.toNat < 2 ^ 55 → 2 ^ 54 ≤ pa.toNat →
      ∃ t, exec (.croftMemoryAccess h (.load pa n)) s = .next t ∧ h.val ∈ t.croft.faulted ∧ t.croft.loads = s.croft.loads ∧ t.rim = s.rim) ∧
    (∀ (pa : Word) n, 2 ^ 56 ≤ pa.toNat → exec (.croftMemoryAccess h (.load pa n)) s = .fault .croftAccess) ∧
    (∀ (k : Fin 32) op ctx q loc val, setHas s.crook.hartHalted k.val = true →
      ∀ i ∈ [Instr.croftMemoryAccess k op, .registerWrite k loc val, .cmsend k ctx, .ccopSt k ctx, .lqtailWrite k ctx q val],
        ∀ t, exec i s ≠ .next t)

/-- R222, R295, R296, R302, R312, R319, R361, R394, R398, R399, R402, R409. What the croft writes and reads. (Clauses on log 69, 70, 73 and 98 are
the model's choice.) -/
def Obligations.TheCroftReachesRegistersAndMemory : Prop := CroftPortsAct ∧ CroftRegistersAreWritten ∧ HartsLoadAndStore

/-! ## Recovery, boot and containers (chapters 12 to 14) -/

/-- R363 to R368, R410. At each multiple of RPINT a cut stops the contexts that take points; when they rest, what the module holds is captured under the
next number; the commit makes it the committed point and releases the egress writes issued before it. A rollback brings the
committed point back, tells each context that resumes how many of its immediate writes are exposed, and logs those, and tears the
others down. A cut waits until the point before it has committed. (What a point captures beyond the rule's words: log 67. Which
contexts a rollback tears down: log 68. The egress buffer and the log of immediate writes: log 69. All are the model's choice.) -/
def Sys2Proof.Claims.PointsAreCutCommittedAndRestored : Prop :=
  ∀ (s : State),
    (s.recovery.cutting = false → s.fabric.ctl.getLsbD 10 = true → s.fabric.rpint ≠ 0 → s.fabric.since + s.fabric.rpint.toNat * 1250000 ≤ s.ambient.time →
      s.recovery.lastCut < pointTime s → s.recovery.pending = none →
      exec .recoveryPointCut s = .next { s with recovery := { s.recovery with cutting := true, lastCut := pointTime s } }) ∧
    (s.recovery.cutting = false → s.recovery.pending ≠ none → ∀ t, exec .recoveryPointCut s ≠ .next t) ∧
    (s.recovery.cutting = true → (∀ p ∈ s.rpCtxs, s.atRest p.1 = true) →
      ∃ t p, exec .recoveryPointCut s = .next t ∧ t.recovery.cutting = false ∧ t.recovery.rpn = s.recovery.rpn + 1 ∧ t.recovery.pending = some p ∧
        t.recovery.committed = s.recovery.committed ∧ p.rpn = s.recovery.rpn + 1 ∧ p.ctxs = s.rpCtxs ∧ p.rim = s.rim ∧ p.keys = s.keys ∧ t.ctxs = s.ctxs ∧
        p.headers.map Prod.fst = s.rpCtxs.map Prod.fst ∧ ∀ hd ∈ p.headers.map Prod.snd, hd.length = 64 ∧ fld hd 0 4 = 1 ∧ fld hd 4 4 = 3 ∧
          fld hd 8 8 = s.featp ∧ fld hd 24 4 = (s.recovery.rpn + 1) % 2 ^ 32 ∧ fld hd 28 4 = (if s.ident.steppingB1 then 1 else 0)) ∧
    (∀ p, s.recovery.pending = some p →
      ∃ t, exec .pointCommit s = .next t ∧ t.recovery.committed = some p ∧ t.recovery.pending = none ∧
        t.croft.egress = s.croft.egress.filter (fun e => decide (p.rpn ≤ e.cut)) ∧
        t.croft.released = s.croft.released ++ (s.croft.egress.filter (fun e => decide (e.cut < p.rpn))).map (fun e => e.val) ∧
        t.croft.immediates = s.croft.immediates.filter (fun e => decide (p.rpn ≤ e.cut)) ∧ t.rim = s.rim ∧
        ∀ c ∈ p.ctxs, (s.ctx c.1).regs.rp = true → (t.ctx c.1).regs.rpn = p.rpn) ∧
    (s.recovery.committed = none → ∃ t, exec .rollback s = .next t ∧ (∀ n, (t.ctx n).regs.st = .none) ∧ 3 ∈ t.croft.irqs ∧ t.croft.egress = []) ∧
    (∀ p n c, s.recovery.committed = some p → p.ctxs = [(n, c)] → s.ctxs = [(n, s.ctx n)] → (s.ctx n).regs.rp = true →
      let k := s.croft.immediates.countP (fun e => e.ctx == n)
      ∃ t m, exec .rollback s = .next t ∧ t.rim = p.rim ∧ t.regs = p.regs ∧ (t.ctx n).vts = c.vts ∧ (t.ctx n).flocks = c.flocks ∧ (t.ctx n).commons = c.commons ∧
        (t.ctx n).regs.rpn = p.rpn ∧ (t.ctx n).regs.exposed = min k 0xFFFF ∧ (t.ctx n).msgs = c.msgs ++ [m] ∧ m.reason = 0x2A ∧
        m.payload = [BitVec.ofNat 64 p.rpn, BitVec.ofNat 64 k] ∧ t.recovery.pending = none ∧ t.recovery.rpn = p.rpn ∧ 3 ∈ t.croft.irqs ∧
        t.croft.exposedLog = s.croft.exposedLog ++ s.croft.immediates ∧ t.croft.egress = [] ∧ t.croft.immediates = [])

/-- R396, R405 to R407. Boot starts from the image in slot A if it verifies, else from slot B, else waits; it leaves rim memory and zeroes the rest. An update writes
the slot that does not run; a module that waits takes the first image that verifies into slot A. The minimum version rises to
that of the running image, M1 is recorded, and a report holds the nonce, the measurements and the signature. (That rim memory keeps
its contents is log 5, and that a boot ends a stop past a trip point is log 71: both are the model's choice.) -/
def Sys2Proof.Claims.BootAndMeasurement : Prop :=
  ∀ (s : State),
    let d := s.ident
    let started (img : List Byte) (b : Bool) : Prop := ∃ t, exec .boot s = .next t ∧ t.ident.booted = true ∧ t.ident.runningB = b ∧
      t.ident.m0 = BitVec.ofNat 512 (fld img 16 64) ∧ t.ident.m1 = 0 ∧ t.ident.featm = 0 ∧ t.ident.slotA = d.slotA ∧ t.ident.slotB = d.slotB ∧ t.rim = s.rim ∧
      t.ctxs = [] ∧ t.keys = [] ∧ t.tiles = [] ∧ t.regs = ModRegs.reset
    (Verifies d d.slotA → started d.slotA false) ∧ (¬Verifies d d.slotA → Verifies d d.slotB → started d.slotB true) ∧
    (¬Verifies d d.slotA → ¬Verifies d d.slotB → exec .boot s = .next { s with ident := { d with booted := false }, ambient := { s.ambient with tripped := [] } }) ∧
    (∀ img, d.booted = true → exec (.firmwareUpdate img) s =
      .next { s with ident := if d.runningB then { d with slotA := img } else { d with slotB := img } }) ∧
    (∀ img, d.booted = false → ¬Verifies d img → exec (.firmwareUpdate img) s = .next s) ∧
    (∀ img, d.booted = false → Verifies d img → ∃ t, exec (.firmwareUpdate img) s = .next t ∧ t.ident.booted = true ∧ t.ident.slotA = img ∧
      t.ident.runningB = false) ∧
    (d.booted = true →
      exec .svnRaise s = .next { s with ident := { d with minSvn := max d.minSvn (fld (if d.runningB then d.slotB else d.slotA) 4 4) } } ∧
      ∀ digest, exec (.loaderMeasurement digest) s = .next { s with ident := { d with m1 := digest } }) ∧
    (∀ nonce, ∃ t, exec (.attestationReport nonce) s = .next t ∧ t.ctxs = s.ctxs ∧
      (let r := t.ident.report;
        fld r 0 4 = 0x54415850 ∧ fld r 4 4 = s.fabric.ctl.toNat % 2 ^ 10 ∧ fld r 8 8 = d.serial.toNat ∧ fld r 16 8 = d.serialHi.toNat ∧ fld r 40 32 = nonce.toNat ∧
        fld r 72 64 = d.m0.toNat ∧ fld r 136 64 = d.m1.toNat ∧ r.length = 378 ∧
        r.drop 264 = ed448Sign d.identKey (shake256 (r.take 264) 64)))

/-- R371, R373, R377. A container that breaks R371 to R375 gives every function that status; else each function gets an image that was accepted or the
status that none was, in the order of the functions. -/
def Sys2Proof.Claims.ContainersAreLoaded : Prop :=
  ∀ (s : State) (ctx : Nat) (b : List Byte) (plan : LoadPlan), (s.ctx ctx).regs.st ≠ .none → plan.metaVa % 64 = 0 → s.regs.tinvBusy = false →
    let i := Instr.containerLoad ctx b plan
    let d := (s.ctx ctx).desc
    (readContainer b plan.pfTab = none → ∃ t ks, exec i s = .next t ∧ t.kernels = s.kernels ++ ks ∧ ks.length = max 1 (fld b 6 2) ∧
      (∀ k ∈ ks, k.ctx = ctx ∧ k.status = .badContainer) ∧ t.rim = s.rim ∧ t.ctxs = s.ctxs) ∧
    (∀ c st, readContainer b plan.pfTab = some c → s.stage d c plan 0 Placed.none 0 3 = .error st →
      ∃ t ks, exec i s = .next t ∧ t.kernels = s.kernels ++ ks ∧ ks.length = c.fns.length ∧ (∀ k ∈ ks, k.ctx = ctx ∧ k.status = st) ∧ t.rim = s.rim) ∧
    (∀ c g cls l, readContainer b plan.pfTab = some c → s.stage d c plan 0 Placed.none 0 3 = .ok (g, cls) →
      Loading.functions ctx b c plan ⟨g.place, g.parts plan⟩ ((List.range c.fns.length).zip c.fns)
        ⟨(s.writeTexts d plan g.secs).kind4 ctx, g.place.texts, plan.metaVa, []⟩ = some l →
      ∃ t ks, exec i s = .next t ∧ t.kernels = s.kernels ++ ks ∧ ks.map Kernel.func = List.range c.fns.length ∧
        ∀ k ∈ ks, k.ctx = ctx ∧ (k.status = .ok ∨ k.status = .noImage))

/-- R374, R378. A unit is placed when each section lies at an address of its alignment, each text at a line of mapped instruction pages, each other
section and the GOT inside the scratchpad, and none of them meets another, one of unit 0, or a port store; else its status is PLACE.
A symbol's value is its text's index of instructions, its section's address plus its offset, or the word that the launcher
binds; one of another unit, or one that is not bound, gives UNDEF. -/
def Sys2Proof.Claims.UnitsArePlacedAndSymbolsResolved : Prop :=
  (∀ (s : State) (d : CtxDesc) (plan : LoadPlan) (u : Nat) (secs : List Sec) (zero : Placed),
    let texts := (secs.filter (fun x => x.kind == 1)).map (fun x => (placeOf plan x, x.data.length))
    let syms := gotSyms secs
    let got := ((plan.gots.find? (fun p => p.1 == u)).map Prod.snd).getD 0
    let pads := (secs.filter (fun x => x.kind == 2 || x.kind == 3)).map (fun x => (placeOf plan x, x.data.length)) ++
      (if syms = [] then [] else [(got, 8 * syms.length)])
    let good := (∀ x ∈ secs, x.kind ≠ 4 → placeOf plan x % 2 ^ x.align = 0) ∧ (syms ≠ [] → got % 8 = 0) ∧
      (∀ r ∈ pads, r.1 + r.2 ≤ 0x400000) ∧
      (∀ r ∈ texts, r.1 % 64 = 0 ∧ r.1 + r.2 ≤ 2 ^ 54 ∧ ∀ k < r.2 / 64, ∃ x, s.translateInsn d (r.1 + 64 * k) = .ok x) ∧
      (pads ++ zero.ranges).Pairwise (fun r q => ¬Meets r q) ∧ (texts ++ zero.texts).Pairwise (fun r q => ¬Meets r q) ∧
      ∀ r ∈ pads ++ zero.ranges, ∀ x ∈ secs, x.kind = 4 → ∀ v ∈ recordsOf x, v.type = 1 → ¬Meets r (v.f 4 4, v.f 8 4)
    (good → ∃ p, s.placeUnit d plan u secs zero = some p ∧ p.got = got ∧ p.syms = syms ∧ p.ranges = pads ∧ p.texts = texts ∧
      ∀ x ∈ secs, x.kind ≠ 4 → (x.idx, placeOf plan x) ∈ p.addr) ∧
    (¬good → s.placeUnit d plan u secs zero = none) ∧
    syms.Pairwise (· < ·) ∧ ∀ k, k ∈ syms ↔ ∃ x ∈ secs, x.kind = 1 ∧ ∃ r ∈ x.rels, r.kind = 4 ∧ r.sym = k) ∧
  (∀ (c : Cont) (plan : LoadPlan) (p : Placed) (u k : Nat) (y : Sym), c.syms[k]? = some y →
    let bound := (plan.ports.find? (fun q => q.1 == y.name)).map (fun q => q.2.toNat)
    (y.sect = 0xFFFF → (bound = none → resolve c plan p u k = .error .undef) ∧ ∀ v, bound = some v → resolve c plan p u k = .ok (v, y.skind)) ∧
    (∀ sec, y.sect ≠ 0xFFFF → c.secs[y.sect]? = some sec →
      (sec.unit ≠ 0 → sec.unit ≠ u → resolve c plan p u k = .error .undef) ∧
      (sec.unit = 0 ∨ sec.unit = u →
        (y.skind = 2 → (bound = none → resolve c plan p u k = .error .undef) ∧ ∀ v, bound = some v → resolve c plan p u k = .ok (v, 2)) ∧
        ∀ a, p.addr.find? (fun q => q.1 == y.sect) = some (y.sect, a) →
          (y.skind = 1 → sec.kind = 1 → resolve c plan p u k = .ok (5 * (a / 64) + y.value, 1)) ∧
          (y.skind = 0 → resolve c plan p u k = .ok (a + y.value, 0))))) ∧
  (∀ (c : Cont) (plan : LoadPlan) (p : Placed) (u : Nat) (ks : List Nat) (bs : List Byte), gotBytes c plan p u ks = .ok bs →
    bs.length = 8 * ks.length ∧ ∀ i k, ks[i]? = some k → ∃ S t, resolve c plan p u k = .ok (S, t) ∧ fld bs (8 * i) 8 = S % 2 ^ 64)

/-- R389, R390. What a relocation record writes, by its kind and field: the short immediate of a move, IMM20, IMM56, OFF32, an 8-byte item, a handler
entry of an item or of a HANDLER record, or the target of a HERD record; out of range is RELOC_RANGE, and another field, format
or place is BAD_RELOC. (That a record's place is out of its section counts as BAD_RELOC is log 98: the model's choice.) -/
def Sys2Proof.Claims.RelocationsWriteTheirFields : Prop :=
  ∀ (sec : Sec) (data : List Byte) (r : Rel) (v : Int),
    let fails (st : LoadStatus) : Prop := writeRel sec data r v = .error st
    let puts (off n : Nat) (ok : Nat → Prop) : Prop :=
      ∃ x, writeRel sec data r v = .ok (data.take off ++ toBytes n x ++ data.drop (off + n)) ∧ ok x
    (sec.kind = 1 →
      (data.length < r.offset + 12 ∨ r.offset % 64 % 12 ≠ 0 ∨ 60 ≤ r.offset % 64 → fails .badReloc) ∧
      (r.offset + 12 ≤ data.length → r.offset % 64 % 12 = 0 → r.offset % 64 < 60 →
        let w := fld data r.offset 12
        let fmt := w / 2 ^ 93 % 8
        let short := r.field < movesOf w ∧ w.testBit (62 - 31 * r.field + 26) = true
        let text (ok : Nat → Prop) : Prop := puts r.offset 12 ok
        (r.field ≤ 2 →
          (r.kind = 1 → ¬short → fails .badReloc) ∧
          (r.kind = 1 → short → (-2048 ≤ v → v ≤ 2047 → text (fun w' => ShortHolds w' w r.field v)) ∧ (v < -2048 ∨ 2047 < v → fails .relocRange)) ∧
          (r.kind = 3 ∨ r.kind = 5 → (¬HiFits v → fails .relocRange) ∧ (HiFits v → ¬short → fails .badReloc) ∧
            (HiFits v → short → ∀ x, LowOf v x → text (fun w' => ShortHolds w' w r.field x))) ∧
          (r.kind ≠ 1 → r.kind ≠ 3 → r.kind ≠ 5 → fails .badReloc)) ∧
        (3 < r.field → fails .badReloc) ∧
        (r.field = 3 →
          (r.kind = 1 → fmt = 2 → (-(2 ^ 55 : Int) ≤ v ∧ v < 2 ^ 55 → text (fun w' => FieldHolds w' w 61 6 (v % 2 ^ 56).toNat)) ∧
            (¬(-(2 ^ 55 : Int) ≤ v ∧ v < 2 ^ 55) → fails .relocRange)) ∧
          (r.kind = 7 → fmt = 2 → (v % 2 ^ 64 < 2 ^ 55 → text (fun w' => FieldHolds w' w 61 6 (v % 2 ^ 64).toNat)) ∧
            (2 ^ 55 ≤ v % 2 ^ 64 → fails .relocRange)) ∧
          (r.kind = 2 ∨ r.kind = 4 → fmt = 1 → (HiFits v → ∀ x, LowOf v x → text (fun w' => FieldHolds w' w 30 11 ((v - x) / 4096 % 2 ^ 20).toNat)) ∧
            (¬HiFits v → fails .relocRange)) ∧
          (r.kind = 2 → fmt = 3 →
            let fits := -(2 ^ 31 : Int) ≤ v ∧ v < 2 ^ 31 ∧ (w / 2 ^ 25 % 2 ^ 5 = 5 → 1 ≤ v)
            (fits → text (fun w' => FieldHolds w' w 61 30 (v % 2 ^ 32).toNat)) ∧ (¬fits → fails .relocRange)) ∧
          (¬((r.kind = 1 ∨ r.kind = 7) ∧ fmt = 2) → ¬((r.kind = 2 ∨ r.kind = 4) ∧ fmt = 1) → ¬(r.kind = 2 ∧ fmt = 3) → fails .badReloc)))) ∧
    (sec.kind ≠ 1 → sec.kind ≠ 4 →
      (data.length < r.offset + 8 → fails .badReloc) ∧
      (r.offset + 8 ≤ data.length →
        let e := fld data r.offset 8
        let aims := 0 ≤ v ∧ v < 5 * 2 ^ 48
        (r.kind = 1 → r.field = 4 → puts r.offset 8 (fun x => x = (v % 2 ^ 64).toNat)) ∧
        (r.kind = 7 → r.field = 4 → (v % 2 ^ 64 < 2 ^ 56 → puts r.offset 8 (fun x => x = (v % 2 ^ 64).toNat)) ∧
          (2 ^ 56 ≤ v % 2 ^ 64 → fails .relocRange)) ∧
        (r.kind = 6 → r.field = 6 ∨ r.field = 7 → (aims → puts r.offset 8 (fun x => HandlerHolds x e v (some (decide (r.field = 7))))) ∧
          (¬aims → fails .relocRange)) ∧
        (¬((r.kind = 1 ∨ r.kind = 7) ∧ r.field = 4) → ¬(r.kind = 6 ∧ (r.field = 6 ∨ r.field = 7)) → fails .badReloc))) ∧
    (sec.kind = 4 →
      ((∀ m ∈ recordsOf sec, m.off ≠ r.offset) → fails .badReloc) ∧
      ∀ m, (recordsOf sec).find? (fun m => m.off == r.offset) = some m →
        let aims := 0 ≤ v ∧ v < 5 * 2 ^ 48
        (m.type = 6 → r.kind = 6 → r.field = 5 →
          (aims → puts (r.offset + 16) 8 (fun x => HandlerHolds x (fld data (r.offset + 16) 8) v none)) ∧ (¬aims → fails .relocRange)) ∧
        (m.type = 3 → r.kind = 7 → r.field = 4 → (v % 2 ^ 64 < 2 ^ 56 → puts (r.offset + 16) 8 (fun x => x = (v % 2 ^ 64).toNat)) ∧
          (2 ^ 56 ≤ v % 2 ^ 64 → fails .relocRange)) ∧
        (¬(m.type = 6 ∧ r.kind = 6 ∧ r.field = 5) → ¬(m.type = 3 ∧ r.kind = 7 ∧ r.field = 4) → fails .badReloc))

/-- R389, R390. The value of a relocation record: S + A, less the instruction's index for PCHI20, or the address of the symbol's GOT
entry plus A for GOTHI20; a symbol of the wrong kind gives BAD_RELOC, and a LO12 record takes the value of the nearest
HI20 record before it of its kind, symbol and addend, or gives BAD_PAIR. The records of a section apply in order; a reserved code,
or two records that write one field, give BAD_RELOC. -/
def Sys2Proof.Claims.RelocationsApplyInOrder : Prop :=
  ∀ (c : Cont) (plan : LoadPlan) (p : Placed) (u base : Nat),
    (∀ (his : List (Rel × Int)) (r : Rel),
      let gives (v : Int) : Prop := relValue c plan p u base his r = .ok v
      let fails (st : LoadStatus) : Prop := relValue c plan p u base his r = .error st
      (r.kind ≠ 3 → r.kind ≠ 5 →
        (∀ st, resolve c plan p u r.sym = .error st → fails st) ∧
        ∀ S k, resolve c plan p u r.sym = .ok (S, k) →
          let wrong := (r.kind = 2 ∨ r.kind = 6) ∧ k ≠ 1 ∨ r.kind = 7 ∧ k ≠ 2
          (wrong → fails .badReloc) ∧
          (¬wrong → (r.kind = 2 → gives ((S : Int) + r.addend - (5 * ((base + r.offset) / 64) + r.offset % 64 / 12 : Nat))) ∧
            (r.kind = 4 → ∀ i, p.syms[i]? = some r.sym → (∀ j < i, p.syms[j]? ≠ some r.sym) → gives ((p.got + 8 * i : Nat) + r.addend)) ∧
            (r.kind ≠ 2 → r.kind ≠ 4 → gives ((S : Int) + r.addend)))) ∧
      (r.kind = 3 ∨ r.kind = 5 →
        ((∀ h ∈ his, ¬PairOf r h.1) → fails .badPair) ∧
        ∀ pre h post, his = pre ++ h :: post → PairOf r h.1 → (∀ q ∈ pre, ¬PairOf r q.1) → gives h.2)) ∧
    (∀ (sec : Sec) (r : Rel) (rs : List Rel) (his : List (Rel × Int)) (data : List Byte),
      let now := applyRels c plan p u base sec (r :: rs) his data
      let bad := r.kind = 0 ∨ 7 < r.kind ∨ 7 < r.field ∨ r.rsv ≠ 0 ∨ ∃ q ∈ rs, SamePlace r q
      (bad → now = .error .badReloc) ∧
      (¬bad → (∀ st, relValue c plan p u base his r = .error st → now = .error st) ∧
        ∀ v, relValue c plan p u base his r = .ok v → (∀ st, writeRel sec data r v = .error st → now = .error st) ∧
          ∀ next, writeRel sec data r v = .ok next →
            (r.kind = 2 ∨ r.kind = 4 → now = applyRels c plan p u base sec rs ((r, v) :: his) next) ∧
            (r.kind ≠ 2 → r.kind ≠ 4 → now = applyRels c plan p u base sec rs his next)) ∧
      applyRels c plan p u base sec [] his data = .ok data) ∧
    (∀ (xs ys : List Sec), relocUnit c plan p u xs = .ok ys → ys.length = xs.length ∧
      ∀ (i : Nat) (x y : Sec), xs[i]? = some x → ys[i]? = some y → ∃ next, applyRels c plan p u (placeOf plan x) x x.rels [] x.data = .ok next ∧
        y = { x with data := fixParity x next })

/-- R377, R379, R391, R392. A unit's checks come in this order: PLACE, the lifetime of its triggers, its relocations and its GOT, META, PROMISE. A pattern,
handler or port record that breaks its rule, a HANDLER record without its relocation and a reserved OPS bit give META. The class computed is the
highest that every text, marked form and template allows; a claim above it gives PROMISE, and else the kernel's class is the
lower of the two. -/
def Sys2Proof.Claims.UnitsAreCheckedAndClassed : Prop :=
  ∀ (s : State) (d : CtxDesc) (c : Cont) (plan : LoadPlan) (u : Nat) (zero : Placed) (ops cls : Nat),
    let found := s.stage d c plan u zero ops cls
    let raw := c.unit u
    let texts := (raw.filter (fun x => x.kind == 1)).map Sec.data
    (s.placeUnit d plan u raw zero = none → found = .error .place) ∧
    ∀ p, s.placeUnit d plan u raw zero = some p →
      (∀ st, lifeStatus s.ident.steppingB1 texts = some st → found = .error st) ∧
      (lifeStatus s.ident.steppingB1 texts = none →
        (∀ st, relocUnit c plan p u raw = .error st → found = .error st) ∧
        ∀ secs, relocUnit c plan p u raw = .ok secs →
          (∀ st, gotBytes c plan p u p.syms = .error st → found = .error st) ∧
          ∀ got, gotBytes c plan p u p.syms = .ok got →
            let g : Staged := ⟨p, secs, got, (secs.filter (fun x => x.kind == 4)).map (fun x => (x, recordsOf x))⟩
            (2 ^ 5 ≤ ops → found = .error .metaBad) ∧
            (∀ x ∈ secs, x.kind = 4 → ∀ r ∈ recordsOf x,
              (r.type = 4 → 2 ^ 19 ≤ r.f 8 8 → found = .error .metaBad) ∧
              (r.type = 5 → ¬PatternTakes (r.f 16 16) → found = .error .metaBad) ∧
              (r.type = 6 → 5 ≤ r.f 8 8 % 2 ^ 3 ∨ r.f 8 8 / 2 ^ 3 % 2 ^ 3 ≠ 0 ∨ r.f 8 8 / 2 ^ 56 ≠ 0 → found = .error .metaBad) ∧
              (r.type = 6 → (∀ q ∈ x.rels, q.offset = r.off → q.kind ≠ 6) → found = .error .metaBad)) ∧
            (g.metaWrong raw ops = true → found = .error .metaBad) ∧
            (g.metaWrong raw ops = false → ∀ k, ClassBound g ops k → (∀ j, ClassBound g ops j → k ≤ j) →
              ((∃ j, Claimed g cls j ∧ j < k) → found = .error .promise) ∧
              ((∀ j, Claimed g cls j → k ≤ j) →
                ∃ m, found = .ok (g, m) ∧ k ≤ m ∧ (m = k ∨ Claimed g cls m) ∧ ∀ j, Claimed g cls j → j ≤ m)))

/-- R392, R393. A VTILE record gives a template: PSBASE and PSSIZE, and in each entry of its three tables what the last record of that
entry says, or zero. The image holds every part at its place and zeros between them. A load writes the image, the templates,
the flock descriptors, those that the HERD record names first, and a kernel's prototype one after the other. -/
def Sys2Proof.Claims.TemplatesAndDescriptorsAreBuilt : Prop :=
  (∀ (rs : List MetaRec) (v : MetaRec),
    let t := recTemplate rs v
    t.psBase = v.f 4 4 ∧ t.psSize = v.f 8 4 ∧ ∀ i < 32,
      (∀ r, Fills rs v 4 i r → t.ports.getD i 0 = r.f 8 8) ∧ (Unnamed rs v 4 i → t.ports.getD i 0 = 0) ∧
      (∀ r, Fills rs v 5 i r → t.pats.getD i 0 = r.f 16 16) ∧ (Unnamed rs v 5 i → t.pats.getD i 0 = 0) ∧
      (∀ r, Fills rs v 6 i r → t.hnds.getD i 0 = r.f 8 8) ∧ (Unnamed rs v 6 i → t.hnds.getD i 0 = 0)) ∧
  (∀ (parts : List (Nat × List Byte)), (parts.Pairwise (fun p q => ¬Meets (p.1, p.2.length) (q.1, q.2.length))) →
    let lo := (imageOf parts).1
    let img := (imageOf parts).2
    (∀ p ∈ parts, lo ≤ p.1 ∧ p.1 + p.2.length ≤ lo + img.length ∧ ∀ i < p.2.length, img.getD (p.1 - lo + i) 0 = p.2.getD i 0) ∧
    (parts ≠ [] → (∃ p ∈ parts, p.1 = lo) ∧ ∃ p ∈ parts, p.1 + p.2.length = lo + img.length) ∧ (parts = [] → lo = 0 ∧ img = []) ∧
    ∀ i, (∀ p ∈ parts, lo + i < p.1 ∨ p.1 + p.2.length ≤ lo + i) → img.getD i 0 = 0) ∧
  (∀ (g : Staged) (zero : List (Nat × List Byte)) (plan : LoadPlan) (va fbase : Nat) (kernel : Bool),
    let out := emit g zero plan va fbase kernel
    let bytes := out.1
    let lo := (imageOf (zero ++ g.parts plan)).1
    let img := (imageOf (zero ++ g.parts plan)).2
    let tOff := (img.length + 63) / 64 * 64
    let fOff := tOff + 1088 * g.vtiles.length
    out.2.1 = fOff ∧ bytes.take img.length = img ∧
    (∀ n v, g.vtiles[n]? = some v →
      let at_ := tOff + 1088 * n
      let t := v.2.2
      fld bytes at_ 4 = t.psBase % 2 ^ 32 ∧ fld bytes (at_ + 4) 4 = t.psSize % 2 ^ 32 ∧
      fld bytes (at_ + 8) 8 = (if img = [] then 0 else va % 2 ^ 64) ∧ fld bytes (at_ + 16) 4 = img.length % 2 ^ 32 ∧
      fld bytes (at_ + 20) 4 = lo % 2 ^ 32 ∧ fld bytes (at_ + 24) 40 = 0 ∧ ∀ i < 32, fld bytes (at_ + 64 + 8 * i) 8 = t.ports.getD i 0 % 2 ^ 64 ∧
        fld bytes (at_ + 320 + 16 * i) 16 = t.pats.getD i 0 % 2 ^ 128 ∧ fld bytes (at_ + 832 + 8 * i) 8 = t.hnds.getD i 0 % 2 ^ 64) ∧
    (∀ h (fl : Nat → Nat × MetaRec), g.herds = [h] → (∀ f ∈ g.flocks, f.2.body.length = 24) →
      let nflock := h.2.f 4 4
      (∀ j < nflock, g.flocks.filter (fun f => f.1 == h.1 && f.2.idx == h.2.f (16 + 4 * j) 4) = [fl j]) →
      (∀ j < nflock, ∀ k n, g.flocks[k]? = some (fl j) →
        (g.vtiles.map (fun v => (v.1, v.2.1.idx)))[n]? = some ((fl j).1, (fl j).2.f 4 4) →
        (∀ m < n, (g.vtiles.map (fun v => (v.1, v.2.1.idx)))[m]? ≠ some ((fl j).1, (fl j).2.f 4 4)) →
        let at_ := fOff + 64 * j
        fld bytes at_ 2 = (fbase + k) % 2 ^ 16 ∧ fld bytes (at_ + 2) 2 = 0x8000 ∧ fld bytes (at_ + 4) 16 = (fl j).2.f 8 16 ∧ fld bytes (at_ + 20) 4 = 0 ∧
        fld bytes (at_ + 24) 8 = (va + tOff + 1088 * n) % 2 ^ 64 ∧ fld bytes (at_ + 32) 32 = 0) ∧
      (kernel = true → ∃ o, out.2.2 = some o ∧ bytes.length = o + 64 ∧ fld bytes o 8 = nflock * 2 ^ 16 % 2 ^ 64 ∧ fld bytes (o + 8) 8 = h.2.f 8 8 ∧
        fld bytes (o + 16) 8 = 0 ∧ fld bytes (o + 24) 8 = (va + fOff) % 2 ^ 64 ∧ fld bytes (o + 32) 32 = 0)) ∧
    (kernel = false → out.2.2 = none))

/-- R377, R380, R391 to R393. The images of a function that may run here are tried by PREFER, then GEN, then number; the first whose unit is accepted is
taken, and its text, templates and descriptors are in memory and an instruction invalidation is complete; with none, and no
portable form, the function's status is NOIMAGE. (The bytes of a load are looked at where they lie in one page of this module.) -/
def Sys2Proof.Claims.ImagesAreChosenAndWritten : Prop :=
  (∀ (c : Cont) (active : Nat) (b1 : Bool) (f : Fn),
    let l := c.candidates active b1 f
    (∀ i, i ∈ l ↔ i ∈ (c.imgs.drop f.firstImg).take f.nImg ∧ (BitVec.ofNat 64 i.req &&& ~~~(BitVec.ofNat 64 active)) = 0 ∧ i.gen ≤ 3 ∧
      (i.step = 0 ∨ i.step.testBit (if b1 then 1 else 0) = true)) ∧
    l.Pairwise (fun i j => j.prefer < i.prefer ∨ i.prefer = j.prefer ∧ (j.gen < i.gen ∨ i.gen = j.gen ∧ i.idx ≤ j.idx))) ∧
  (∀ (l : Loading) (ctx : Nat) (b : List Byte) (c : Cont) (plan : LoadPlan) (sh : Shared) (n : Nat) (f : Fn),
    let tried := c.candidates l.s.active_ l.s.ident.steppingB1 f
    let gives (i : Img) := l.image ctx c plan sh n f i true
    (∀ pre i post l', tried = pre ++ i :: post → (∀ j ∈ pre, gives j = some none) → gives i = some (some l') →
      l.function ctx b c plan sh n f = some l') ∧
    ((∀ j ∈ tried, gives j = some none) → f.nPf = 0 →
      l.function ctx b c plan sh n f = some { l with done := l.done ++ [⟨ctx, n, .noImage, none, 2, 0, none⟩] }) ∧
    ∀ i : Img,
      let d := (l.s.ctx ctx).desc
      let unit_ := l.s.stage d c plan i.unit { sh.place with texts := l.texts } i.ops i.cls
      (∀ st, unit_ = .error st → gives i = some none) ∧
      ∀ g cls pa a, unit_ = .ok (g, cls) →
        let out := emit g sh.parts plan l.va (plan.fbases.getD n 0) (c.isKernel f)
        l.s.virtPieces d l.va out.1.length = .ok [(pa, out.1.length)] → l.s.home pa = .rim a → l.s.rim.mem.wf = true →
        ∃ l', gives i = some (some l') ∧ l'.va = l.va + out.1.length ∧ l'.texts = l.texts ++ g.place.texts ∧
          l'.done = l.done ++ [⟨ctx, n, .ok, some i.idx, cls, l.va + out.2.1, out.2.2.map (fun o => l.va + o)⟩] ∧
          (∀ k < out.1.length, memGet l'.s.rim.mem (a + k) = out.1.getD k 0) ∧
          l'.s.regs.tinvDone = (l.s.regs.tinvDone + 1) % 2 ^ 32 ∧
          (l'.s.ctx ctx).live = (l.s.ctx ctx).live ||| BitVec.ofNat 64 i.req ∧
          ∀ x pt page t0, g.secs.filter (fun x => x.kind == 1) = [x] → x.data.length = 64 → l.s.translateInsn d (placeOf plan x) = .ok (pt, page) →
            l.s.home pt = .rim t0 → t0 + 64 ≤ a ∨ a + out.1.length ≤ t0 → ∀ k < 64, memGet l'.s.rim.mem (t0 + k) = x.data.getD k 0)

/-- R384, R385. The nodes of a portable form. An operation node whose trigger neither stalls nor traps fires it with ARG0 to ARG2 in the latches, an operand of no
value being zero, and its value is the result when that has landed; CONST gives the bytes of the pool, PARAM a register of the firing's start, PHI its first
operand on the first pass and its third later; FINISH ends the firing, or returns from an invocation. A SYS trigger in
a user slot takes PRIVILEGE (R92). -/
def Sys2Proof.Claims.PortableNodesAct : Prop :=
  ∀ (s : State) (r : SRef) (lib : Nat → Option Form) (run : NodeRun) (b : Body) (outer : List Body) (n : Node), run.bodies = b :: outer → b.node = some n →
    let at_ (b' : Body) (t : State) : Prop := s.runNode r lib run = .next { run with bodies := b' :: outer } t
    let arg (k : Nat) : VWord := if k = noVal then 0 else (Tbl.find? b.vals k).getD 0
    (∀ t, opTrig n.op = some t → (s.slot r).landed (trigUnit t) = true →
      let u := trigUnit t
      let s1 := s.modSlot r (b.latches n u)
      let k := meaningOf t (BitVec.ofNat 3 n.mod) (arg n.a0)
      let allowed := (s.slot r).sup = true ∨ u ≠ .sys
      (b.issued = false → ¬allowed → s.runNode r lib run = .trap run (s.trapHere r 0x03 0 7)) ∧
      (b.issued = false → allowed → s1.trigStalls r t (BitVec.ofNat 3 n.mod) = false → k.stall s1 r = false → k.check s1 r = none →
        at_ { b with issued := true } (k.fire s1 r) ∧
        (s.hasVt r.vt = true → u ≠ .vec → u ≠ .rng → ((s1.slot r).lat.get u).a.setWidth 64 = (arg n.a0).setWidth 64 ∧
          ((s1.slot r).lat.get u).b.setWidth 64 = (arg n.a1).setWidth 64 ∧ ((s1.slot r).lat.get u).c.setWidth 64 = (arg n.a2).setWidth 64)) ∧
      (b.issued = true → n.dst ≠ noVal → n.dst2 = noVal → ∃ b', at_ b' s ∧ b'.next = n.idx + 1 ∧
        (u ≠ .vec → u ≠ .rng → Tbl.find? b'.vals n.dst = some ((((s.slot r).lat.get u).q.setWidth 64).setWidth 1024)))) ∧
    (n.op = 0x0001 → n.mod = 0 → n.dst ≠ noVal → ∃ b', at_ b' s ∧ b'.next = n.idx + 1 ∧
      Tbl.find? b'.vals n.dst = some (BitVec.ofNat 1024 (ofBytes ((b.form.pool.drop n.a0).take 8)))) ∧
    (n.op = 0x0002 → n.a0 < 32 → n.dst ≠ noVal → ∃ b', at_ b' s ∧ b'.next = n.idx + 1 ∧
      Tbl.find? b'.vals n.dst = some ((vget b.x n.a0 0).setWidth 1024)) ∧
    (n.op = 0x0004 → n.dst ≠ noVal → ∀ k rest, b.blocks = k :: rest → k.head = n.a1 → ∃ b', at_ b' s ∧
      Tbl.find? b'.vals n.dst = some (((arg (if k.pass = 0 then n.a0 else n.a2)).setWidth 64).setWidth 1024)) ∧
    (n.op = 0x0E08 → (outer = [] → s.runNode r lib run = .done run.copies (s.endFiring r)) ∧
      (∀ o rest m, outer = o :: rest → o.node = some m → m.op = 0x1008 → m.dst ≠ noVal → ∃ o', s.runNode r lib run = .next { run with bodies := o' :: rest } s ∧
        o'.next = m.idx + 1 ∧ Tbl.find? o'.vals m.dst = some (((arg n.a0).setWidth 64).setWidth 1024)))

/-- R385, R386. A LOOP of a count of zero is passed over; one of a count c > 0 runs its body c times: at each END but the last it goes back to the node after the
LOOP, and at the c-th it goes on after the END. A FOR gives its value 0, 1, … c - 1 on its passes. -/
def Sys2Proof.Claims.PortableLoopsRunTheirPasses : Prop :=
  ∀ (b : Body) (l e : Node), (l.op = 0x0E01 ∨ l.op = 0x1002) → e.op = 0x0E04 → l.a1 = e.idx → b.form.nodes.find? (fun m => m.idx == l.idx) = some l →
    let c := ((if l.a0 = noVal then 0 else (Tbl.find? b.vals l.a0).getD 0).setWidth 64).toNat
    let passes (k : Nat) : Body := (fun x : Body => x.flow e)^[k] (b.flow l)
    (c = 0 → (b.flow l).next = e.idx + 1 ∧ (b.flow l).blocks = b.blocks) ∧
    (∀ k < c, (passes k).next = l.idx + 1 ∧ (passes k).blocks = ⟨l.idx, e.idx, k, c⟩ :: b.blocks ∧
      (l.op = 0x1002 → l.dst ≠ noVal → Tbl.find? (passes k).vals l.dst = some (BitVec.ofNat 1024 k))) ∧
    (0 < c → (passes c).next = e.idx + 1 ∧ (passes c).blocks = b.blocks)

/-- R90, R92, R363 to R368, R371, R373, R374, R377 to R380, R384 to R386, R389 to R393, R396, R405 to R407, R410. Recovery points, boot, measurement, loading
and the nodes of portable forms. (Clauses on log 5, 67, 68, 69, 71 and 98 are the model's choice.) -/
def Obligations.RecoveryBootAndLoading : Prop :=
  PointsAreCutCommittedAndRestored ∧ BootAndMeasurement ∧ ContainersAreLoaded ∧ UnitsArePlacedAndSymbolsResolved ∧
  RelocationsWriteTheirFields ∧ RelocationsApplyInOrder ∧ UnitsAreCheckedAndClassed ∧ TemplatesAndDescriptorsAreBuilt ∧
  ImagesAreChosenAndWritten ∧ PortableNodesAct ∧ PortableLoopsRunTheirPasses

/-! ## Errors, links and background activity (chapters 12 and 14) -/

/-- R140, R283, R295, R354, R359, R404. A correctable error waits for its reader, and the scrubber corrects and logs it; an uncorrectable one poisons a word, a line or a burst, ends the
firing whose slot state it struck and holds the vtile, tears a context down, or is followed by a rollback. (That an error in the state of
a slot, a vtile or the shepherd acts at once is log 65: the model's choice.) -/
def Sys2Proof.Claims.ErrorsAreHandled : Prop :=
  ∀ (s : State),
    (∀ v a, s.hasVt v = true → ∀ b, ∃ t, exec (.softError (.scratchpad v a) b) s = .next t ∧ SameBytes s t ∧
      (b = true → Tbl.find? (t.vt v).marks (a / 8) = some .poison) ∧
      (b = false → Tbl.find? (s.vt v).marks (a / 8) = none → Tbl.find? (t.vt v).marks (a / 8) = some .correctable)) ∧
    (∀ c a, (s.ctx c).regs.st ≠ .none → ∃ t, exec (.softError (.commons c a) true) s = .next t ∧ Tbl.find? (t.ctx c).cmarks (a / 64) = some .poison ∧
      (t.ctx c).commons = (s.ctx c).commons) ∧
    (∀ a, ∃ t, exec (.softError (.rim a) true) s = .next t ∧ a / 64 ∈ t.rim.poison ∧ t.rim.mem = s.rim.mem) ∧
    (∀ r, s.hasVt r.vt = true → (s.slot r).status ≠ .free →
      ∃ t, exec (.softError (.slotState r) true) s = .next t ∧ (t.slot r).status = .free ∧ (t.vt r.vt).hold.trap = true ∧
        Sends s t r.vt.ctx (fun m => m.kind = 5 ∧ m.reason = 0x29 ∧ m.srank = r.vt.rank ∧
          m.payload = [BitVec.ofNat 64 r.slot.val, BitVec.ofNat 64 (s.slot r).ix])) ∧
    (∀ v, ∃ t, exec (.softError (.vtileState v) true) s = .next t ∧ t.inputs = .teardown v.ctx 0x14 :: s.inputs) ∧
    (∃ t, exec (.softError .croft true) s = .next t ∧ t.inputs = .rollback :: s.inputs) ∧
    (∀ v a, s.hasVt v = true → Tbl.find? (s.vt v).marks (a / 8) = some .correctable → Tbl.sorted (s.vt v).marks = true → s.croft.elog = [] →
      ∃ t, exec (.scrub (.scratchpad v a)) s = .next t ∧ Tbl.find? (t.vt v).marks (a / 8) = none ∧ SameBytes s t ∧
        Logs s t 0 0 v.ctx (s.vt v).site (a / 8 * 8)) ∧
    (∀ v a, Tbl.find? (s.vt v).marks (a / 8) = some .poison → s.croft.elog = [] →
      ∃ t, exec (.scrub (.scratchpad v a)) s = .next t ∧ (t.vt v).marks = (s.vt v).marks ∧ Logs s t 0 1 v.ctx (s.vt v).site (a / 8 * 8)) ∧
    (∀ a, s.rim.weak = [a / 64] → s.rim.poison = [] → s.croft.elog = [] →
      ∃ t, exec (.scrub (.rim a)) s = .next t ∧ t.rim.weak = [] ∧ t.rim.mem = s.rim.mem ∧ Logs s t 3 0 0xFFFF 0 (a / 64 * 64))

/-- R360, R408, R409, R411 to R413. A link that fails beyond eight resends is retired: a fabric port leaves PORTUP, and a route that it leaves empty is followed by a
rollback. A port that comes up joins PORTUP. Calibration, telemetry, refresh and throttling change no result; a throttle and a
trip are logged, and a trip stops the module. (That nothing but inputs happens after a trip is log 71: the model's choice.) -/
def Sys2Proof.Claims.LinksAndBackground : Prop :=
  ∀ (s : State),
    (∀ link port fails, fails ≤ 8 → exec (.linkFlitRetry link port fails) s = .next s) ∧
    (∀ link (p : Fin 64) fails, 8 < fails → s.croft.elog = [] →
      let up := s.fabric.portUp &&& ~~~(1#64 <<< p.val)
      let lost := ∃ m < 768, (Tbl.getD s.fabric.routes (2 * m + 1) 0).getLsbD 0 = true ∧
        Tbl.getD s.fabric.routes (2 * m) 0 &&& s.fabric.portUp ≠ 0 ∧ Tbl.getD s.fabric.routes (2 * m) 0 &&& up = 0
      ∃ t, exec (.linkFlitRetry link (some p) fails) s = .next t ∧ t.fabric.portUp = up ∧ 3 ∈ t.croft.irqs ∧ Logs s t 9 2 0xFFFF link 0 ∧ t.ctxs = s.ctxs ∧
        (lost → t.inputs = .rollback :: s.inputs) ∧ (¬lost → t.inputs = s.inputs)) ∧
    (∀ p : Fin 64, exec (.linkUp p) s = .next { s with fabric := { s.fabric with portUp := s.fabric.portUp ||| (1#64 <<< p.val) } }) ∧
    (∀ n (p : Fin 64) (k : Fin 32), ∀ i ∈ [Instr.meshLinkCalibration n, .fabricLaneCalibration p, .telemetrySample, .powerThrottle, .hbm4eRefresh k],
      exec i s = .next s) ∧
    (∀ f, s.croft.elog = [] → ∃ t, exec (.thermalThrottle f) s = .next t ∧ Logs s t 10 3 0xFFFF f 0 ∧ t.ctxs = s.ctxs ∧ t.rim = s.rim ∧ t.ambient = s.ambient) ∧
    (∀ f, s.croft.elog = [] → ∃ t, exec (.thermalTrip f) s = .next t ∧ Logs s t 10 4 0xFFFF f 0 ∧ f ∈ t.ambient.tripped ∧ t.cands = (t.input.toList.map Cand.event))

/-- R140, R283, R295, R354, R359, R360, R404, R408, R409, R411 to R413. Errors, links, power, heat and what runs in the background. (Clauses on log 65 and 71
are the model's choice.) -/
def Obligations.ErrorsLinksAndBackgroundActivity : Prop := ErrorsAreHandled ∧ LinksAndBackground

/-! ## Reset, and what every step keeps -/

/-- R292, R302, R308, R312, R319, R359, R396, R402, R404, R408, R412. After reset no context is there and every context window reads STATE 0, every key slot is EMPTY, no
halt group is stopped and every one is the croft's, the shepherd has its four parameters, and the other registers read 0;
the tiles and folds hold nothing, and every memory is in canonical form. (Where the spec states no reset value of a register, log 3, and
that rim memory reads 0, log 5: the model's choice.) -/
def Obligations.ResetLeavesTheStatedValues : Prop :=
  let s := State.reset
  Canonical s ∧
  (∀ n, (s.ctx n).regs = CtxRegs.blank ∧ (s.ctx n).regs.st = .none ∧ ∀ q : Fin 16, s.queue n q.val = LaunchQueue.blank) ∧
  (∀ k, (Tbl.getD s.keys k KeySlot.blank).st = .empty ∧ (Tbl.getD s.keys k KeySlot.blank).owner = 0) ∧
  (∀ g < 64, s.regRead (0x500000 + 8 * g) = 2 ^ 8) ∧ s.regRead 0x500210 = 0 ∧
  s.regRead 0x140000 = 100 + 50 * 2 ^ 16 + 64 * 2 ^ 32 + 16 * 2 ^ 40 ∧ s.regRead 0x300018 = 0 ∧ s.regRead 0x600000 = 0 ∧ s.regRead 0x600008 = 0 ∧
  s.regRead 0x600018 = 0 ∧ s.regRead 0x700008 = 0 ∧ s.regRead 0x700010 = 0 ∧ s.regRead 0x000010 = 0 ∧
  (∀ n, s.tile n = Tile.blank ∧ s.fold n = Fold.blank) ∧ (∀ a, memGet s.rim.mem a = 0) ∧ step s = .next s.advance

/-- Every step keeps every memory and every sparse table in its one form, so that equal contents are equal data. -/
def Obligations.EveryStepKeepsTheCanonicalForms : Prop := ∀ (s t : State), Canonical s → step s = .next t → Canonical t
end

