-- ==== Sys2Proof/Laws/State.lean ====
section
/-!
SUPPORT. What each update of the state leaves alone and what it sets, field by field.
-/
namespace Sys2Proof.Machine

variable (s : State)

@[simp] theorem State.modCtx_ctxs (n : Nat) (f : Ctx → Ctx) : (s.modCtx n f).ctxs = Tbl.upsert s.ctxs n Ctx.blank f := rfl
@[simp] theorem State.modCtx_tiles (n : Nat) (f : Ctx → Ctx) : (s.modCtx n f).tiles = s.tiles := rfl
@[simp] theorem State.modCtx_folds (n : Nat) (f : Ctx → Ctx) : (s.modCtx n f).folds = s.folds := rfl
@[simp] theorem State.modCtx_rim (n : Nat) (f : Ctx → Ctx) : (s.modCtx n f).rim = s.rim := rfl
@[simp] theorem State.modCtx_keys (n : Nat) (f : Ctx → Ctx) : (s.modCtx n f).keys = s.keys := rfl
@[simp] theorem State.modCtx_s2gen (n : Nat) (f : Ctx → Ctx) : (s.modCtx n f).s2gen = s.s2gen := rfl
@[simp] theorem State.modCtx_regs (n : Nat) (f : Ctx → Ctx) : (s.modCtx n f).regs = s.regs := rfl
@[simp] theorem State.modCtx_crook (n : Nat) (f : Ctx → Ctx) : (s.modCtx n f).crook = s.crook := rfl
@[simp] theorem State.modCtx_croft (n : Nat) (f : Ctx → Ctx) : (s.modCtx n f).croft = s.croft := rfl
@[simp] theorem State.modCtx_fabric (n : Nat) (f : Ctx → Ctx) : (s.modCtx n f).fabric = s.fabric := rfl
@[simp] theorem State.modCtx_ambient (n : Nat) (f : Ctx → Ctx) : (s.modCtx n f).ambient = s.ambient := rfl
@[simp] theorem State.modCtx_recovery (n : Nat) (f : Ctx → Ctx) : (s.modCtx n f).recovery = s.recovery := rfl
@[simp] theorem State.modCtx_kernels (n : Nat) (f : Ctx → Ctx) : (s.modCtx n f).kernels = s.kernels := rfl
@[simp] theorem State.modCtx_ident (n : Nat) (f : Ctx → Ctx) : (s.modCtx n f).ident = s.ident := rfl
@[simp] theorem State.modCtx_inputs (n : Nat) (f : Ctx → Ctx) : (s.modCtx n f).inputs = s.inputs := rfl
@[simp] theorem State.modCtx_tick (n : Nat) (f : Ctx → Ctx) : (s.modCtx n f).tick = s.tick := rfl
@[simp] theorem State.modCtx_cur (n : Nat) (f : Ctx → Ctx) : (s.modCtx n f).cur = s.cur := rfl

@[simp] theorem State.inCtx_ctxs (n : Nat) (f : Ctx → Ctx) : (s.inCtx n f).ctxs = Tbl.modify s.ctxs n f := rfl
@[simp] theorem State.inCtx_tiles (n : Nat) (f : Ctx → Ctx) : (s.inCtx n f).tiles = s.tiles := rfl
@[simp] theorem State.inCtx_folds (n : Nat) (f : Ctx → Ctx) : (s.inCtx n f).folds = s.folds := rfl
@[simp] theorem State.inCtx_rim (n : Nat) (f : Ctx → Ctx) : (s.inCtx n f).rim = s.rim := rfl
@[simp] theorem State.inCtx_keys (n : Nat) (f : Ctx → Ctx) : (s.inCtx n f).keys = s.keys := rfl
@[simp] theorem State.inCtx_s2gen (n : Nat) (f : Ctx → Ctx) : (s.inCtx n f).s2gen = s.s2gen := rfl
@[simp] theorem State.inCtx_regs (n : Nat) (f : Ctx → Ctx) : (s.inCtx n f).regs = s.regs := rfl
@[simp] theorem State.inCtx_crook (n : Nat) (f : Ctx → Ctx) : (s.inCtx n f).crook = s.crook := rfl
@[simp] theorem State.inCtx_croft (n : Nat) (f : Ctx → Ctx) : (s.inCtx n f).croft = s.croft := rfl
@[simp] theorem State.inCtx_fabric (n : Nat) (f : Ctx → Ctx) : (s.inCtx n f).fabric = s.fabric := rfl
@[simp] theorem State.inCtx_ambient (n : Nat) (f : Ctx → Ctx) : (s.inCtx n f).ambient = s.ambient := rfl
@[simp] theorem State.inCtx_recovery (n : Nat) (f : Ctx → Ctx) : (s.inCtx n f).recovery = s.recovery := rfl
@[simp] theorem State.inCtx_kernels (n : Nat) (f : Ctx → Ctx) : (s.inCtx n f).kernels = s.kernels := rfl
@[simp] theorem State.inCtx_ident (n : Nat) (f : Ctx → Ctx) : (s.inCtx n f).ident = s.ident := rfl
@[simp] theorem State.inCtx_inputs (n : Nat) (f : Ctx → Ctx) : (s.inCtx n f).inputs = s.inputs := rfl
@[simp] theorem State.inCtx_tick (n : Nat) (f : Ctx → Ctx) : (s.inCtx n f).tick = s.tick := rfl
@[simp] theorem State.inCtx_cur (n : Nat) (f : Ctx → Ctx) : (s.inCtx n f).cur = s.cur := rfl

@[simp] theorem State.modVt_tiles (v : VRef) (f : Vtile → Vtile) : (s.modVt v f).tiles = s.tiles := rfl
@[simp] theorem State.modVt_folds (v : VRef) (f : Vtile → Vtile) : (s.modVt v f).folds = s.folds := rfl
@[simp] theorem State.modVt_rim (v : VRef) (f : Vtile → Vtile) : (s.modVt v f).rim = s.rim := rfl
@[simp] theorem State.modVt_keys (v : VRef) (f : Vtile → Vtile) : (s.modVt v f).keys = s.keys := rfl
@[simp] theorem State.modVt_s2gen (v : VRef) (f : Vtile → Vtile) : (s.modVt v f).s2gen = s.s2gen := rfl
@[simp] theorem State.modVt_regs (v : VRef) (f : Vtile → Vtile) : (s.modVt v f).regs = s.regs := rfl
@[simp] theorem State.modVt_crook (v : VRef) (f : Vtile → Vtile) : (s.modVt v f).crook = s.crook := rfl
@[simp] theorem State.modVt_croft (v : VRef) (f : Vtile → Vtile) : (s.modVt v f).croft = s.croft := rfl
@[simp] theorem State.modVt_fabric (v : VRef) (f : Vtile → Vtile) : (s.modVt v f).fabric = s.fabric := rfl
@[simp] theorem State.modVt_ambient (v : VRef) (f : Vtile → Vtile) : (s.modVt v f).ambient = s.ambient := rfl
@[simp] theorem State.modVt_recovery (v : VRef) (f : Vtile → Vtile) : (s.modVt v f).recovery = s.recovery := rfl
@[simp] theorem State.modVt_kernels (v : VRef) (f : Vtile → Vtile) : (s.modVt v f).kernels = s.kernels := rfl
@[simp] theorem State.modVt_ident (v : VRef) (f : Vtile → Vtile) : (s.modVt v f).ident = s.ident := rfl
@[simp] theorem State.modVt_inputs (v : VRef) (f : Vtile → Vtile) : (s.modVt v f).inputs = s.inputs := rfl
@[simp] theorem State.modVt_tick (v : VRef) (f : Vtile → Vtile) : (s.modVt v f).tick = s.tick := rfl
@[simp] theorem State.modVt_cur (v : VRef) (f : Vtile → Vtile) : (s.modVt v f).cur = s.cur := rfl

@[simp] theorem State.modSlot_tiles (r : SRef) (f : Slot → Slot) : (s.modSlot r f).tiles = s.tiles := rfl
@[simp] theorem State.modSlot_folds (r : SRef) (f : Slot → Slot) : (s.modSlot r f).folds = s.folds := rfl
@[simp] theorem State.modSlot_rim (r : SRef) (f : Slot → Slot) : (s.modSlot r f).rim = s.rim := rfl
@[simp] theorem State.modSlot_keys (r : SRef) (f : Slot → Slot) : (s.modSlot r f).keys = s.keys := rfl
@[simp] theorem State.modSlot_s2gen (r : SRef) (f : Slot → Slot) : (s.modSlot r f).s2gen = s.s2gen := rfl
@[simp] theorem State.modSlot_regs (r : SRef) (f : Slot → Slot) : (s.modSlot r f).regs = s.regs := rfl
@[simp] theorem State.modSlot_crook (r : SRef) (f : Slot → Slot) : (s.modSlot r f).crook = s.crook := rfl
@[simp] theorem State.modSlot_croft (r : SRef) (f : Slot → Slot) : (s.modSlot r f).croft = s.croft := rfl
@[simp] theorem State.modSlot_fabric (r : SRef) (f : Slot → Slot) : (s.modSlot r f).fabric = s.fabric := rfl
@[simp] theorem State.modSlot_ambient (r : SRef) (f : Slot → Slot) : (s.modSlot r f).ambient = s.ambient := rfl
@[simp] theorem State.modSlot_recovery (r : SRef) (f : Slot → Slot) : (s.modSlot r f).recovery = s.recovery := rfl
@[simp] theorem State.modSlot_kernels (r : SRef) (f : Slot → Slot) : (s.modSlot r f).kernels = s.kernels := rfl
@[simp] theorem State.modSlot_ident (r : SRef) (f : Slot → Slot) : (s.modSlot r f).ident = s.ident := rfl
@[simp] theorem State.modSlot_inputs (r : SRef) (f : Slot → Slot) : (s.modSlot r f).inputs = s.inputs := rfl
@[simp] theorem State.modSlot_tick (r : SRef) (f : Slot → Slot) : (s.modSlot r f).tick = s.tick := rfl
@[simp] theorem State.modSlot_cur (r : SRef) (f : Slot → Slot) : (s.modSlot r f).cur = s.cur := rfl

@[simp] theorem State.modTile_ctxs (n : Nat) (f : Tile → Tile) : (s.modTile n f).ctxs = s.ctxs := rfl
@[simp] theorem State.modTile_tiles (n : Nat) (f : Tile → Tile) : (s.modTile n f).tiles = Tbl.upsert s.tiles n Tile.blank f := rfl
@[simp] theorem State.modTile_folds (n : Nat) (f : Tile → Tile) : (s.modTile n f).folds = s.folds := rfl
@[simp] theorem State.modTile_rim (n : Nat) (f : Tile → Tile) : (s.modTile n f).rim = s.rim := rfl
@[simp] theorem State.modTile_keys (n : Nat) (f : Tile → Tile) : (s.modTile n f).keys = s.keys := rfl
@[simp] theorem State.modTile_s2gen (n : Nat) (f : Tile → Tile) : (s.modTile n f).s2gen = s.s2gen := rfl
@[simp] theorem State.modTile_regs (n : Nat) (f : Tile → Tile) : (s.modTile n f).regs = s.regs := rfl
@[simp] theorem State.modTile_crook (n : Nat) (f : Tile → Tile) : (s.modTile n f).crook = s.crook := rfl
@[simp] theorem State.modTile_croft (n : Nat) (f : Tile → Tile) : (s.modTile n f).croft = s.croft := rfl
@[simp] theorem State.modTile_fabric (n : Nat) (f : Tile → Tile) : (s.modTile n f).fabric = s.fabric := rfl
@[simp] theorem State.modTile_ambient (n : Nat) (f : Tile → Tile) : (s.modTile n f).ambient = s.ambient := rfl
@[simp] theorem State.modTile_recovery (n : Nat) (f : Tile → Tile) : (s.modTile n f).recovery = s.recovery := rfl
@[simp] theorem State.modTile_kernels (n : Nat) (f : Tile → Tile) : (s.modTile n f).kernels = s.kernels := rfl
@[simp] theorem State.modTile_ident (n : Nat) (f : Tile → Tile) : (s.modTile n f).ident = s.ident := rfl
@[simp] theorem State.modTile_inputs (n : Nat) (f : Tile → Tile) : (s.modTile n f).inputs = s.inputs := rfl
@[simp] theorem State.modTile_tick (n : Nat) (f : Tile → Tile) : (s.modTile n f).tick = s.tick := rfl
@[simp] theorem State.modTile_cur (n : Nat) (f : Tile → Tile) : (s.modTile n f).cur = s.cur := rfl

@[simp] theorem State.modFold_ctxs (n : Nat) (f : Fold → Fold) : (s.modFold n f).ctxs = s.ctxs := rfl
@[simp] theorem State.modFold_tiles (n : Nat) (f : Fold → Fold) : (s.modFold n f).tiles = s.tiles := rfl
@[simp] theorem State.modFold_folds (n : Nat) (f : Fold → Fold) : (s.modFold n f).folds = Tbl.upsert s.folds n Fold.blank f := rfl
@[simp] theorem State.modFold_rim (n : Nat) (f : Fold → Fold) : (s.modFold n f).rim = s.rim := rfl
@[simp] theorem State.modFold_keys (n : Nat) (f : Fold → Fold) : (s.modFold n f).keys = s.keys := rfl
@[simp] theorem State.modFold_s2gen (n : Nat) (f : Fold → Fold) : (s.modFold n f).s2gen = s.s2gen := rfl
@[simp] theorem State.modFold_regs (n : Nat) (f : Fold → Fold) : (s.modFold n f).regs = s.regs := rfl
@[simp] theorem State.modFold_crook (n : Nat) (f : Fold → Fold) : (s.modFold n f).crook = s.crook := rfl
@[simp] theorem State.modFold_croft (n : Nat) (f : Fold → Fold) : (s.modFold n f).croft = s.croft := rfl
@[simp] theorem State.modFold_fabric (n : Nat) (f : Fold → Fold) : (s.modFold n f).fabric = s.fabric := rfl
@[simp] theorem State.modFold_ambient (n : Nat) (f : Fold → Fold) : (s.modFold n f).ambient = s.ambient := rfl
@[simp] theorem State.modFold_recovery (n : Nat) (f : Fold → Fold) : (s.modFold n f).recovery = s.recovery := rfl
@[simp] theorem State.modFold_kernels (n : Nat) (f : Fold → Fold) : (s.modFold n f).kernels = s.kernels := rfl
@[simp] theorem State.modFold_ident (n : Nat) (f : Fold → Fold) : (s.modFold n f).ident = s.ident := rfl
@[simp] theorem State.modFold_inputs (n : Nat) (f : Fold → Fold) : (s.modFold n f).inputs = s.inputs := rfl
@[simp] theorem State.modFold_tick (n : Nat) (f : Fold → Fold) : (s.modFold n f).tick = s.tick := rfl
@[simp] theorem State.modFold_cur (n : Nat) (f : Fold → Fold) : (s.modFold n f).cur = s.cur := rfl

@[simp] theorem State.modFlock_tiles (c i : Nat) (f : Flock → Flock) : (s.modFlock c i f).tiles = s.tiles := rfl
@[simp] theorem State.modFlock_folds (c i : Nat) (f : Flock → Flock) : (s.modFlock c i f).folds = s.folds := rfl
@[simp] theorem State.modFlock_rim (c i : Nat) (f : Flock → Flock) : (s.modFlock c i f).rim = s.rim := rfl
@[simp] theorem State.modFlock_keys (c i : Nat) (f : Flock → Flock) : (s.modFlock c i f).keys = s.keys := rfl
@[simp] theorem State.modFlock_s2gen (c i : Nat) (f : Flock → Flock) : (s.modFlock c i f).s2gen = s.s2gen := rfl
@[simp] theorem State.modFlock_regs (c i : Nat) (f : Flock → Flock) : (s.modFlock c i f).regs = s.regs := rfl
@[simp] theorem State.modFlock_crook (c i : Nat) (f : Flock → Flock) : (s.modFlock c i f).crook = s.crook := rfl
@[simp] theorem State.modFlock_croft (c i : Nat) (f : Flock → Flock) : (s.modFlock c i f).croft = s.croft := rfl
@[simp] theorem State.modFlock_fabric (c i : Nat) (f : Flock → Flock) : (s.modFlock c i f).fabric = s.fabric := rfl
@[simp] theorem State.modFlock_ambient (c i : Nat) (f : Flock → Flock) : (s.modFlock c i f).ambient = s.ambient := rfl
@[simp] theorem State.modFlock_recovery (c i : Nat) (f : Flock → Flock) : (s.modFlock c i f).recovery = s.recovery := rfl
@[simp] theorem State.modFlock_kernels (c i : Nat) (f : Flock → Flock) : (s.modFlock c i f).kernels = s.kernels := rfl
@[simp] theorem State.modFlock_ident (c i : Nat) (f : Flock → Flock) : (s.modFlock c i f).ident = s.ident := rfl
@[simp] theorem State.modFlock_inputs (c i : Nat) (f : Flock → Flock) : (s.modFlock c i f).inputs = s.inputs := rfl
@[simp] theorem State.modFlock_tick (c i : Nat) (f : Flock → Flock) : (s.modFlock c i f).tick = s.tick := rfl
@[simp] theorem State.modFlock_cur (c i : Nat) (f : Flock → Flock) : (s.modFlock c i f).cur = s.cur := rfl

@[simp] theorem State.modRim_ctxs (f : Memory → Memory) : (s.modRim f).ctxs = s.ctxs := rfl
@[simp] theorem State.modRim_tiles (f : Memory → Memory) : (s.modRim f).tiles = s.tiles := rfl
@[simp] theorem State.modRim_folds (f : Memory → Memory) : (s.modRim f).folds = s.folds := rfl
@[simp] theorem State.modRim_rim (f : Memory → Memory) : (s.modRim f).rim = { s.rim with mem := f s.rim.mem } := rfl
@[simp] theorem State.modRim_keys (f : Memory → Memory) : (s.modRim f).keys = s.keys := rfl
@[simp] theorem State.modRim_s2gen (f : Memory → Memory) : (s.modRim f).s2gen = s.s2gen := rfl
@[simp] theorem State.modRim_regs (f : Memory → Memory) : (s.modRim f).regs = s.regs := rfl
@[simp] theorem State.modRim_crook (f : Memory → Memory) : (s.modRim f).crook = s.crook := rfl
@[simp] theorem State.modRim_croft (f : Memory → Memory) : (s.modRim f).croft = s.croft := rfl
@[simp] theorem State.modRim_fabric (f : Memory → Memory) : (s.modRim f).fabric = s.fabric := rfl
@[simp] theorem State.modRim_ambient (f : Memory → Memory) : (s.modRim f).ambient = s.ambient := rfl
@[simp] theorem State.modRim_recovery (f : Memory → Memory) : (s.modRim f).recovery = s.recovery := rfl
@[simp] theorem State.modRim_kernels (f : Memory → Memory) : (s.modRim f).kernels = s.kernels := rfl
@[simp] theorem State.modRim_ident (f : Memory → Memory) : (s.modRim f).ident = s.ident := rfl
@[simp] theorem State.modRim_inputs (f : Memory → Memory) : (s.modRim f).inputs = s.inputs := rfl
@[simp] theorem State.modRim_tick (f : Memory → Memory) : (s.modRim f).tick = s.tick := rfl
@[simp] theorem State.modRim_cur (f : Memory → Memory) : (s.modRim f).cur = s.cur := rfl

@[simp] theorem State.rimWriteBytes_ctxs (a : Nat) (bs : List Byte) : (s.rimWriteBytes a bs).ctxs = s.ctxs := rfl
@[simp] theorem State.rimWriteBytes_tiles (a : Nat) (bs : List Byte) : (s.rimWriteBytes a bs).tiles = s.tiles := rfl
@[simp] theorem State.rimWriteBytes_folds (a : Nat) (bs : List Byte) : (s.rimWriteBytes a bs).folds = s.folds := rfl
@[simp] theorem State.rimWriteBytes_keys (a : Nat) (bs : List Byte) : (s.rimWriteBytes a bs).keys = s.keys := rfl
@[simp] theorem State.rimWriteBytes_s2gen (a : Nat) (bs : List Byte) : (s.rimWriteBytes a bs).s2gen = s.s2gen := rfl
@[simp] theorem State.rimWriteBytes_regs (a : Nat) (bs : List Byte) : (s.rimWriteBytes a bs).regs = s.regs := rfl
@[simp] theorem State.rimWriteBytes_crook (a : Nat) (bs : List Byte) : (s.rimWriteBytes a bs).crook = s.crook := rfl
@[simp] theorem State.rimWriteBytes_croft (a : Nat) (bs : List Byte) : (s.rimWriteBytes a bs).croft = s.croft := rfl
@[simp] theorem State.rimWriteBytes_fabric (a : Nat) (bs : List Byte) : (s.rimWriteBytes a bs).fabric = s.fabric := rfl
@[simp] theorem State.rimWriteBytes_ambient (a : Nat) (bs : List Byte) : (s.rimWriteBytes a bs).ambient = s.ambient := rfl
@[simp] theorem State.rimWriteBytes_recovery (a : Nat) (bs : List Byte) : (s.rimWriteBytes a bs).recovery = s.recovery := rfl
@[simp] theorem State.rimWriteBytes_kernels (a : Nat) (bs : List Byte) : (s.rimWriteBytes a bs).kernels = s.kernels := rfl
@[simp] theorem State.rimWriteBytes_ident (a : Nat) (bs : List Byte) : (s.rimWriteBytes a bs).ident = s.ident := rfl
@[simp] theorem State.rimWriteBytes_inputs (a : Nat) (bs : List Byte) : (s.rimWriteBytes a bs).inputs = s.inputs := rfl
@[simp] theorem State.rimWriteBytes_tick (a : Nat) (bs : List Byte) : (s.rimWriteBytes a bs).tick = s.tick := rfl
@[simp] theorem State.rimWriteBytes_cur (a : Nat) (bs : List Byte) : (s.rimWriteBytes a bs).cur = s.cur := rfl

@[simp] theorem State.rimWrite_ctxs (a n x : Nat) : (s.rimWrite a n x).ctxs = s.ctxs := rfl
@[simp] theorem State.rimWrite_tiles (a n x : Nat) : (s.rimWrite a n x).tiles = s.tiles := rfl
@[simp] theorem State.rimWrite_folds (a n x : Nat) : (s.rimWrite a n x).folds = s.folds := rfl
@[simp] theorem State.rimWrite_keys (a n x : Nat) : (s.rimWrite a n x).keys = s.keys := rfl
@[simp] theorem State.rimWrite_s2gen (a n x : Nat) : (s.rimWrite a n x).s2gen = s.s2gen := rfl
@[simp] theorem State.rimWrite_regs (a n x : Nat) : (s.rimWrite a n x).regs = s.regs := rfl
@[simp] theorem State.rimWrite_crook (a n x : Nat) : (s.rimWrite a n x).crook = s.crook := rfl
@[simp] theorem State.rimWrite_croft (a n x : Nat) : (s.rimWrite a n x).croft = s.croft := rfl
@[simp] theorem State.rimWrite_fabric (a n x : Nat) : (s.rimWrite a n x).fabric = s.fabric := rfl
@[simp] theorem State.rimWrite_ambient (a n x : Nat) : (s.rimWrite a n x).ambient = s.ambient := rfl
@[simp] theorem State.rimWrite_recovery (a n x : Nat) : (s.rimWrite a n x).recovery = s.recovery := rfl
@[simp] theorem State.rimWrite_kernels (a n x : Nat) : (s.rimWrite a n x).kernels = s.kernels := rfl
@[simp] theorem State.rimWrite_ident (a n x : Nat) : (s.rimWrite a n x).ident = s.ident := rfl
@[simp] theorem State.rimWrite_inputs (a n x : Nat) : (s.rimWrite a n x).inputs = s.inputs := rfl
@[simp] theorem State.rimWrite_tick (a n x : Nat) : (s.rimWrite a n x).tick = s.tick := rfl
@[simp] theorem State.rimWrite_cur (a n x : Nat) : (s.rimWrite a n x).cur = s.cur := rfl

@[simp] theorem State.event_tiles (v : VRef) (e : Ev) : (s.event v e).tiles = s.tiles := rfl
@[simp] theorem State.event_folds (v : VRef) (e : Ev) : (s.event v e).folds = s.folds := rfl
@[simp] theorem State.event_rim (v : VRef) (e : Ev) : (s.event v e).rim = s.rim := rfl
@[simp] theorem State.event_keys (v : VRef) (e : Ev) : (s.event v e).keys = s.keys := rfl
@[simp] theorem State.event_s2gen (v : VRef) (e : Ev) : (s.event v e).s2gen = s.s2gen := rfl
@[simp] theorem State.event_regs (v : VRef) (e : Ev) : (s.event v e).regs = s.regs := rfl
@[simp] theorem State.event_crook (v : VRef) (e : Ev) : (s.event v e).crook = s.crook := rfl
@[simp] theorem State.event_croft (v : VRef) (e : Ev) : (s.event v e).croft = s.croft := rfl
@[simp] theorem State.event_fabric (v : VRef) (e : Ev) : (s.event v e).fabric = s.fabric := rfl
@[simp] theorem State.event_ambient (v : VRef) (e : Ev) : (s.event v e).ambient = s.ambient := rfl
@[simp] theorem State.event_recovery (v : VRef) (e : Ev) : (s.event v e).recovery = s.recovery := rfl
@[simp] theorem State.event_kernels (v : VRef) (e : Ev) : (s.event v e).kernels = s.kernels := rfl
@[simp] theorem State.event_ident (v : VRef) (e : Ev) : (s.event v e).ident = s.ident := rfl
@[simp] theorem State.event_inputs (v : VRef) (e : Ev) : (s.event v e).inputs = s.inputs := rfl
@[simp] theorem State.event_tick (v : VRef) (e : Ev) : (s.event v e).tick = s.tick := rfl
@[simp] theorem State.event_cur (v : VRef) (e : Ev) : (s.event v e).cur = s.cur := rfl

@[simp] theorem State.post_tiles (c : Nat) (m : Msg) : (s.post c m).tiles = s.tiles := rfl
@[simp] theorem State.post_folds (c : Nat) (m : Msg) : (s.post c m).folds = s.folds := rfl
@[simp] theorem State.post_rim (c : Nat) (m : Msg) : (s.post c m).rim = s.rim := rfl
@[simp] theorem State.post_keys (c : Nat) (m : Msg) : (s.post c m).keys = s.keys := rfl
@[simp] theorem State.post_s2gen (c : Nat) (m : Msg) : (s.post c m).s2gen = s.s2gen := rfl
@[simp] theorem State.post_regs (c : Nat) (m : Msg) : (s.post c m).regs = s.regs := rfl
@[simp] theorem State.post_crook (c : Nat) (m : Msg) : (s.post c m).crook = s.crook := rfl
@[simp] theorem State.post_croft (c : Nat) (m : Msg) : (s.post c m).croft = s.croft := rfl
@[simp] theorem State.post_fabric (c : Nat) (m : Msg) : (s.post c m).fabric = s.fabric := rfl
@[simp] theorem State.post_ambient (c : Nat) (m : Msg) : (s.post c m).ambient = s.ambient := rfl
@[simp] theorem State.post_recovery (c : Nat) (m : Msg) : (s.post c m).recovery = s.recovery := rfl
@[simp] theorem State.post_kernels (c : Nat) (m : Msg) : (s.post c m).kernels = s.kernels := rfl
@[simp] theorem State.post_ident (c : Nat) (m : Msg) : (s.post c m).ident = s.ident := rfl
@[simp] theorem State.post_inputs (c : Nat) (m : Msg) : (s.post c m).inputs = s.inputs := rfl
@[simp] theorem State.post_tick (c : Nat) (m : Msg) : (s.post c m).tick = s.tick := rfl
@[simp] theorem State.post_cur (c : Nat) (m : Msg) : (s.post c m).cur = s.cur := rfl

@[simp] theorem State.setResult_tiles (r : SRef) (id : Nat) (l : Landing) : (s.setResult r id l).tiles = s.tiles := rfl
@[simp] theorem State.setResult_folds (r : SRef) (id : Nat) (l : Landing) : (s.setResult r id l).folds = s.folds := rfl
@[simp] theorem State.setResult_rim (r : SRef) (id : Nat) (l : Landing) : (s.setResult r id l).rim = s.rim := rfl
@[simp] theorem State.setResult_keys (r : SRef) (id : Nat) (l : Landing) : (s.setResult r id l).keys = s.keys := rfl
@[simp] theorem State.setResult_s2gen (r : SRef) (id : Nat) (l : Landing) : (s.setResult r id l).s2gen = s.s2gen := rfl
@[simp] theorem State.setResult_regs (r : SRef) (id : Nat) (l : Landing) : (s.setResult r id l).regs = s.regs := rfl
@[simp] theorem State.setResult_crook (r : SRef) (id : Nat) (l : Landing) : (s.setResult r id l).crook = s.crook := rfl
@[simp] theorem State.setResult_croft (r : SRef) (id : Nat) (l : Landing) : (s.setResult r id l).croft = s.croft := rfl
@[simp] theorem State.setResult_fabric (r : SRef) (id : Nat) (l : Landing) : (s.setResult r id l).fabric = s.fabric := rfl
@[simp] theorem State.setResult_ambient (r : SRef) (id : Nat) (l : Landing) : (s.setResult r id l).ambient = s.ambient := rfl
@[simp] theorem State.setResult_recovery (r : SRef) (id : Nat) (l : Landing) : (s.setResult r id l).recovery = s.recovery := rfl
@[simp] theorem State.setResult_kernels (r : SRef) (id : Nat) (l : Landing) : (s.setResult r id l).kernels = s.kernels := rfl
@[simp] theorem State.setResult_ident (r : SRef) (id : Nat) (l : Landing) : (s.setResult r id l).ident = s.ident := rfl
@[simp] theorem State.setResult_inputs (r : SRef) (id : Nat) (l : Landing) : (s.setResult r id l).inputs = s.inputs := rfl
@[simp] theorem State.setResult_tick (r : SRef) (id : Nat) (l : Landing) : (s.setResult r id l).tick = s.tick := rfl
@[simp] theorem State.setResult_cur (r : SRef) (id : Nat) (l : Landing) : (s.setResult r id l).cur = s.cur := rfl

@[simp] theorem State.landFlight_tiles (r : SRef) (f : Flight) (l : Landing) : (s.landFlight r f l).tiles = s.tiles := rfl
@[simp] theorem State.landFlight_folds (r : SRef) (f : Flight) (l : Landing) : (s.landFlight r f l).folds = s.folds := rfl
@[simp] theorem State.landFlight_rim (r : SRef) (f : Flight) (l : Landing) : (s.landFlight r f l).rim = s.rim := rfl
@[simp] theorem State.landFlight_keys (r : SRef) (f : Flight) (l : Landing) : (s.landFlight r f l).keys = s.keys := rfl
@[simp] theorem State.landFlight_s2gen (r : SRef) (f : Flight) (l : Landing) : (s.landFlight r f l).s2gen = s.s2gen := rfl
@[simp] theorem State.landFlight_regs (r : SRef) (f : Flight) (l : Landing) : (s.landFlight r f l).regs = s.regs := rfl
@[simp] theorem State.landFlight_crook (r : SRef) (f : Flight) (l : Landing) : (s.landFlight r f l).crook = s.crook := rfl
@[simp] theorem State.landFlight_croft (r : SRef) (f : Flight) (l : Landing) : (s.landFlight r f l).croft = s.croft := rfl
@[simp] theorem State.landFlight_fabric (r : SRef) (f : Flight) (l : Landing) : (s.landFlight r f l).fabric = s.fabric := rfl
@[simp] theorem State.landFlight_ambient (r : SRef) (f : Flight) (l : Landing) : (s.landFlight r f l).ambient = s.ambient := rfl
@[simp] theorem State.landFlight_recovery (r : SRef) (f : Flight) (l : Landing) : (s.landFlight r f l).recovery = s.recovery := rfl
@[simp] theorem State.landFlight_kernels (r : SRef) (f : Flight) (l : Landing) : (s.landFlight r f l).kernels = s.kernels := rfl
@[simp] theorem State.landFlight_ident (r : SRef) (f : Flight) (l : Landing) : (s.landFlight r f l).ident = s.ident := rfl
@[simp] theorem State.landFlight_inputs (r : SRef) (f : Flight) (l : Landing) : (s.landFlight r f l).inputs = s.inputs := rfl
@[simp] theorem State.landFlight_tick (r : SRef) (f : Flight) (l : Landing) : (s.landFlight r f l).tick = s.tick := rfl
@[simp] theorem State.landFlight_cur (r : SRef) (f : Flight) (l : Landing) : (s.landFlight r f l).cur = s.cur := rfl

@[simp] theorem State.goOn_tiles (r : SRef) : (s.goOn r).tiles = s.tiles := rfl
@[simp] theorem State.goOn_folds (r : SRef) : (s.goOn r).folds = s.folds := rfl
@[simp] theorem State.goOn_rim (r : SRef) : (s.goOn r).rim = s.rim := rfl
@[simp] theorem State.goOn_keys (r : SRef) : (s.goOn r).keys = s.keys := rfl
@[simp] theorem State.goOn_s2gen (r : SRef) : (s.goOn r).s2gen = s.s2gen := rfl
@[simp] theorem State.goOn_regs (r : SRef) : (s.goOn r).regs = s.regs := rfl
@[simp] theorem State.goOn_crook (r : SRef) : (s.goOn r).crook = s.crook := rfl
@[simp] theorem State.goOn_croft (r : SRef) : (s.goOn r).croft = s.croft := rfl
@[simp] theorem State.goOn_fabric (r : SRef) : (s.goOn r).fabric = s.fabric := rfl
@[simp] theorem State.goOn_ambient (r : SRef) : (s.goOn r).ambient = s.ambient := rfl
@[simp] theorem State.goOn_recovery (r : SRef) : (s.goOn r).recovery = s.recovery := rfl
@[simp] theorem State.goOn_kernels (r : SRef) : (s.goOn r).kernels = s.kernels := rfl
@[simp] theorem State.goOn_ident (r : SRef) : (s.goOn r).ident = s.ident := rfl
@[simp] theorem State.goOn_inputs (r : SRef) : (s.goOn r).inputs = s.inputs := rfl
@[simp] theorem State.goOn_tick (r : SRef) : (s.goOn r).tick = s.tick := rfl
@[simp] theorem State.goOn_cur (r : SRef) : (s.goOn r).cur = s.cur := rfl

@[simp] theorem State.parkOn_tiles (r : SRef) (c : ParkCond) : (s.parkOn r c).tiles = s.tiles := rfl
@[simp] theorem State.parkOn_folds (r : SRef) (c : ParkCond) : (s.parkOn r c).folds = s.folds := rfl
@[simp] theorem State.parkOn_rim (r : SRef) (c : ParkCond) : (s.parkOn r c).rim = s.rim := rfl
@[simp] theorem State.parkOn_keys (r : SRef) (c : ParkCond) : (s.parkOn r c).keys = s.keys := rfl
@[simp] theorem State.parkOn_s2gen (r : SRef) (c : ParkCond) : (s.parkOn r c).s2gen = s.s2gen := rfl
@[simp] theorem State.parkOn_regs (r : SRef) (c : ParkCond) : (s.parkOn r c).regs = s.regs := rfl
@[simp] theorem State.parkOn_crook (r : SRef) (c : ParkCond) : (s.parkOn r c).crook = s.crook := rfl
@[simp] theorem State.parkOn_croft (r : SRef) (c : ParkCond) : (s.parkOn r c).croft = s.croft := rfl
@[simp] theorem State.parkOn_fabric (r : SRef) (c : ParkCond) : (s.parkOn r c).fabric = s.fabric := rfl
@[simp] theorem State.parkOn_ambient (r : SRef) (c : ParkCond) : (s.parkOn r c).ambient = s.ambient := rfl
@[simp] theorem State.parkOn_recovery (r : SRef) (c : ParkCond) : (s.parkOn r c).recovery = s.recovery := rfl
@[simp] theorem State.parkOn_kernels (r : SRef) (c : ParkCond) : (s.parkOn r c).kernels = s.kernels := rfl
@[simp] theorem State.parkOn_ident (r : SRef) (c : ParkCond) : (s.parkOn r c).ident = s.ident := rfl
@[simp] theorem State.parkOn_inputs (r : SRef) (c : ParkCond) : (s.parkOn r c).inputs = s.inputs := rfl
@[simp] theorem State.parkOn_tick (r : SRef) (c : ParkCond) : (s.parkOn r c).tick = s.tick := rfl
@[simp] theorem State.parkOn_cur (r : SRef) (c : ParkCond) : (s.parkOn r c).cur = s.cur := rfl

@[simp] theorem State.raiseIrq_ctxs (k : Nat) : (s.raiseIrq k).ctxs = s.ctxs := rfl
@[simp] theorem State.raiseIrq_tiles (k : Nat) : (s.raiseIrq k).tiles = s.tiles := rfl
@[simp] theorem State.raiseIrq_folds (k : Nat) : (s.raiseIrq k).folds = s.folds := rfl
@[simp] theorem State.raiseIrq_rim (k : Nat) : (s.raiseIrq k).rim = s.rim := rfl
@[simp] theorem State.raiseIrq_keys (k : Nat) : (s.raiseIrq k).keys = s.keys := rfl
@[simp] theorem State.raiseIrq_s2gen (k : Nat) : (s.raiseIrq k).s2gen = s.s2gen := rfl
@[simp] theorem State.raiseIrq_regs (k : Nat) : (s.raiseIrq k).regs = s.regs := rfl
@[simp] theorem State.raiseIrq_crook (k : Nat) : (s.raiseIrq k).crook = s.crook := rfl
@[simp] theorem State.raiseIrq_croft (k : Nat) : (s.raiseIrq k).croft = { s.croft with irqs := setIns s.croft.irqs k } := rfl
@[simp] theorem State.raiseIrq_fabric (k : Nat) : (s.raiseIrq k).fabric = s.fabric := rfl
@[simp] theorem State.raiseIrq_ambient (k : Nat) : (s.raiseIrq k).ambient = s.ambient := rfl
@[simp] theorem State.raiseIrq_recovery (k : Nat) : (s.raiseIrq k).recovery = s.recovery := rfl
@[simp] theorem State.raiseIrq_kernels (k : Nat) : (s.raiseIrq k).kernels = s.kernels := rfl
@[simp] theorem State.raiseIrq_ident (k : Nat) : (s.raiseIrq k).ident = s.ident := rfl
@[simp] theorem State.raiseIrq_inputs (k : Nat) : (s.raiseIrq k).inputs = s.inputs := rfl
@[simp] theorem State.raiseIrq_tick (k : Nat) : (s.raiseIrq k).tick = s.tick := rfl
@[simp] theorem State.raiseIrq_cur (k : Nat) : (s.raiseIrq k).cur = s.cur := rfl

@[simp] theorem State.stopGroups_ctxs (m : Word) : (s.stopGroups m).ctxs = s.ctxs := rfl
@[simp] theorem State.stopGroups_tiles (m : Word) : (s.stopGroups m).tiles = s.tiles := rfl
@[simp] theorem State.stopGroups_folds (m : Word) : (s.stopGroups m).folds = s.folds := rfl
@[simp] theorem State.stopGroups_rim (m : Word) : (s.stopGroups m).rim = s.rim := rfl
@[simp] theorem State.stopGroups_keys (m : Word) : (s.stopGroups m).keys = s.keys := rfl
@[simp] theorem State.stopGroups_s2gen (m : Word) : (s.stopGroups m).s2gen = s.s2gen := rfl
@[simp] theorem State.stopGroups_regs (m : Word) : (s.stopGroups m).regs = s.regs := rfl
@[simp] theorem State.stopGroups_crook (m : Word) : (s.stopGroups m).crook = { s.crook with stopped := s.crook.stopped ||| m } := rfl
@[simp] theorem State.stopGroups_croft (m : Word) : (s.stopGroups m).croft = s.croft := rfl
@[simp] theorem State.stopGroups_fabric (m : Word) : (s.stopGroups m).fabric = s.fabric := rfl
@[simp] theorem State.stopGroups_ambient (m : Word) : (s.stopGroups m).ambient = s.ambient := rfl
@[simp] theorem State.stopGroups_recovery (m : Word) : (s.stopGroups m).recovery = s.recovery := rfl
@[simp] theorem State.stopGroups_kernels (m : Word) : (s.stopGroups m).kernels = s.kernels := rfl
@[simp] theorem State.stopGroups_ident (m : Word) : (s.stopGroups m).ident = s.ident := rfl
@[simp] theorem State.stopGroups_inputs (m : Word) : (s.stopGroups m).inputs = s.inputs := rfl
@[simp] theorem State.stopGroups_tick (m : Word) : (s.stopGroups m).tick = s.tick := rfl
@[simp] theorem State.stopGroups_cur (m : Word) : (s.stopGroups m).cur = s.cur := rfl

@[simp] theorem State.popInput_ctxs : s.popInput.ctxs = s.ctxs := rfl
@[simp] theorem State.popInput_tiles : s.popInput.tiles = s.tiles := rfl
@[simp] theorem State.popInput_folds : s.popInput.folds = s.folds := rfl
@[simp] theorem State.popInput_rim : s.popInput.rim = s.rim := rfl
@[simp] theorem State.popInput_keys : s.popInput.keys = s.keys := rfl
@[simp] theorem State.popInput_s2gen : s.popInput.s2gen = s.s2gen := rfl
@[simp] theorem State.popInput_regs : s.popInput.regs = s.regs := rfl
@[simp] theorem State.popInput_crook : s.popInput.crook = s.crook := rfl
@[simp] theorem State.popInput_croft : s.popInput.croft = s.croft := rfl
@[simp] theorem State.popInput_fabric : s.popInput.fabric = s.fabric := rfl
@[simp] theorem State.popInput_ambient : s.popInput.ambient = s.ambient := rfl
@[simp] theorem State.popInput_recovery : s.popInput.recovery = s.recovery := rfl
@[simp] theorem State.popInput_kernels : s.popInput.kernels = s.kernels := rfl
@[simp] theorem State.popInput_ident : s.popInput.ident = s.ident := rfl
@[simp] theorem State.popInput_inputs : s.popInput.inputs = removeFirst s.inputOk s.inputs := rfl
@[simp] theorem State.popInput_tick : s.popInput.tick = s.tick := rfl
@[simp] theorem State.popInput_cur : s.popInput.cur = s.cur := rfl

@[simp] theorem State.advance_ctxs : s.advance.ctxs = s.ctxs := rfl
@[simp] theorem State.advance_folds : s.advance.folds = s.folds := rfl
@[simp] theorem State.advance_rim : s.advance.rim = s.rim := rfl
@[simp] theorem State.advance_keys : s.advance.keys = s.keys := rfl
@[simp] theorem State.advance_s2gen : s.advance.s2gen = s.s2gen := rfl
@[simp] theorem State.advance_regs : s.advance.regs = { s.regs with cycle := s.regs.cycle + Config.elapse s.tick } := rfl
@[simp] theorem State.advance_crook : s.advance.crook = s.crook := rfl
@[simp] theorem State.advance_croft : s.advance.croft = s.croft := rfl
@[simp] theorem State.advance_fabric : s.advance.fabric = s.fabric := rfl
@[simp] theorem State.advance_ambient : s.advance.ambient = { s.ambient with time := s.ambient.time + Config.elapse s.tick } := rfl
@[simp] theorem State.advance_recovery : s.advance.recovery = s.recovery := rfl
@[simp] theorem State.advance_kernels : s.advance.kernels = s.kernels := rfl
@[simp] theorem State.advance_ident : s.advance.ident = s.ident := rfl
@[simp] theorem State.advance_inputs : s.advance.inputs = s.inputs := rfl
@[simp] theorem State.advance_tick : s.advance.tick = s.tick + tickStride := rfl
@[simp] theorem State.advance_cur : s.advance.cur = s.cur := rfl

variable (sl : Slot)

@[simp] theorem Slot.launch_status (f : Flight) : (sl.launch f).status = sl.status := rfl
@[simp] theorem Slot.launch_sup (f : Flight) : (sl.launch f).sup = sl.sup := rfl
@[simp] theorem Slot.launch_ix (f : Flight) : (sl.launch f).ix = sl.ix := rfl
@[simp] theorem Slot.launch_entry (f : Flight) : (sl.launch f).entry = sl.entry := rfl
@[simp] theorem Slot.launch_pair2 (f : Flight) : (sl.launch f).pair2 = sl.pair2 := rfl
@[simp] theorem Slot.launch_alone (f : Flight) : (sl.launch f).alone = sl.alone := rfl
@[simp] theorem Slot.launch_park (f : Flight) : (sl.launch f).park = sl.park := rfl
@[simp] theorem Slot.launch_x (f : Flight) : (sl.launch f).x = sl.x := rfl
@[simp] theorem Slot.launch_v (f : Flight) : (sl.launch f).v = sl.v := rfl
@[simp] theorem Slot.launch_p (f : Flight) : (sl.launch f).p = sl.p := rfl
@[simp] theorem Slot.launch_h (f : Flight) : (sl.launch f).h = sl.h := rfl
@[simp] theorem Slot.launch_lat (f : Flight) : (sl.launch f).lat = sl.lat := rfl
@[simp] theorem Slot.launch_ops (f : Flight) : (sl.launch f).ops = sl.ops ++ [f] := rfl
@[simp] theorem Slot.launch_nextId (f : Flight) : (sl.launch f).nextId = sl.nextId + 1 := rfl
@[simp] theorem Slot.launch_fser (f : Flight) : (sl.launch f).fser = sl.fser := rfl
@[simp] theorem Slot.launch_tseq (f : Flight) : (sl.launch f).tseq = vmod sl.tseq (unitNum f.unit) (· + 1) := rfl
@[simp] theorem Slot.launch_sb (f : Flight) : (sl.launch f).sb = sl.sb := rfl
@[simp] theorem Slot.launch_rep (f : Flight) : (sl.launch f).rep = sl.rep := rfl
@[simp] theorem Slot.launch_firing (f : Flight) : (sl.launch f).firing = sl.firing := rfl
@[simp] theorem Slot.launch_tcause (f : Flight) : (sl.launch f).tcause = sl.tcause := rfl
@[simp] theorem Slot.launch_tval (f : Flight) : (sl.launch f).tval = sl.tval := rfl
@[simp] theorem Slot.launch_tinst (f : Flight) : (sl.launch f).tinst = sl.tinst := rfl
@[simp] theorem Slot.launch_tframe (f : Flight) : (sl.launch f).tframe = sl.tframe := rfl
@[simp] theorem Slot.launch_csel (f : Flight) : (sl.launch f).csel = sl.csel := rfl
@[simp] theorem Slot.launch_pendTrap (f : Flight) : (sl.launch f).pendTrap = sl.pendTrap := rfl
@[simp] theorem Slot.launch_saved (f : Flight) : (sl.launch f).saved = sl.saved := rfl
@[simp] theorem Slot.launch_supBefore (f : Flight) : (sl.launch f).supBefore = sl.supBefore := rfl
@[simp] theorem Slot.launch_landedQ (f : Flight) : (sl.launch f).landedQ = sl.landedQ := rfl
@[simp] theorem Slot.launch_landedQ2 (f : Flight) : (sl.launch f).landedQ2 = sl.landedQ2 := rfl
@[simp] theorem Slot.launch_savedSeq (f : Flight) : (sl.launch f).savedSeq = sl.savedSeq := rfl
@[simp] theorem Slot.launch_relTag (f : Flight) : (sl.launch f).relTag = sl.relTag := rfl
@[simp] theorem Slot.launch_barFence (f : Flight) : (sl.launch f).barFence = sl.barFence := rfl
@[simp] theorem Slot.launch_barRel (f : Flight) : (sl.launch f).barRel = sl.barRel := rfl
@[simp] theorem Slot.launch_barAcq (f : Flight) : (sl.launch f).barAcq = sl.barAcq := rfl
@[simp] theorem Slot.launch_barFenceDo (f : Flight) : (sl.launch f).barFenceDo = sl.barFenceDo := rfl
@[simp] theorem Slot.launch_barRelDo (f : Flight) : (sl.launch f).barRelDo = sl.barRelDo := rfl
@[simp] theorem Slot.launch_stopId (f : Flight) : (sl.launch f).stopId = sl.stopId := rfl

@[simp] theorem Slot.fire_status (t : Trig) (m : BitVec 3) (l : Landing) : (sl.fire t m l).status = sl.status := rfl
@[simp] theorem Slot.fire_sup (t : Trig) (m : BitVec 3) (l : Landing) : (sl.fire t m l).sup = sl.sup := rfl
@[simp] theorem Slot.fire_ix (t : Trig) (m : BitVec 3) (l : Landing) : (sl.fire t m l).ix = sl.ix := rfl
@[simp] theorem Slot.fire_entry (t : Trig) (m : BitVec 3) (l : Landing) : (sl.fire t m l).entry = sl.entry := rfl
@[simp] theorem Slot.fire_pair2 (t : Trig) (m : BitVec 3) (l : Landing) : (sl.fire t m l).pair2 = sl.pair2 := rfl
@[simp] theorem Slot.fire_alone (t : Trig) (m : BitVec 3) (l : Landing) : (sl.fire t m l).alone = sl.alone := rfl
@[simp] theorem Slot.fire_park (t : Trig) (m : BitVec 3) (l : Landing) : (sl.fire t m l).park = sl.park := rfl
@[simp] theorem Slot.fire_x (t : Trig) (m : BitVec 3) (l : Landing) : (sl.fire t m l).x = sl.x := rfl
@[simp] theorem Slot.fire_v (t : Trig) (m : BitVec 3) (l : Landing) : (sl.fire t m l).v = sl.v := rfl
@[simp] theorem Slot.fire_p (t : Trig) (m : BitVec 3) (l : Landing) : (sl.fire t m l).p = sl.p := rfl
@[simp] theorem Slot.fire_h (t : Trig) (m : BitVec 3) (l : Landing) : (sl.fire t m l).h = sl.h := rfl
@[simp] theorem Slot.fire_lat (t : Trig) (m : BitVec 3) (l : Landing) : (sl.fire t m l).lat = sl.lat := rfl
@[simp] theorem Slot.fire_ops (t : Trig) (m : BitVec 3) (l : Landing) : (sl.fire t m l).ops = sl.ops ++ [sl.newFlight t m true (some l)] := rfl
@[simp] theorem Slot.fire_nextId (t : Trig) (m : BitVec 3) (l : Landing) : (sl.fire t m l).nextId = sl.nextId + 1 := rfl
@[simp] theorem Slot.fire_fser (t : Trig) (m : BitVec 3) (l : Landing) : (sl.fire t m l).fser = sl.fser := rfl
@[simp] theorem Slot.fire_sb (t : Trig) (m : BitVec 3) (l : Landing) : (sl.fire t m l).sb = sl.sb := rfl
@[simp] theorem Slot.fire_rep (t : Trig) (m : BitVec 3) (l : Landing) : (sl.fire t m l).rep = sl.rep := rfl
@[simp] theorem Slot.fire_firing (t : Trig) (m : BitVec 3) (l : Landing) : (sl.fire t m l).firing = sl.firing := rfl
@[simp] theorem Slot.fire_tcause (t : Trig) (m : BitVec 3) (l : Landing) : (sl.fire t m l).tcause = sl.tcause := rfl
@[simp] theorem Slot.fire_tval (t : Trig) (m : BitVec 3) (l : Landing) : (sl.fire t m l).tval = sl.tval := rfl
@[simp] theorem Slot.fire_tinst (t : Trig) (m : BitVec 3) (l : Landing) : (sl.fire t m l).tinst = sl.tinst := rfl
@[simp] theorem Slot.fire_tframe (t : Trig) (m : BitVec 3) (l : Landing) : (sl.fire t m l).tframe = sl.tframe := rfl
@[simp] theorem Slot.fire_csel (t : Trig) (m : BitVec 3) (l : Landing) : (sl.fire t m l).csel = sl.csel := rfl
@[simp] theorem Slot.fire_pendTrap (t : Trig) (m : BitVec 3) (l : Landing) : (sl.fire t m l).pendTrap = sl.pendTrap := rfl
@[simp] theorem Slot.fire_saved (t : Trig) (m : BitVec 3) (l : Landing) : (sl.fire t m l).saved = sl.saved := rfl
@[simp] theorem Slot.fire_supBefore (t : Trig) (m : BitVec 3) (l : Landing) : (sl.fire t m l).supBefore = sl.supBefore := rfl
@[simp] theorem Slot.fire_landedQ (t : Trig) (m : BitVec 3) (l : Landing) : (sl.fire t m l).landedQ = sl.landedQ := rfl
@[simp] theorem Slot.fire_landedQ2 (t : Trig) (m : BitVec 3) (l : Landing) : (sl.fire t m l).landedQ2 = sl.landedQ2 := rfl
@[simp] theorem Slot.fire_savedSeq (t : Trig) (m : BitVec 3) (l : Landing) : (sl.fire t m l).savedSeq = sl.savedSeq := rfl
@[simp] theorem Slot.fire_relTag (t : Trig) (m : BitVec 3) (l : Landing) : (sl.fire t m l).relTag = sl.relTag := rfl
@[simp] theorem Slot.fire_barFence (t : Trig) (m : BitVec 3) (l : Landing) : (sl.fire t m l).barFence = sl.barFence := rfl
@[simp] theorem Slot.fire_barRel (t : Trig) (m : BitVec 3) (l : Landing) : (sl.fire t m l).barRel = sl.barRel := rfl
@[simp] theorem Slot.fire_barAcq (t : Trig) (m : BitVec 3) (l : Landing) : (sl.fire t m l).barAcq = sl.barAcq := rfl
@[simp] theorem Slot.fire_barFenceDo (t : Trig) (m : BitVec 3) (l : Landing) : (sl.fire t m l).barFenceDo = sl.barFenceDo := rfl
@[simp] theorem Slot.fire_barRelDo (t : Trig) (m : BitVec 3) (l : Landing) : (sl.fire t m l).barRelDo = sl.barRelDo := rfl
@[simp] theorem Slot.fire_stopId (t : Trig) (m : BitVec 3) (l : Landing) : (sl.fire t m l).stopId = sl.stopId := rfl

@[simp] theorem Slot.dropFlight_status (id : Nat) : (sl.dropFlight id).status = sl.status := rfl
@[simp] theorem Slot.dropFlight_sup (id : Nat) : (sl.dropFlight id).sup = sl.sup := rfl
@[simp] theorem Slot.dropFlight_ix (id : Nat) : (sl.dropFlight id).ix = sl.ix := rfl
@[simp] theorem Slot.dropFlight_entry (id : Nat) : (sl.dropFlight id).entry = sl.entry := rfl
@[simp] theorem Slot.dropFlight_pair2 (id : Nat) : (sl.dropFlight id).pair2 = sl.pair2 := rfl
@[simp] theorem Slot.dropFlight_alone (id : Nat) : (sl.dropFlight id).alone = sl.alone := rfl
@[simp] theorem Slot.dropFlight_park (id : Nat) : (sl.dropFlight id).park = sl.park := rfl
@[simp] theorem Slot.dropFlight_x (id : Nat) : (sl.dropFlight id).x = sl.x := rfl
@[simp] theorem Slot.dropFlight_v (id : Nat) : (sl.dropFlight id).v = sl.v := rfl
@[simp] theorem Slot.dropFlight_p (id : Nat) : (sl.dropFlight id).p = sl.p := rfl
@[simp] theorem Slot.dropFlight_h (id : Nat) : (sl.dropFlight id).h = sl.h := rfl
@[simp] theorem Slot.dropFlight_lat (id : Nat) : (sl.dropFlight id).lat = sl.lat := rfl
@[simp] theorem Slot.dropFlight_ops (id : Nat) : (sl.dropFlight id).ops = removeFirst (fun f => f.id == id) sl.ops := rfl
@[simp] theorem Slot.dropFlight_nextId (id : Nat) : (sl.dropFlight id).nextId = sl.nextId := rfl
@[simp] theorem Slot.dropFlight_fser (id : Nat) : (sl.dropFlight id).fser = sl.fser := rfl
@[simp] theorem Slot.dropFlight_tseq (id : Nat) : (sl.dropFlight id).tseq = sl.tseq := rfl
@[simp] theorem Slot.dropFlight_sb (id : Nat) : (sl.dropFlight id).sb = sl.sb := rfl
@[simp] theorem Slot.dropFlight_rep (id : Nat) : (sl.dropFlight id).rep = sl.rep := rfl
@[simp] theorem Slot.dropFlight_firing (id : Nat) : (sl.dropFlight id).firing = sl.firing := rfl
@[simp] theorem Slot.dropFlight_tcause (id : Nat) : (sl.dropFlight id).tcause = sl.tcause := rfl
@[simp] theorem Slot.dropFlight_tval (id : Nat) : (sl.dropFlight id).tval = sl.tval := rfl
@[simp] theorem Slot.dropFlight_tinst (id : Nat) : (sl.dropFlight id).tinst = sl.tinst := rfl
@[simp] theorem Slot.dropFlight_tframe (id : Nat) : (sl.dropFlight id).tframe = sl.tframe := rfl
@[simp] theorem Slot.dropFlight_csel (id : Nat) : (sl.dropFlight id).csel = sl.csel := rfl
@[simp] theorem Slot.dropFlight_pendTrap (id : Nat) : (sl.dropFlight id).pendTrap = sl.pendTrap := rfl
@[simp] theorem Slot.dropFlight_saved (id : Nat) : (sl.dropFlight id).saved = sl.saved := rfl
@[simp] theorem Slot.dropFlight_supBefore (id : Nat) : (sl.dropFlight id).supBefore = sl.supBefore := rfl
@[simp] theorem Slot.dropFlight_landedQ (id : Nat) : (sl.dropFlight id).landedQ = sl.landedQ := rfl
@[simp] theorem Slot.dropFlight_landedQ2 (id : Nat) : (sl.dropFlight id).landedQ2 = sl.landedQ2 := rfl
@[simp] theorem Slot.dropFlight_savedSeq (id : Nat) : (sl.dropFlight id).savedSeq = sl.savedSeq := rfl
@[simp] theorem Slot.dropFlight_relTag (id : Nat) : (sl.dropFlight id).relTag = sl.relTag := rfl
@[simp] theorem Slot.dropFlight_barFence (id : Nat) : (sl.dropFlight id).barFence = sl.barFence := rfl
@[simp] theorem Slot.dropFlight_barRel (id : Nat) : (sl.dropFlight id).barRel = sl.barRel := rfl
@[simp] theorem Slot.dropFlight_barAcq (id : Nat) : (sl.dropFlight id).barAcq = sl.barAcq := rfl
@[simp] theorem Slot.dropFlight_barFenceDo (id : Nat) : (sl.dropFlight id).barFenceDo = sl.barFenceDo := rfl
@[simp] theorem Slot.dropFlight_barRelDo (id : Nat) : (sl.dropFlight id).barRelDo = sl.barRelDo := rfl
@[simp] theorem Slot.dropFlight_stopId (id : Nat) : (sl.dropFlight id).stopId = sl.stopId := rfl

@[simp] theorem Slot.writeLanding_status (f : Flight) (l : Landing) : (sl.writeLanding f l).status = sl.status := rfl
@[simp] theorem Slot.writeLanding_sup (f : Flight) (l : Landing) : (sl.writeLanding f l).sup = sl.sup := rfl
@[simp] theorem Slot.writeLanding_ix (f : Flight) (l : Landing) : (sl.writeLanding f l).ix = sl.ix := rfl
@[simp] theorem Slot.writeLanding_entry (f : Flight) (l : Landing) : (sl.writeLanding f l).entry = sl.entry := rfl
@[simp] theorem Slot.writeLanding_pair2 (f : Flight) (l : Landing) : (sl.writeLanding f l).pair2 = sl.pair2 := rfl
@[simp] theorem Slot.writeLanding_alone (f : Flight) (l : Landing) : (sl.writeLanding f l).alone = sl.alone := rfl
@[simp] theorem Slot.writeLanding_park (f : Flight) (l : Landing) : (sl.writeLanding f l).park = sl.park := rfl
@[simp] theorem Slot.writeLanding_x (f : Flight) (l : Landing) : (sl.writeLanding f l).x = sl.x := rfl
@[simp] theorem Slot.writeLanding_v (f : Flight) (l : Landing) : (sl.writeLanding f l).v = sl.v := rfl
@[simp] theorem Slot.writeLanding_p (f : Flight) (l : Landing) : (sl.writeLanding f l).p = sl.p := rfl
@[simp] theorem Slot.writeLanding_h (f : Flight) (l : Landing) : (sl.writeLanding f l).h = sl.h := rfl
@[simp] theorem Slot.writeLanding_ops (f : Flight) (l : Landing) : (sl.writeLanding f l).ops = sl.ops := rfl
@[simp] theorem Slot.writeLanding_nextId (f : Flight) (l : Landing) : (sl.writeLanding f l).nextId = sl.nextId := rfl
@[simp] theorem Slot.writeLanding_fser (f : Flight) (l : Landing) : (sl.writeLanding f l).fser = sl.fser := rfl
@[simp] theorem Slot.writeLanding_tseq (f : Flight) (l : Landing) : (sl.writeLanding f l).tseq = sl.tseq := rfl
@[simp] theorem Slot.writeLanding_sb (f : Flight) (l : Landing) : (sl.writeLanding f l).sb = sl.sb := rfl
@[simp] theorem Slot.writeLanding_rep (f : Flight) (l : Landing) : (sl.writeLanding f l).rep = sl.rep := rfl
@[simp] theorem Slot.writeLanding_firing (f : Flight) (l : Landing) : (sl.writeLanding f l).firing = sl.firing := rfl
@[simp] theorem Slot.writeLanding_tcause (f : Flight) (l : Landing) : (sl.writeLanding f l).tcause = sl.tcause := rfl
@[simp] theorem Slot.writeLanding_tval (f : Flight) (l : Landing) : (sl.writeLanding f l).tval = sl.tval := rfl
@[simp] theorem Slot.writeLanding_tinst (f : Flight) (l : Landing) : (sl.writeLanding f l).tinst = sl.tinst := rfl
@[simp] theorem Slot.writeLanding_tframe (f : Flight) (l : Landing) : (sl.writeLanding f l).tframe = sl.tframe := rfl
@[simp] theorem Slot.writeLanding_csel (f : Flight) (l : Landing) : (sl.writeLanding f l).csel = sl.csel := rfl
@[simp] theorem Slot.writeLanding_pendTrap (f : Flight) (l : Landing) : (sl.writeLanding f l).pendTrap = sl.pendTrap := rfl
@[simp] theorem Slot.writeLanding_saved (f : Flight) (l : Landing) : (sl.writeLanding f l).saved = sl.saved := rfl
@[simp] theorem Slot.writeLanding_supBefore (f : Flight) (l : Landing) : (sl.writeLanding f l).supBefore = sl.supBefore := rfl
@[simp] theorem Slot.writeLanding_savedSeq (f : Flight) (l : Landing) : (sl.writeLanding f l).savedSeq = sl.savedSeq := rfl
@[simp] theorem Slot.writeLanding_relTag (f : Flight) (l : Landing) : (sl.writeLanding f l).relTag = sl.relTag := rfl
@[simp] theorem Slot.writeLanding_barFence (f : Flight) (l : Landing) : (sl.writeLanding f l).barFence = sl.barFence := rfl
@[simp] theorem Slot.writeLanding_barRel (f : Flight) (l : Landing) : (sl.writeLanding f l).barRel = sl.barRel := rfl
@[simp] theorem Slot.writeLanding_barAcq (f : Flight) (l : Landing) : (sl.writeLanding f l).barAcq = sl.barAcq := rfl
@[simp] theorem Slot.writeLanding_barFenceDo (f : Flight) (l : Landing) : (sl.writeLanding f l).barFenceDo = sl.barFenceDo := rfl
@[simp] theorem Slot.writeLanding_barRelDo (f : Flight) (l : Landing) : (sl.writeLanding f l).barRelDo = sl.barRelDo := rfl
@[simp] theorem Slot.writeLanding_stopId (f : Flight) (l : Landing) : (sl.writeLanding f l).stopId = sl.stopId := rfl

@[simp] theorem Slot.buffer_status (k : SbKind) (a n : Nat) (d : VWord) : (sl.buffer k a n d).status = sl.status := rfl
@[simp] theorem Slot.buffer_sup (k : SbKind) (a n : Nat) (d : VWord) : (sl.buffer k a n d).sup = sl.sup := rfl
@[simp] theorem Slot.buffer_ix (k : SbKind) (a n : Nat) (d : VWord) : (sl.buffer k a n d).ix = sl.ix := rfl
@[simp] theorem Slot.buffer_entry (k : SbKind) (a n : Nat) (d : VWord) : (sl.buffer k a n d).entry = sl.entry := rfl
@[simp] theorem Slot.buffer_pair2 (k : SbKind) (a n : Nat) (d : VWord) : (sl.buffer k a n d).pair2 = sl.pair2 := rfl
@[simp] theorem Slot.buffer_alone (k : SbKind) (a n : Nat) (d : VWord) : (sl.buffer k a n d).alone = sl.alone := rfl
@[simp] theorem Slot.buffer_park (k : SbKind) (a n : Nat) (d : VWord) : (sl.buffer k a n d).park = sl.park := rfl
@[simp] theorem Slot.buffer_x (k : SbKind) (a n : Nat) (d : VWord) : (sl.buffer k a n d).x = sl.x := rfl
@[simp] theorem Slot.buffer_v (k : SbKind) (a n : Nat) (d : VWord) : (sl.buffer k a n d).v = sl.v := rfl
@[simp] theorem Slot.buffer_p (k : SbKind) (a n : Nat) (d : VWord) : (sl.buffer k a n d).p = sl.p := rfl
@[simp] theorem Slot.buffer_h (k : SbKind) (a n : Nat) (d : VWord) : (sl.buffer k a n d).h = sl.h := rfl
@[simp] theorem Slot.buffer_lat (k : SbKind) (a n : Nat) (d : VWord) : (sl.buffer k a n d).lat = sl.lat := rfl
@[simp] theorem Slot.buffer_ops (k : SbKind) (a n : Nat) (d : VWord) : (sl.buffer k a n d).ops = sl.ops := rfl
@[simp] theorem Slot.buffer_nextId (k : SbKind) (a n : Nat) (d : VWord) : (sl.buffer k a n d).nextId = sl.nextId + 1 := rfl
@[simp] theorem Slot.buffer_fser (k : SbKind) (a n : Nat) (d : VWord) : (sl.buffer k a n d).fser = sl.fser := rfl
@[simp] theorem Slot.buffer_tseq (k : SbKind) (a n : Nat) (d : VWord) : (sl.buffer k a n d).tseq = sl.tseq := rfl
@[simp] theorem Slot.buffer_rep (k : SbKind) (a n : Nat) (d : VWord) : (sl.buffer k a n d).rep = sl.rep := rfl
@[simp] theorem Slot.buffer_firing (k : SbKind) (a n : Nat) (d : VWord) : (sl.buffer k a n d).firing = sl.firing := rfl
@[simp] theorem Slot.buffer_tcause (k : SbKind) (a n : Nat) (d : VWord) : (sl.buffer k a n d).tcause = sl.tcause := rfl
@[simp] theorem Slot.buffer_tval (k : SbKind) (a n : Nat) (d : VWord) : (sl.buffer k a n d).tval = sl.tval := rfl
@[simp] theorem Slot.buffer_tinst (k : SbKind) (a n : Nat) (d : VWord) : (sl.buffer k a n d).tinst = sl.tinst := rfl
@[simp] theorem Slot.buffer_tframe (k : SbKind) (a n : Nat) (d : VWord) : (sl.buffer k a n d).tframe = sl.tframe := rfl
@[simp] theorem Slot.buffer_csel (k : SbKind) (a n : Nat) (d : VWord) : (sl.buffer k a n d).csel = sl.csel := rfl
@[simp] theorem Slot.buffer_pendTrap (k : SbKind) (a n : Nat) (d : VWord) : (sl.buffer k a n d).pendTrap = sl.pendTrap := rfl
@[simp] theorem Slot.buffer_saved (k : SbKind) (a n : Nat) (d : VWord) : (sl.buffer k a n d).saved = sl.saved := rfl
@[simp] theorem Slot.buffer_supBefore (k : SbKind) (a n : Nat) (d : VWord) : (sl.buffer k a n d).supBefore = sl.supBefore := rfl
@[simp] theorem Slot.buffer_landedQ (k : SbKind) (a n : Nat) (d : VWord) : (sl.buffer k a n d).landedQ = sl.landedQ := rfl
@[simp] theorem Slot.buffer_landedQ2 (k : SbKind) (a n : Nat) (d : VWord) : (sl.buffer k a n d).landedQ2 = sl.landedQ2 := rfl
@[simp] theorem Slot.buffer_savedSeq (k : SbKind) (a n : Nat) (d : VWord) : (sl.buffer k a n d).savedSeq = sl.savedSeq := rfl
@[simp] theorem Slot.buffer_relTag (k : SbKind) (a n : Nat) (d : VWord) : (sl.buffer k a n d).relTag = sl.relTag := rfl
@[simp] theorem Slot.buffer_barFence (k : SbKind) (a n : Nat) (d : VWord) : (sl.buffer k a n d).barFence = sl.barFence := rfl
@[simp] theorem Slot.buffer_barRel (k : SbKind) (a n : Nat) (d : VWord) : (sl.buffer k a n d).barRel = sl.barRel := rfl
@[simp] theorem Slot.buffer_barAcq (k : SbKind) (a n : Nat) (d : VWord) : (sl.buffer k a n d).barAcq = sl.barAcq := rfl
@[simp] theorem Slot.buffer_barFenceDo (k : SbKind) (a n : Nat) (d : VWord) : (sl.buffer k a n d).barFenceDo = sl.barFenceDo := rfl
@[simp] theorem Slot.buffer_barRelDo (k : SbKind) (a n : Nat) (d : VWord) : (sl.buffer k a n d).barRelDo = sl.barRelDo := rfl
@[simp] theorem Slot.buffer_stopId (k : SbKind) (a n : Nat) (d : VWord) : (sl.buffer k a n d).stopId = sl.stopId := rfl

@[simp] theorem Slot.transfer_status (i : Nat) : (sl.transfer i).status = sl.status := rfl
@[simp] theorem Slot.transfer_sup (i : Nat) : (sl.transfer i).sup = sl.sup := rfl
@[simp] theorem Slot.transfer_ix (i : Nat) : (sl.transfer i).ix = i := rfl
@[simp] theorem Slot.transfer_entry (i : Nat) : (sl.transfer i).entry = .transfer sl.ix := rfl
@[simp] theorem Slot.transfer_pair2 (i : Nat) : (sl.transfer i).pair2 = false := rfl
@[simp] theorem Slot.transfer_alone (i : Nat) : (sl.transfer i).alone = true := rfl
@[simp] theorem Slot.transfer_park (i : Nat) : (sl.transfer i).park = sl.park := rfl
@[simp] theorem Slot.transfer_x (i : Nat) : (sl.transfer i).x = sl.x := rfl
@[simp] theorem Slot.transfer_v (i : Nat) : (sl.transfer i).v = sl.v := rfl
@[simp] theorem Slot.transfer_p (i : Nat) : (sl.transfer i).p = sl.p := rfl
@[simp] theorem Slot.transfer_h (i : Nat) : (sl.transfer i).h = sl.h := rfl
@[simp] theorem Slot.transfer_lat (i : Nat) : (sl.transfer i).lat = sl.lat := rfl
@[simp] theorem Slot.transfer_ops (i : Nat) : (sl.transfer i).ops = sl.ops := rfl
@[simp] theorem Slot.transfer_nextId (i : Nat) : (sl.transfer i).nextId = sl.nextId := rfl
@[simp] theorem Slot.transfer_fser (i : Nat) : (sl.transfer i).fser = sl.fser := rfl
@[simp] theorem Slot.transfer_tseq (i : Nat) : (sl.transfer i).tseq = sl.tseq := rfl
@[simp] theorem Slot.transfer_sb (i : Nat) : (sl.transfer i).sb = sl.sb := rfl
@[simp] theorem Slot.transfer_rep (i : Nat) : (sl.transfer i).rep = sl.rep := rfl
@[simp] theorem Slot.transfer_firing (i : Nat) : (sl.transfer i).firing = sl.firing := rfl
@[simp] theorem Slot.transfer_tcause (i : Nat) : (sl.transfer i).tcause = sl.tcause := rfl
@[simp] theorem Slot.transfer_tval (i : Nat) : (sl.transfer i).tval = sl.tval := rfl
@[simp] theorem Slot.transfer_tinst (i : Nat) : (sl.transfer i).tinst = sl.tinst := rfl
@[simp] theorem Slot.transfer_tframe (i : Nat) : (sl.transfer i).tframe = sl.tframe := rfl
@[simp] theorem Slot.transfer_csel (i : Nat) : (sl.transfer i).csel = sl.csel := rfl
@[simp] theorem Slot.transfer_pendTrap (i : Nat) : (sl.transfer i).pendTrap = sl.pendTrap := rfl
@[simp] theorem Slot.transfer_saved (i : Nat) : (sl.transfer i).saved = sl.saved := rfl
@[simp] theorem Slot.transfer_supBefore (i : Nat) : (sl.transfer i).supBefore = sl.supBefore := rfl
@[simp] theorem Slot.transfer_landedQ (i : Nat) : (sl.transfer i).landedQ = sl.landedQ := rfl
@[simp] theorem Slot.transfer_landedQ2 (i : Nat) : (sl.transfer i).landedQ2 = sl.landedQ2 := rfl
@[simp] theorem Slot.transfer_savedSeq (i : Nat) : (sl.transfer i).savedSeq = sl.savedSeq := rfl
@[simp] theorem Slot.transfer_relTag (i : Nat) : (sl.transfer i).relTag = sl.relTag := rfl
@[simp] theorem Slot.transfer_barFence (i : Nat) : (sl.transfer i).barFence = sl.barFence := rfl
@[simp] theorem Slot.transfer_barRel (i : Nat) : (sl.transfer i).barRel = sl.barRel := rfl
@[simp] theorem Slot.transfer_barAcq (i : Nat) : (sl.transfer i).barAcq = sl.barAcq := rfl
@[simp] theorem Slot.transfer_barFenceDo (i : Nat) : (sl.transfer i).barFenceDo = sl.barFenceDo := rfl
@[simp] theorem Slot.transfer_barRelDo (i : Nat) : (sl.transfer i).barRelDo = sl.barRelDo := rfl
@[simp] theorem Slot.transfer_stopId (i : Nat) : (sl.transfer i).stopId = sl.stopId := rfl

end Sys2Proof.Machine
end

