-- ==== Sys2Proof/Laws/Access.lean ====
section
/-!
SUPPORT. Reading back what was written: tables, contexts, vtiles and slots.
-/
namespace Sys2Proof.Machine

/-! ## Tables -/

theorem Tbl.find?_modify_self {α : Type} (t : Tbl α) (k : Nat) (f : α → α) :
    Tbl.find? (Tbl.modify t k f) k = (Tbl.find? t k).map f := by
  induction t with
  | nil => rfl
  | cons p t ih =>
    obtain ⟨j, a⟩ := p
    by_cases h : j = k
    · simp [Tbl.modify, Tbl.find?, h]
    · by_cases h2 : k < j <;> simp [Tbl.modify, Tbl.find?, h, h2, ih]

theorem Tbl.find?_modify_ne {α : Type} (t : Tbl α) {k k' : Nat} (h : k' ≠ k) (f : α → α) :
    Tbl.find? (Tbl.modify t k f) k' = Tbl.find? t k' := by
  induction t with
  | nil => rfl
  | cons p t ih =>
    obtain ⟨j, a⟩ := p
    by_cases hj : j = k
    · have : k ≠ k' := by omega
      simp [Tbl.modify, Tbl.find?, hj, this]
    · by_cases h2 : k < j
      · simp [Tbl.modify, hj, h2]
      · simp [Tbl.modify, Tbl.find?, hj, h2, ih]

theorem Tbl.find?_none_above {α : Type} (t : Tbl α) {lo k : Nat} (h : Tbl.sortedAbove lo t = true) (hk : k < lo) :
    Tbl.find? t k = none := by
  cases t with
  | nil => rfl
  | cons p t =>
    obtain ⟨j, a⟩ := p
    simp [Tbl.sortedAbove] at h
    have h1 : j ≠ k := by omega
    have h2 : k < j := by omega
    simp [Tbl.find?, h1, h2]

theorem Tbl.find?_put_self {α : Type} (t : Tbl α) (k : Nat) (a : α) : Tbl.find? (Tbl.put t k a) k = some a := by
  induction t with
  | nil => simp [Tbl.put, Tbl.find?]
  | cons p t ih =>
    obtain ⟨j, b⟩ := p
    by_cases h : k < j
    · simp [Tbl.put, Tbl.find?, h]
    · by_cases h2 : k = j
      · simp [Tbl.put, Tbl.find?, h2]
      · have h3 : j ≠ k := fun e => h2 e.symm
        simp [Tbl.put, Tbl.find?, h, h2, h3, ih]

theorem Tbl.find?_put_ne {α : Type} (t : Tbl α) {k k' : Nat} (h : k' ≠ k) (a : α) :
    Tbl.find? (Tbl.put t k a) k' = Tbl.find? t k' := by
  induction t with
  | nil =>
    have : k ≠ k' := fun e => h e.symm
    simp [Tbl.put, Tbl.find?, this]
  | cons p t ih =>
    obtain ⟨j, b⟩ := p
    have hk : k ≠ k' := fun e => h e.symm
    by_cases h1 : k < j
    · by_cases h3 : k' < k
      · have : k' < j := by omega
        have : j ≠ k' := by omega
        simp [Tbl.put, Tbl.find?, h1, hk, h3, this]; omega
      · simp [Tbl.put, Tbl.find?, h1, hk, h3]
    · by_cases h2 : k = j
      · subst h2; simp [Tbl.put, Tbl.find?, hk]
      · simp [Tbl.put, Tbl.find?, h1, h2, ih]

theorem Tbl.find?_del_self {α : Type} (t : Tbl α) (k : Nat) (h : Tbl.sorted t = true) :
    Tbl.find? (Tbl.del t k) k = none := by
  unfold Tbl.sorted at h
  revert h
  generalize 0 = lo
  induction t generalizing lo with
  | nil => intro _; rfl
  | cons p t ih =>
    obtain ⟨j, b⟩ := p
    intro h
    simp [Tbl.sortedAbove] at h
    by_cases h1 : j = k
    · subst h1; simp [Tbl.del]; exact Tbl.find?_none_above t h.2 (by omega)
    · by_cases h2 : k < j
      · simp [Tbl.del, Tbl.find?, h1, h2]
      · simp [Tbl.del, Tbl.find?, h1, h2]; exact ih _ h.2

theorem Tbl.find?_del_ne {α : Type} (t : Tbl α) {k k' : Nat} (hne : k' ≠ k) (h : Tbl.sorted t = true) :
    Tbl.find? (Tbl.del t k) k' = Tbl.find? t k' := by
  unfold Tbl.sorted at h
  revert h
  generalize 0 = lo
  induction t generalizing lo with
  | nil => intro _; rfl
  | cons p t ih =>
    obtain ⟨j, b⟩ := p
    intro h
    simp [Tbl.sortedAbove] at h
    by_cases h1 : j = k
    · have h3 : j ≠ k' := by omega
      subst h1
      by_cases h4 : k' < j
      · simp [Tbl.del, Tbl.find?, h3, h4]; exact Tbl.find?_none_above t h.2 (by omega)
      · simp [Tbl.del, Tbl.find?, h3, h4]
    · by_cases h2 : k < j
      · simp [Tbl.del, h1, h2]
      · simp [Tbl.del, Tbl.find?, h1, h2, ih _ h.2]

theorem vector_get_set {α : Type} {n : Nat} (v : Vector α n) (i j : Fin n) (a : α) :
    (v.set i.val a i.isLt).get j = if i = j then a else v.get j := by
  show (v.set i.val a i.isLt)[j.val] = if i = j then a else v[j.val]
  simp [Vector.getElem_set, Fin.ext_iff]

/-! ## Contexts, vtiles and slots -/

/-- Is there an entry for the context? A populated rank has one. -/
theorem State.ctx_there {s : State} {v : VRef} (h : s.hasVt v = true) :
    ∃ c t, Tbl.find? s.ctxs v.ctx = some c ∧ Tbl.find? c.vts v.rank = some t := by
  unfold State.hasVt State.ctx Tbl.getD at h
  cases hc : Tbl.find? s.ctxs v.ctx with
  | none => simp [hc, Ctx.blank, Tbl.find?] at h
  | some c =>
    simp [hc] at h
    cases ht : Tbl.find? c.vts v.rank with
    | none => simp [ht] at h
    | some t => exact ⟨c, t, rfl, ht⟩

theorem State.ctx_inCtx_ne (s : State) {n m : Nat} (h : m ≠ n) (f : Ctx → Ctx) : (s.inCtx n f).ctx m = s.ctx m := by
  simp [State.ctx, Tbl.getD, Tbl.find?_modify_ne _ h]

theorem State.ctx_inCtx_self (s : State) (n : Nat) (f : Ctx → Ctx) (h : (Tbl.find? s.ctxs n).isSome = true) :
    (s.inCtx n f).ctx n = f (s.ctx n) := by
  cases hc : Tbl.find? s.ctxs n with
  | none => simp [hc] at h
  | some c => simp [State.ctx, Tbl.getD, Tbl.find?_modify_self, hc]

theorem State.ctxThere_inCtx (s : State) (n m : Nat) (f : Ctx → Ctx) :
    (Tbl.find? (s.inCtx n f).ctxs m).isSome = (Tbl.find? s.ctxs m).isSome := by
  by_cases h : m = n
  · subst h; simp [Tbl.find?_modify_self]
  · simp [Tbl.find?_modify_ne _ h]

theorem State.vt_modVt_self (s : State) (v : VRef) (f : Vtile → Vtile) (h : s.hasVt v = true) :
    (s.modVt v f).vt v = f (s.vt v) := by
  obtain ⟨c, t, hc, ht⟩ := State.ctx_there h
  have h1 : (s.modVt v f).ctx v.ctx = { s.ctx v.ctx with vts := Tbl.modify (s.ctx v.ctx).vts v.rank f } := by
    unfold State.modVt; rw [State.ctx_inCtx_self _ _ _ (by simp [hc])]
  have h2 : (s.ctx v.ctx) = c := by simp [State.ctx, Tbl.getD, hc]
  simp [State.vt, h1, h2, Tbl.find?_modify_self, ht]

theorem State.vt_modVt_ne (s : State) {v w : VRef} (f : Vtile → Vtile) (h : w ≠ v) : (s.modVt v f).vt w = s.vt w := by
  by_cases hc : w.ctx = v.ctx
  · have hr : w.rank ≠ v.rank := fun e => h (by cases v; cases w; simp_all)
    unfold State.vt State.modVt
    by_cases hs : (Tbl.find? s.ctxs v.ctx).isSome = true
    · rw [hc, State.ctx_inCtx_self _ _ _ hs]; simp [Tbl.find?_modify_ne _ hr]
    · have : Tbl.find? s.ctxs v.ctx = none := by simpa using hs
      simp [State.ctx, Tbl.getD, hc, Tbl.find?_modify_self, this]
  · simp [State.vt, State.modVt, State.ctx_inCtx_ne _ hc]

theorem State.hasVt_modVt (s : State) (v w : VRef) (f : Vtile → Vtile) : (s.modVt v f).hasVt w = s.hasVt w := by
  unfold State.hasVt State.modVt
  by_cases hc : w.ctx = v.ctx
  · by_cases hs : (Tbl.find? s.ctxs v.ctx).isSome = true
    · rw [hc, State.ctx_inCtx_self _ _ _ hs]
      by_cases hr : w.rank = v.rank
      · simp [hr, Tbl.find?_modify_self]
      · simp [Tbl.find?_modify_ne _ hr]
    · have : Tbl.find? s.ctxs v.ctx = none := by simpa using hs
      simp [State.ctx, Tbl.getD, hc, Tbl.find?_modify_self, this]
  · simp [State.ctx_inCtx_ne _ hc]

@[simp] theorem State.hasVt_modSlot (s : State) (r : SRef) (w : VRef) (f : Slot → Slot) :
    (s.modSlot r f).hasVt w = s.hasVt w := State.hasVt_modVt _ _ _ _

theorem State.slot_modSlot_self (s : State) (r : SRef) (f : Slot → Slot) (h : s.hasVt r.vt = true) :
    (s.modSlot r f).slot r = f (s.slot r) := by
  simp [State.slot, State.modSlot, State.vt_modVt_self _ _ _ h, vector_get_set]

theorem State.slot_modSlot_ne (s : State) {r q : SRef} (f : Slot → Slot) (h : q ≠ r) : (s.modSlot r f).slot q = s.slot q := by
  by_cases hv : q.vt = r.vt
  · have hs : q.slot ≠ r.slot := fun e => h (by cases q; cases r; simp_all)
    by_cases hp : s.hasVt r.vt = true
    · simp only [State.slot, State.modSlot, hv, State.vt_modVt_self _ _ _ hp]
      have : r.slot ≠ q.slot := fun e => hs e.symm
      simp [vector_get_set, this]
    · have h0 : Tbl.find? (s.ctx r.vt.ctx).vts r.vt.rank = none := by simpa [State.hasVt] using hp
      have h1 : Tbl.find? ((s.modSlot r f).ctx r.vt.ctx).vts r.vt.rank = none := by
        have := State.hasVt_modVt s r.vt r.vt (fun v => { v with slots := v.slots.set r.slot.val (f (v.slots.get r.slot)) r.slot.isLt })
        simp only [State.hasVt, h0] at this
        simpa [State.modSlot] using this
      simp [State.slot, State.vt, hv, h0, h1]
  · simp [State.slot, State.modSlot, State.vt_modVt_ne _ _ hv]

/-- What a change of a slot leaves of its vtile and of every other. -/
theorem State.vt_modSlot_sp (s : State) (r : SRef) (v : VRef) (f : Slot → Slot) :
    ∃ sls, (s.modSlot r f).vt v = { s.vt v with slots := sls } := by
  by_cases hv : v = r.vt
  · subst hv
    by_cases hp : s.hasVt r.vt = true
    · exact ⟨_, State.vt_modVt_self _ _ _ hp⟩
    · have h0 : Tbl.find? (s.ctx r.vt.ctx).vts r.vt.rank = none := by simpa [State.hasVt] using hp
      have h1 : Tbl.find? ((s.modSlot r f).ctx r.vt.ctx).vts r.vt.rank = none := by
        have := State.hasVt_modVt s r.vt r.vt (fun v => { v with slots := v.slots.set r.slot.val (f (v.slots.get r.slot)) r.slot.isLt })
        simp only [State.hasVt, h0] at this
        simpa [State.modSlot] using this
      exact ⟨(s.vt r.vt).slots, by simp [State.vt, h0, h1]⟩
  · exact ⟨(s.vt v).slots, by simp [State.modSlot, State.vt_modVt_ne _ _ hv]⟩

/-- Of a context, a change of a slot touches the vtiles alone. -/
theorem State.ctx_modSlot (s : State) (r : SRef) (n : Nat) (f : Slot → Slot) :
    ∃ vts, (s.modSlot r f).ctx n = { s.ctx n with vts := vts } := by
  unfold State.modSlot State.modVt
  by_cases hn : n = r.vt.ctx
  · subst hn
    by_cases hs : (Tbl.find? s.ctxs r.vt.ctx).isSome = true
    · exact ⟨_, State.ctx_inCtx_self _ _ _ hs⟩
    · have : Tbl.find? s.ctxs r.vt.ctx = none := by simpa using hs
      exact ⟨(s.ctx r.vt.ctx).vts, by simp [State.ctx, Tbl.getD, Tbl.find?_modify_self, this]⟩
  · exact ⟨(s.ctx n).vts, by simp [State.ctx_inCtx_ne _ hn]⟩

/-- A change of a slot changes no byte of any scratchpad. -/
@[simp] theorem State.spGet_modSlot (s : State) (r : SRef) (f : Slot → Slot) (v : VRef) (a : Nat) :
    (s.modSlot r f).spGet v a = s.spGet v a := by
  obtain ⟨sls, h⟩ := State.vt_modSlot_sp s r v f
  obtain ⟨vts, h2⟩ := State.ctx_modSlot s r v.ctx f
  unfold State.spGet State.image
  rw [h, h2]
  rfl

/-- Nor any full-empty bit. -/
@[simp] theorem State.feGet_modSlot (s : State) (r : SRef) (f : Slot → Slot) (v : VRef) (a : Nat) :
    (s.modSlot r f).feGet v a = s.feGet v a := by
  obtain ⟨sls, h⟩ := State.vt_modSlot_sp s r v f
  obtain ⟨vts, h2⟩ := State.ctx_modSlot s r v.ctx f
  unfold State.feGet State.image
  rw [h, h2]
  rfl

theorem Tbl.modify_modify {α : Type} (t : Tbl α) (k : Nat) (f g : α → α) :
    Tbl.modify (Tbl.modify t k f) k g = Tbl.modify t k (fun a => g (f a)) := by
  induction t with
  | nil => rfl
  | cons p t ih =>
    obtain ⟨j, a⟩ := p
    by_cases h : j = k
    · simp [Tbl.modify, h]
    · by_cases h2 : k < j <;> simp [Tbl.modify, h, h2, ih]

/-- Two changes of a slot are one. -/
theorem State.modSlot_modSlot (s : State) (r : SRef) (f g : Slot → Slot) :
    (s.modSlot r f).modSlot r g = s.modSlot r (fun sl => g (f sl)) := by
  simp [State.modSlot, State.modVt, State.inCtx, Tbl.modify_modify, vector_get_set]

end Sys2Proof.Machine
end

