-- ==== Sys2Proof/Laws/Memory.lean ====
section
/-!
SUPPORT. Sparse bytes: every operation keeps the canonical form, a read gives what was written last, and a write leaves
every other address alone.
-/
namespace Sys2Proof.Machine

/-! ## The keys stay sorted -/

theorem Tbl.sortedAbove_le {α : Type} {lo hi : Nat} (t : Tbl α) (h : Tbl.sortedAbove hi t = true) (hl : lo ≤ hi) :
    Tbl.sortedAbove lo t = true := by
  cases t with
  | nil => rfl
  | cons p t => simp [Tbl.sortedAbove] at *; exact ⟨by omega, h.2⟩

theorem Tbl.sortedAbove_put {α : Type} (t : Tbl α) (lo k : Nat) (a : α) (h : Tbl.sortedAbove lo t = true) (hk : lo ≤ k) :
    Tbl.sortedAbove lo (Tbl.put t k a) = true := by
  induction t generalizing lo with
  | nil => simp [Tbl.put, Tbl.sortedAbove, hk]
  | cons p t ih =>
    obtain ⟨j, b⟩ := p
    simp [Tbl.sortedAbove] at h
    by_cases h1 : k < j
    · simp [Tbl.put, h1, Tbl.sortedAbove, hk, h.2] <;> omega
    · by_cases h2 : k = j
      · subst h2; simp [Tbl.put, Tbl.sortedAbove, hk, h.2]
      · simp [Tbl.put, h1, h2, Tbl.sortedAbove, h.1]; exact ih _ h.2 (by omega)

theorem Tbl.sortedAbove_del {α : Type} (t : Tbl α) (lo k : Nat) (h : Tbl.sortedAbove lo t = true) :
    Tbl.sortedAbove lo (Tbl.del t k) = true := by
  induction t generalizing lo with
  | nil => rfl
  | cons p t ih =>
    obtain ⟨j, b⟩ := p
    simp [Tbl.sortedAbove] at h
    by_cases h1 : j = k
    · simp [Tbl.del, h1]; exact Tbl.sortedAbove_le t h.2 (by omega)
    · by_cases h2 : k < j
      · simp [Tbl.del, h1, h2, Tbl.sortedAbove, h]
      · simp [Tbl.del, h1, h2, Tbl.sortedAbove, h.1]; exact ih _ h.2

theorem Tbl.sortedAbove_filter {α : Type} (t : Tbl α) (lo : Nat) (p : Nat × α → Bool) (h : Tbl.sortedAbove lo t = true) :
    Tbl.sortedAbove lo (t.filter p) = true := by
  induction t generalizing lo with
  | nil => rfl
  | cons c t ih =>
    obtain ⟨j, b⟩ := c
    simp [Tbl.sortedAbove] at h
    by_cases hp : p (j, b) = true
    · simp [List.filter, hp, Tbl.sortedAbove, h.1]; exact ih _ h.2
    · simp [List.filter, hp]; exact ih _ (Tbl.sortedAbove_le t h.2 (by omega))

theorem Tbl.mem_put {α : Type} (t : Tbl α) (k : Nat) (a : α) (c : Nat × α) (h : c ∈ Tbl.put t k a) : c = (k, a) ∨ c ∈ t := by
  induction t with
  | nil => simpa [Tbl.put] using h
  | cons p t ih =>
    obtain ⟨j, b⟩ := p
    by_cases h1 : k < j
    · simp [Tbl.put, h1] at h; simpa using h
    · by_cases h2 : k = j
      · simp [Tbl.put, h2] at h; rcases h with h | h <;> simp_all
      · simp [Tbl.put, h1, h2] at h
        rcases h with h | h
        · simp [h]
        · rcases ih h with h | h <;> simp [h]

theorem Tbl.mem_del {α : Type} (t : Tbl α) (k : Nat) (c : Nat × α) (h : c ∈ Tbl.del t k) : c ∈ t := by
  induction t with
  | nil => simp [Tbl.del] at h
  | cons p t ih =>
    obtain ⟨j, b⟩ := p
    by_cases h1 : j = k
    · simp [Tbl.del, h1] at h; simp [h]
    · by_cases h2 : k < j
      · simpa [Tbl.del, h1, h2] using h
      · simp [Tbl.del, h1, h2] at h
        rcases h with h | h
        · simp [h]
        · simp [ih h]

/-! ## The canonical form -/

theorem Memory.wf_iff (m : Memory) : m.wf = true ↔ Tbl.sorted m = true ∧ ∀ c ∈ m, c.2 ≠ 0 := by
  simp [Memory.wf, List.all_eq_true]

theorem memPut_wf {m : Memory} (h : m.wf = true) (a : Nat) (b : Byte) : (memPut m a b).wf = true := by
  rw [Memory.wf_iff] at *
  unfold memPut Tbl.putSparse
  split
  · exact ⟨Tbl.sortedAbove_del m 0 a h.1, fun c hc => h.2 c (Tbl.mem_del m a c hc)⟩
  · refine ⟨Tbl.sortedAbove_put m 0 a b h.1 (by omega), fun c hc => ?_⟩
    rcases Tbl.mem_put m a b c hc with rfl | hc
    · assumption
    · exact h.2 c hc

theorem memWriteBytes_wf {m : Memory} (h : m.wf = true) (a : Nat) (bs : List Byte) : (memWriteBytes m a bs).wf = true := by
  induction bs generalizing m a with
  | nil => exact h
  | cons b bs ih => exact ih (memPut_wf h a b) _

theorem memWrite_wf {m : Memory} (h : m.wf = true) (a n v : Nat) : (memWrite m a n v).wf = true := memWriteBytes_wf h _ _

theorem memFilter_wf {m : Memory} (h : m.wf = true) (p : Host.Cell → Bool) : Memory.wf (m.filter p) = true := by
  rw [Memory.wf_iff] at *
  exact ⟨Tbl.sortedAbove_filter m 0 p h.1, fun c hc => h.2 c ((List.mem_filter.mp hc).1)⟩

theorem memRange_wf {m : Memory} (h : m.wf = true) (lo n : Nat) : Memory.wf (memRange m lo n) = true := memFilter_wf h _

/-- Two sorted runs of cells, the second above the first. -/
theorem Tbl.sortedAbove_append {α : Type} (t u : Tbl α) (lo mid : Nat) (ht : Tbl.sortedAbove lo t = true)
    (hm : ∀ c ∈ t, c.1 < mid) (hu : Tbl.sortedAbove mid u = true) (hl : lo ≤ mid) : Tbl.sortedAbove lo (t ++ u) = true := by
  induction t generalizing lo with
  | nil => exact Tbl.sortedAbove_le u hu hl
  | cons p t ih =>
    obtain ⟨j, b⟩ := p
    simp [Tbl.sortedAbove] at ht
    have hj := hm (j, b) (by simp)
    simp [Tbl.sortedAbove, ht.1]
    exact ih _ ht.2 (fun c hc => hm c (by simp [hc])) (by simp at hj; omega)

theorem Tbl.sortedAbove_of_all {α : Type} (t : Tbl α) (lo hi : Nat) (h : Tbl.sortedAbove lo t = true)
    (ha : ∀ c ∈ t, hi ≤ c.1) : Tbl.sortedAbove hi t = true := by
  cases t with
  | nil => rfl
  | cons p t =>
    obtain ⟨j, b⟩ := p
    have := ha (j, b) (by simp)
    simp [Tbl.sortedAbove] at *
    exact ⟨this, h.2⟩

theorem memReplace_wf {m cells : Memory} (h : m.wf = true) (lo n : Nat) (hc : cells.wf = true)
    (hr : ∀ c ∈ cells, lo ≤ c.1 ∧ c.1 < lo + n) : (memReplace m lo n cells).wf = true := by
  rw [Memory.wf_iff] at *
  refine ⟨?_, ?_⟩
  · unfold memReplace Tbl.sorted
    rw [List.append_assoc]
    refine Tbl.sortedAbove_append _ _ 0 lo (Tbl.sortedAbove_filter m 0 _ h.1) (fun c hc => ?_) ?_ (by omega)
    · have := (List.mem_filter.mp hc).2; simpa using this
    · refine Tbl.sortedAbove_append _ _ lo (lo + n) ?_ (fun c hc => (hr c hc).2) ?_ (by omega)
      · exact Tbl.sortedAbove_of_all _ 0 _ hc.1 (fun c hc => (hr c hc).1)
      · refine Tbl.sortedAbove_of_all _ 0 _ (Tbl.sortedAbove_filter m 0 _ h.1) (fun c hc => ?_)
        have := (List.mem_filter.mp hc).2; simpa using this
  · intro c hm
    unfold memReplace at hm
    simp only [List.mem_append] at hm
    rcases hm with (hm | hm) | hm
    · exact h.2 c ((List.mem_filter.mp hm).1)
    · exact hc.2 c hm
    · exact h.2 c ((List.mem_filter.mp hm).1)

theorem Tbl.sortedAbove_shift (m : Memory) (lo dst k : Nat) (h : Tbl.sortedAbove k m = true) (hk : lo ≤ k) :
    Tbl.sortedAbove (k - lo + dst) (memShift m lo dst) = true := by
  induction m generalizing k with
  | nil => rfl
  | cons p m ih =>
    obtain ⟨j, b⟩ := p
    simp [Tbl.sortedAbove] at h
    have := ih (j + 1) h.2 (by omega)
    simp only [memShift, List.map_cons, Tbl.sortedAbove, Bool.and_eq_true, decide_eq_true_eq]
    refine ⟨by omega, ?_⟩
    have e : j + 1 - lo + dst = j - lo + dst + 1 := by omega
    rw [e] at this
    exact this

theorem memShift_wf {m : Memory} (h : m.wf = true) (lo dst : Nat) (hl : ∀ c ∈ m, lo ≤ c.1) :
    Memory.wf (memShift m lo dst) = true := by
  rw [Memory.wf_iff] at *
  refine ⟨?_, ?_⟩
  · refine Tbl.sortedAbove_le _ (Tbl.sortedAbove_shift m lo dst lo ?_ (by omega)) (Nat.zero_le _)
    exact Tbl.sortedAbove_of_all m 0 lo h.1 hl
  · intro c hc
    simp only [memShift, List.mem_map] at hc
    obtain ⟨d, hd, rfl⟩ := hc
    exact h.2 d hd

/-! ## Reading back -/

theorem memGet_memPut_self {m : Memory} (h : m.wf = true) (a : Nat) (b : Byte) : memGet (memPut m a b) a = b := by
  rw [Memory.wf_iff] at h
  unfold memGet memPut Tbl.putSparse Tbl.getD
  split
  · rename_i hb; simp [Tbl.find?_del_self m a h.1, hb]
  · simp [Tbl.find?_put_self]

theorem memGet_memPut_ne {m : Memory} (h : m.wf = true) {a x : Nat} (b : Byte) (hx : x ≠ a) :
    memGet (memPut m a b) x = memGet m x := by
  rw [Memory.wf_iff] at h
  unfold memGet memPut Tbl.putSparse Tbl.getD
  split
  · simp [Tbl.find?_del_ne m hx h.1]
  · simp [Tbl.find?_put_ne m hx]

/-- A write leaves every address outside it alone. -/
theorem memGet_memWriteBytes_out {m : Memory} (h : m.wf = true) (a : Nat) (bs : List Byte) {x : Nat}
    (hx : x < a ∨ a + bs.length ≤ x) : memGet (memWriteBytes m a bs) x = memGet m x := by
  induction bs generalizing m a with
  | nil => rfl
  | cons b bs ih =>
    simp only [List.length_cons] at hx
    simp only [memWriteBytes]
    rw [ih (memPut_wf h a b) (a + 1) (by omega), memGet_memPut_ne h b (by omega)]

/-- A write gives the bytes written. -/
theorem memGet_memWriteBytes_in {m : Memory} (h : m.wf = true) (a : Nat) (bs : List Byte) (i : Nat) (hi : i < bs.length) :
    memGet (memWriteBytes m a bs) (a + i) = bs[i] := by
  induction bs generalizing m a i with
  | nil => simp at hi
  | cons b bs ih =>
    simp only [memWriteBytes]
    cases i with
    | zero =>
      rw [memGet_memWriteBytes_out (memPut_wf h a b) (a + 1) bs (by omega)]
      simpa using memGet_memPut_self h a b
    | succ i =>
      have := ih (memPut_wf h a b) (a + 1) i (by simpa using hi)
      have e : a + (i + 1) = a + 1 + i := by omega
      rw [e, this]
      simp

/-! ## Bytes of numbers -/

@[simp] theorem length_toBytes (n x : Nat) : (toBytes n x).length = n := by
  induction n generalizing x with
  | zero => rfl
  | succ n ih => simp [toBytes, ih]

theorem ofBytes_toBytes (n x : Nat) : ofBytes (toBytes n x) = x % 256 ^ n := by
  induction n generalizing x with
  | zero => simp [toBytes, ofBytes, Nat.mod_one]
  | succ n ih =>
    simp only [toBytes, ofBytes, ih, BitVec.toNat_ofNat]
    show x % 256 + 256 * (x / 256 % 256 ^ n) = x % 256 ^ (n + 1)
    rw [Nat.pow_succ', Nat.mod_mul]

theorem memRead_memWriteBytes {m : Memory} (h : m.wf = true) (a : Nat) (bs : List Byte) :
    memRead (memWriteBytes m a bs) a bs.length = ofBytes bs := by
  induction bs generalizing m a with
  | nil => rfl
  | cons b bs ih =>
    simp only [List.length_cons, memRead, ofBytes, memWriteBytes]
    rw [ih (memPut_wf h a b) (a + 1), memGet_memWriteBytes_out (memPut_wf h a b) (a + 1) bs (by omega),
      memGet_memPut_self h]

/-- Rim memory keeps its form under a write. -/
theorem State.rimWriteBytes_wf {s : State} (h : s.rim.mem.wf = true) (a : Nat) (bs : List Byte) :
    (s.rimWriteBytes a bs).rim.mem.wf = true := memWriteBytes_wf h _ _

theorem State.reset_rim_wf : State.reset.rim.mem.wf = true := by decide

end Sys2Proof.Machine
end

