-- ==== Sys2Proof/Laws/Moves.lean ====
section
/-!
SUPPORT. What executing the moves of an instruction comes to (R94): every case of it, once.
-/
namespace Sys2Proof.Machine

/-- No move waits or traps: the writes and triggers take place, then what follows them. -/
theorem State.execMoves_done {s : State} {mvs : List (Nat × Move)} {imm : Slot → Slot} {l : List Moved} (tail : Tail)
    (hp : (s.slot s.cur).sup = true ∨ privilegedMove mvs = none) (hr : s.readMoves s.cur mvs = .ok l)
    (hs : s.stallsOn s.cur l imm tail = false) (hk : (s.preview s.cur l imm).movesCheck s.cur l = none)
    (h2 : tail.check (s.preview s.cur l imm) s.cur (s.slot s.cur) = none)
    (hf : (((s.preview s.cur l imm).fireMoves s.cur (s.slot s.cur).fser l).slot s.cur).fser = (s.slot s.cur).fser) :
    s.execMoves mvs imm tail =
      tail.run ((s.preview s.cur l imm).fireMoves s.cur (s.slot s.cur).fser l) s.cur (s.slot s.cur) := by
  have hpr : (if (s.slot s.cur).sup then Option.none else privilegedMove mvs) = none := by
    rcases hp with h | h <;> simp_all
  simp [State.execMoves, hpr, hr, hs, hk, h2, hf]

/-- What follows the moves fails its check: the trap is taken and nothing of the instruction takes effect. -/
theorem State.execMoves_tail_trap {s : State} {mvs : List (Nat × Move)} {imm : Slot → Slot} {l : List Moved} (tail : Tail)
    {code : Nat} {tval : Word}
    (hp : (s.slot s.cur).sup = true ∨ privilegedMove mvs = none) (hr : s.readMoves s.cur mvs = .ok l)
    (hs : s.stallsOn s.cur l imm tail = false) (hk : (s.preview s.cur l imm).movesCheck s.cur l = none)
    (h2 : tail.check (s.preview s.cur l imm) s.cur (s.slot s.cur) = some (code, tval)) :
    s.execMoves mvs imm tail = s.trapHere s.cur code tval 7 := by
  have hpr : (if (s.slot s.cur).sup then Option.none else privilegedMove mvs) = none := by
    rcases hp with h | h <;> simp_all
  simp [State.execMoves, hpr, hr, hs, hk, h2]

/-- A move's trigger fails its check. -/
theorem State.execMoves_trap {s : State} {mvs : List (Nat × Move)} {imm : Slot → Slot} {l : List Moved} (tail : Tail)
    {code k : Nat} {tval : Word}
    (hp : (s.slot s.cur).sup = true ∨ privilegedMove mvs = none) (hr : s.readMoves s.cur mvs = .ok l)
    (hs : s.stallsOn s.cur l imm tail = false) (hk : (s.preview s.cur l imm).movesCheck s.cur l = some (code, tval, k)) :
    s.execMoves mvs imm tail = s.trapHere s.cur code tval k := by
  have hpr : (if (s.slot s.cur).sup then Option.none else privilegedMove mvs) = none := by
    rcases hp with h | h <;> simp_all
  simp [State.execMoves, hpr, hr, hs, hk]

/-- A stall changes nothing. -/
theorem State.execMoves_stall {s : State} {mvs : List (Nat × Move)} {imm : Slot → Slot} {l : List Moved} (tail : Tail)
    (hp : (s.slot s.cur).sup = true ∨ privilegedMove mvs = none) (hr : s.readMoves s.cur mvs = .ok l)
    (hs : s.stallsOn s.cur l imm tail = true) : s.execMoves mvs imm tail = s := by
  have hpr : (if (s.slot s.cur).sup then Option.none else privilegedMove mvs) = none := by
    rcases hp with h | h <;> simp_all
  simp [State.execMoves, hpr, hr, hs]

/-- A trigger run by itself stalls, traps or fires. -/
theorem runTrigger_cases (k : TrigMeaning) (m : BitVec 3) (s : State) :
    ((s.trigStalls s.cur k.trig m || k.stall s s.cur) = true ∧ runTrigger k m s = .next s) ∨
    ((s.trigStalls s.cur k.trig m || k.stall s s.cur) = false ∧
      ((∃ code tval, k.check s s.cur = some (code, tval) ∧ runTrigger k m s = .next (s.trapHere s.cur code tval 0)) ∨
       (k.check s s.cur = none ∧ runTrigger k m s = .next (k.fire s s.cur)))) := by
  unfold runTrigger
  by_cases h : (s.trigStalls s.cur k.trig m || k.stall s s.cur) = true
  · left; simp [h]
  · right
    have h' : (s.trigStalls s.cur k.trig m || k.stall s s.cur) = false := by simpa using h
    refine ⟨h', ?_⟩
    cases hc : k.check s s.cur with
    | none => right; simp [h', hc]
    | some p => left; exact ⟨p.1, p.2, rfl, by simp [h', hc]⟩

/-- A trigger that neither waits nor fails a check fires. -/
theorem runTrigger_fires {k : TrigMeaning} {m : BitVec 3} {s : State} (h1 : s.trigStalls s.cur k.trig m = false)
    (h2 : k.stall s s.cur = false) (h3 : k.check s s.cur = none) : runTrigger k m s = .next (k.fire s s.cur) := by
  simp [runTrigger, h1, h2, h3]

end Sys2Proof.Machine
end

