-- ==== Sys2Proof/Tests/Slice0.lean ====
section
/-!
SUPPORT. Tests: ill-formed terms that each check of `WellFormed` refuses; words of the spec's own tables with the instructions
they stand for; one step or one operation with a result that the spec works out; and, for every statement with hypotheses,
states and operands that meet them.
-/
set_option Elab.async false

namespace Sys2Proof.Tests
open Sys2Proof Sys2Proof.Machine Sys2Proof.Claims

/-! ## Well-formed and ill-formed terms -/

/-- The guard that is always true. -/
def p0 : Guard := ⟨false, 0⟩

/-- The null move of R82. -/
def null : Move := ⟨p0, .x 0, .x 0, 0⟩

/-- A move without a guard. -/
def mv (s : Src) (d : Dst) (m : BitVec 3 := 0) : Move := ⟨p0, s, d, m⟩

theorem test_wf_null : Instr.wf (.m3 null null null) = true := by decide
/-- R87: a short immediate has no inverted guard. -/
theorem test_illformed_guard : Instr.wf (.mw ⟨⟨true, 1⟩, .imm 5, .x 1, 0⟩ 0 1) = false := by decide
/-- R89, R90: ALU0 has no `.q2`. -/
theorem test_illformed_source : Instr.wf (.mw (mv (.latch .alu0 true) (.x 1)) 0 1) = false := by decide
/-- R89, R91: ALU0 has no `.c`. -/
theorem test_illformed_destination : Instr.wf (.mw (mv (.x 1) (.latch .alu0 2)) 0 1) = false := by decide
/-- R110: bfx takes codes 0 and 4. -/
theorem test_illformed_modifier : Instr.wf (.mw (mv (.x 1) (.trig (.alu false .bfx)) 1) 0 1) = false := by decide
/-- R92: `MXQ.cmd` takes a v register only. -/
theorem test_illformed_command : Instr.wf (.mw (mv (.x 1) (.trig (.mxq .cmd))) 0 1) = false := by decide
/-- R93 step 7: two triggers of one unit. -/
theorem test_illformed_units :
    Instr.wf (.m3 (mv (.x 1) (.trig (.alu false .add))) (mv (.x 2) (.trig (.alu false .sub))) null) = false := by decide
/-- R128: a block has an instruction, and exactly one of CREG and CIMM gives the count. -/
theorem test_illformed_rep : Instr.wf (.rep null p0 0 0 1) = false ∧ Instr.wf (.rep null p0 1 0 0) = false ∧
    Instr.wf (.rep null p0 1 2 1) = false := by decide
/-- R107, R122, R123, R222: widths and scopes that a row does not accept. -/
theorem test_illformed_rows : Instr.wf (.aluBfi true 5) = false ∧ Instr.wf (.aguAdd 1) = false ∧ Instr.wf (.lsuAAdd 2) = false ∧
    Instr.wf (.lsuFence 5) = false ∧ Instr.wf (.lsuCAddO 7) = false ∧ Instr.wf (.fpuAdd 3 0) = false ∧ Instr.wf (.vecIadd 0) = false ∧
    Instr.wf (.rngNorm 3) = false ∧ Instr.wf (.patPcfg 1) = false := by decide
/-- R284: a vtile has 512 units of scratchpad and 16 of each of 64 slices; R20: 256 contexts. -/
theorem test_illformed_units_of_images : Instr.wf (.unitSpill ⟨0, 0⟩ (.sp 512)) = false ∧
    Instr.wf (.unitSpill ⟨0, 0⟩ (.bs 64 0)) = false ∧ Instr.wf (.unitRestore ⟨256, 0⟩ (.sp 0)) = false := by decide
theorem test_illformed_access : Instr.wf (.croftMemoryAccess 0 (.load 0 3)) = false := by decide

/-! ## Words of the spec's tables -/

/-- Chapter 03, worked encoding, slot 0: `x4 -> ALU0.b | x5 -> ALU0.add | #1 -> x6`. -/
theorem test_decode_m3 : decodeTableWord 96 0x0000_8202_0001_4800_0400_8030 =
    some (.m3 (mv (.x 4) (.latch .alu0 1)) (mv (.x 5) (.trig (.alu false .add))) (mv (.imm 1) (.x 6))) := by decide +kernel
/-- Chapter 03, worked encoding, slot 1: `?!p2 ALU0.q -> x7`. -/
theorem test_decode_guard : decodeTableWord 96 0x1420_000E_0000_0000_0000_0000 =
    some (.m3 ⟨⟨true, 2⟩, .latch .alu0 false, .x 7, 0⟩ null null) := by decide +kernel
/-- Chapter 20: `#0x11 -> x5.hi`, and `x5 -> ALU0.b | #-1984 -> ALU0.add | #0x11 -> x6.hi`. -/
theorem test_decode_mh : decodeTableWord 96 0x2000_0000_0000_0000_0000_8940 = some (.mh null null 0x11 5 p0) ∧
    decodeTableWord 96 0x2000_A202_2210_0800_0000_8980 =
      some (.mh (mv (.x 5) (.latch .alu0 1)) (mv (.imm (BitVec.ofInt 12 (-1984))) (.trig (.alu false .add))) 0x11 6 p0) := by
  decide +kernel
/-- R82: MW with a null move, IMM56 = 1 in bits 61 to 6 and XD = 9 in bits 5 to 1. -/
theorem test_decode_mw : decodeTableWord 96 (0b010 * 2 ^ 93 + 1 * 2 ^ 6 + 9 * 2) = some (.mw null 1 9) := by decide +kernel
/-- Chapter 04: `br` back three instructions; chapter 15: `?p1 br loop | ALU0.q -> x24`. -/
theorem test_decode_br : decodeTableWord 96 0x6000_0000_3FFF_FFFF_4000_0000 = some (.br null p0 (BitVec.ofInt 32 (-3))) ∧
    decodeTableWord 96 0x6020_0030_3FFF_FFFA_8020_0000 =
      some (.br (mv (.latch .alu0 false) (.x 24)) ⟨false, 1⟩ (BitVec.ofInt 32 (-22))) := by decide +kernel
/-- Chapters 15, 17 and 18: `rep last, #32`; `park aw, x25`; `park batch, x0`; `harr #15`; `hwait #0`; `?!p1 end`; chapter 12: `trap #5`. -/
theorem test_decode_control : decodeTableWord 96 0x6000_0000_0000_0001_4A00_0020 = some (.rep null p0 5 0 32) ∧
    decodeTableWord 96 0x6000_0000_0000_0000_0E19_0001 = some (.park null p0 1 25) ∧
    decodeTableWord 96 0x6000_0000_0000_0000_0E00_0003 = some (.park null p0 3 0) ∧
    decodeTableWord 96 0x6000_0000_0000_0000_1000_000F = some (.harr null p0 15) ∧
    decodeTableWord 96 0x6000_0000_0000_0000_1200_0000 = some (.hwait null p0 0) ∧
    decodeTableWord 96 0x6000_0000_0000_0000_0D20_0000 = some (.endF null ⟨true, 1⟩) ∧
    decodeTableWord 96 0x6000_0000_0000_0000_1400_0005 = some (.trap null p0 5) := by decide +kernel
/-- Chapter 04: `stclr x5`; chapter 19: `einj x8, #1`; R348: `tret`. -/
theorem test_decode_system : decodeTableWord 96 0x8005_0000_0000_0000_0000_0000 = some (.stclr 5) ∧
    decodeTableWord 96 0x80C8_0001_0000_0000_0000_0000 = some (.einj 8 1) ∧
    decodeTableWord 96 0x80E0_0000_0000_0000_0000_0000 = some .tret := by decide +kernel
/-- Chapter 17: `x6 -> MUL.b | x5 -> MUL.rem.z32 | x6 -> x5`. -/
theorem test_decode_mul : decodeTableWord 96 0x0000_C212_0001_5016_8003_0028 =
    some (.m3 (mv (.x 6) (.latch .mul 1)) (mv (.x 5) (.trig (.mul .rem)) 5) (mv (.x 6) (.x 5))) := by decide +kernel
/-- Chapter 16: `LSU.q -> MSG.b | #0x690 -> LSU.ld | ?p1 x1 -> MSG.send`. -/
theorem test_decode_lsu_msg : decodeTableWord 96 0x0021_0252_03A4_1800_0800_E000 =
    some (.m3 (mv (.latch .lsu false) (.latch .msg 1)) (mv (.imm 0x690) (.trig (.lsu .ld)))
      ⟨⟨false, 1⟩, .x 1, .trig (.msg .send), 0⟩) := by decide +kernel
/-- Chapter 18: `?p1 x14 -> LSU.b | ?!p1 x13 -> LSU.b | AGU.q -> LSU.c.add.o.f32`. -/
theorem test_decode_commons : decodeTableWord 96 0x0201_C222_2403_4444_0083_30D6 =
    some (.m3 ⟨⟨false, 1⟩, .x 14, .latch .lsu 1, 0⟩ ⟨⟨true, 1⟩, .x 13, .latch .lsu 1, 0⟩
      (mv (.latch .agu false) (.trig (.lsu .cAddO)) 6)) := by decide +kernel
/-- Chapter 15: `v4 -> MXQ.cmd | VEC.q -> v5 | AGU.q -> VEC.vld`. -/
theorem test_decode_mxq_vec : decodeTableWord 96 0x0004_9400_0043_0094_0083_4240 =
    some (.m3 (mv (.v 4) (.trig (.mxq .cmd))) (mv (.latch .vec false) (.v 5)) (mv (.latch .agu false) (.trig (.vec .vld 0)))) := by
  decide +kernel
/-- Chapter 05: `VEC.q -> v2 | v1 -> VEC.redadd.u.f32`; chapter 19: `VEC.q -> VEC.cvt.t8`. -/
theorem test_decode_vec : decodeTableWord 96 0x0021_8044_0008_6080_0000_0000 =
      some (.m3 (mv (.latch .vec false) (.v 2)) (mv (.v 1) (.trig (.vec .redaddU 0))) null) ∧
    decodeTableWord 96 0x0021_9020_C000_0000_0000_0000 =
      some (.m3 (mv (.latch .vec false) (.trig (.vec .cvt 0)) 3) null null) := by decide +kernel
/-- Chapter 19: `#1 -> SYS.cfgwr`. -/
theorem test_decode_sys : decodeTableWord 96 0x0100_3C04_0000_0000_0000_0000 =
    some (.m3 (mv (.imm 1) (.trig (.sys .cfgwr))) null null) := by decide +kernel
/-- R89, R90, R91: `x1` = 0x001 to AGU.wrap = 0x504, FPU.class = 0x700 + offset, RNG.draw = 0x901, CPE.read = 0xB01 and PAT.pset = 0xD02. -/
theorem test_decode_units :
    decodeTableWord 96 (0x001 * 2 ^ 77 + 0x504 * 2 ^ 65) = some (.m3 (mv (.x 1) (.trig (.agu .wrap))) null null) ∧
    decodeTableWord 96 (0x001 * 2 ^ 77 + 0x901 * 2 ^ 65) = some (.m3 (mv (.x 1) (.trig (.rng .draw))) null null) ∧
    decodeTableWord 96 (0x001 * 2 ^ 77 + 0xB01 * 2 ^ 65) = some (.m3 (mv (.x 1) (.trig (.cpe .read))) null null) ∧
    decodeTableWord 96 (0x001 * 2 ^ 77 + 0xD02 * 2 ^ 65) = some (.m3 (mv (.x 1) (.trig (.pat .pset))) null null) := by decide +kernel
/-- R81: formats 5 to 7; R84: an unused field; R85: SYOP 8; R90: source 0x0FF; R91: destination 0x120 (MXQ has no latch). -/
theorem test_decode_refuses : decodeTableWord 96 (0b101 * 2 ^ 93) = none ∧ decodeTableWord 96 0x6000_0000_0000_0000_0C00_0001 = none ∧
    decodeTableWord 96 0x8100_0000_0000_0000_0000_0000 = none ∧ decodeTableWord 96 (0x0FF * 2 ^ 77) = none ∧
    decodeTableWord 96 (0x120 * 2 ^ 65) = none := by decide +kernel

/-! ## A small machine -/

/-- The vtile of rank 0 in context 0, and its slot 0. -/
def v0 : VRef := ⟨0, 0⟩
def s0 : SRef := ⟨v0, 0⟩

/-- A machine with one context of one rank, resident on site 0, whose slot 0 is READY at supervisor level. -/
def demo : State := { State.reset.place 0 with cur := s0 }
def onSlot (f : Slot → Slot) : State := demo.modSlot s0 f
def onVt (f : Vtile → Vtile) : State := demo.modVt v0 f
def onCtx (f : Ctx → Ctx) : State := demo.inCtx 0 f

/-- That machine with registers x1 and x2 of its slot, in user or supervisor level. -/
def withX (a b : Word) (sup : Bool := true) : State :=
  onSlot (fun sl => { (sl.xSet 1 a).xSet 2 b with sup := sup })

/-- A machine with values in the operand latches of a unit. -/
def withLat (u : FUnit) (a b c : VWord) : State :=
  onSlot (fun sl => { sl with lat := sl.lat.put u ⟨a, b, c, 0, 0⟩ })

/-- An operation of the slot that has not landed. -/
def flight (t : Trig) (id tseq : Nat) (performed : Bool) (res : Option Landing) : Flight :=
  { id := id, trig := t, mod := 0, a := 0, b := 0, c := 0, tseq := tseq, ix := 0, tag := none, performed := performed, res := res }

/-- A store in the buffer. -/
def stored (k : SbKind) (addr n : Nat) : SbEntry := { id := 0, kind := k, addr := addr, n := n, data := 0x1122334455667788, tag := none }

/-! ## Witnesses: fetch, moves, control (chapters 03 and 04) -/

/-- The line that holds the word of `x4 -> ALU0.b | x5 -> ALU0.add | #1 -> x6` in slot 0, and the machine that fetches it next. -/
def aWord : Nat := 0x0000_8202_0001_4800_0400_8030
def aLine : LineWord := BitVec.ofNat 512 (soloLine aWord)
def placed : State := State.reset.withFetchWord 96 aWord
def placedIssue : State := placed.issued s0 (placed.userEligible (placed.vt v0).site)

/-- The same for a word of a reserved format. -/
def badLine : LineWord := BitVec.ofNat 512 (soloLine (0b111 * 2 ^ 93))
def placedBad : State := State.reset.withFetchWord 96 (0b111 * 2 ^ 93)

/-- A word decodes to what is given, or is refused. -/
def decodesTo (e : Except Reject Instr) (i : Option Instr) : Bool :=
  match e with
  | .ok j => i == some j
  | .error _ => i == none

theorem witness_StepRunsTheDecodedInstruction :
    let s1 := placedIssue
    let s2 := (s1.fetchLine 0 0 ((s1.slot s0).ix / 5)).1
    placed.pickCand = some (.issue s0) ∧ ¬((s1.slot s0).status = .ready ∧ (s1.vt v0).isHeld = true) ∧ (s1.slot s0).ix < 5 * 2 ^ 48 ∧
    (s1.vt v0).site = 0 ∧ (s1.fetchLine 0 0 ((s1.slot s0).ix / 5)).2 = .line aLine ∧
    ((s1.slot s0).entry = .fallthrough ∨ lineBtm aLine ((s1.slot s0).ix % 5) = true) ∧
    bits (lineWord aLine) 30 16 = 0 ∧ pairingBad aLine ((s1.slot s0).ix % 5) = false ∧ (s1.slot s0).repOnFirst aLine = false ∧
    decodesTo (decodeIn (s1.slot s0).sup s2.ident.steppingB1 (lineInsn aLine ((s1.slot s0).ix % 5)))
      (some (.m3 (mv (.x 4) (.latch .alu0 1)) (mv (.x 5) (.trig (.alu false .add))) (mv (.imm 1) (.x 6)))) = true := by
  decide +kernel

theorem witness_UndecodableWordTakesItsTrap :
    let s2 := (placedBad.fetchLine 0 0 ((placedBad.slot s0).ix / 5)).1
    ¬((placedBad.slot s0).status = .ready ∧ (placedBad.vt v0).isHeld = true) ∧ (placedBad.slot s0).ix < 5 * 2 ^ 48 ∧
    (placedBad.vt v0).site = 0 ∧ (placedBad.fetchLine 0 0 ((placedBad.slot s0).ix / 5)).2 = .line badLine ∧
    ((placedBad.slot s0).entry = .fallthrough ∨ lineBtm badLine ((placedBad.slot s0).ix % 5) = true) ∧
    bits (lineWord badLine) 30 16 = 0 ∧ pairingBad badLine ((placedBad.slot s0).ix % 5) = false ∧
    (placedBad.slot s0).repOnFirst badLine = false ∧
    decodesTo (decodeIn (placedBad.slot s0).sup s2.ident.steppingB1 (lineInsn badLine ((placedBad.slot s0).ix % 5))) none = true := by
  decide +kernel

/-- Well-formed instructions that have a word: moves, a control and a system instruction, at the ends of their operands. -/
theorem witness_DecodeOfEncodeIsTheInstruction :
    (∀ i ∈ [Instr.m3 ⟨⟨true, 7⟩, .x 31, .trig (.alu true .neg), 7⟩ (mv (.imm 0xFFF) (.latch .sys 0)) null, .rep null ⟨true, 7⟩ 0x7FFFFFFF 31 0,
      .einj 31 5, .tret], i.wf = true ∧ (encode i).isSome = true) := by decide +kernel

theorem witness_EveryDecodedWordIsTheEncodersWord :
    decodesTo (decode 0x6000_0000_3FFF_FFFF_4000_0000) (some (.br null p0 (BitVec.ofInt 32 (-3)))) = true := by decide +kernel

theorem witness_ReservedAndPrivilegedWordsDoNotDecode : 5 ≤ ((0b101 * 2 ^ 93 : BitVec 96).extractLsb' 93 3).toNat ∧
    5 ≤ ((0b111 * 2 ^ 93 : BitVec 96).extractLsb' 93 3).toNat ∧ ((0b100 * 2 ^ 93 : BitVec 96).extractLsb' 93 3).toNat = 4 := by
  decide +kernel

/-- The conditions of `MovesDone` as a check. -/
def movesGo (s : State) (mvs : List (Nat × Move)) (imm : Slot → Slot) (l : List Moved) : Bool :=
  let t := s.preview s.cur l imm
  ((me s).sup || (privilegedMove mvs).isNone) && s.readMoves s.cur mvs == .ok l && !(me s).crowded l && !t.movesStall s.cur l &&
  (t.movesCheck s.cur l).isNone && ((t.fireMoves s.cur (me s).fser l).slot s.cur).fser == (me s).fser

/-- The state after moves that go. -/
def after (s : State) (imm : Slot → Slot) (l : List Moved) : State := (s.preview s.cur l imm).fireMoves s.cur (me s).fser l

theorem movesDone_of {s : State} {mvs : List (Nat × Move)} {imm : Slot → Slot} {l : List Moved} (h : movesGo s mvs imm l = true) :
    MovesDone s mvs imm l (after s imm l) := by
  simp only [movesGo, Bool.and_eq_true, Bool.or_eq_true, Bool.not_eq_true', Option.isNone_iff_eq_none, beq_iff_eq] at h
  obtain ⟨⟨⟨⟨⟨a, b⟩, c⟩, d⟩, e⟩, f⟩ := h
  exact ⟨a, b, c, d, e, rfl, f⟩

/-- `x1 -> ALU0.b`, `x2 -> ALU0.add`, and a move under a false guard. -/
def aMove : Move := mv (.x 1) (.latch .alu0 1)
def bMove : Move := mv (.x 2) (.trig (.alu false .add))
def cMove : Move := ⟨⟨true, 0⟩, .latch .mul false, .x 7, 0⟩

theorem witness_MoveInstructionsComplete :
    (∃ l t, MovesDone (withX 5 7) [(0, aMove), (1, bMove), (2, cMove)] (fun sl => sl) l t) ∧
    (∃ l t, MovesDone (withX 5 7 false) [(0, aMove), (1, bMove)] (fun sl => if sl.guard p0 then sl.xSet 31 9 else sl) l t) ∧
    (∃ l t, MovesDone (withX 5 7) [(0, null)] (fun sl => sl.xSet 0 9) l t) :=
  ⟨⟨[⟨0, aMove, 5⟩, ⟨1, bMove, 7⟩], _, movesDone_of (by decide +kernel)⟩, ⟨[⟨0, aMove, 5⟩, ⟨1, bMove, 7⟩], _, movesDone_of (by decide +kernel)⟩,
    ⟨[⟨0, null, 0⟩], _, movesDone_of (by decide +kernel)⟩⟩

/-- R94: no trigger, one trigger, and of two triggers each behind the moves before it, the second neither waiting nor failing its check. -/
theorem witness_TriggersActAsTheirRows :
    let s := withX 5 7
    let l0 : List Moved := [⟨0, aMove, 5⟩]
    let dMove : Move := mv (.x 2) (.trig (.mul .mul))
    let l2 : List Moved := [⟨0, bMove, 7⟩, ⟨1, dMove, 7⟩]
    let u := (s.preview s0 l2 (fun sl => sl)).fireMoves s0 (me s).fser [⟨0, bMove, 7⟩]
    ImmediateWrite (fun sl => sl) ∧ MovesDone s [(0, aMove)] (fun sl => sl) l0 (after s (fun sl => sl) l0) ∧ l0.filterMap rowOf = [] ∧
    MovesDone s [(0, bMove), (1, dMove)] (fun sl => sl) l2 (after s (fun sl => sl) l2) ∧
    l2 = [⟨0, bMove, 7⟩] ++ ⟨1, dMove, 7⟩ :: [] ∧ rowOf ⟨1, dMove, 7⟩ = some (.mulMul 0) ∧ [(⟨0, bMove, 7⟩ : Moved)].filterMap rowOf = [.aluAdd false 0] ∧
    (u.cur = s.cur ∧ (u.slot s.cur).fser = (me s).fser ∧ u.trigStalls s.cur (.mul .mul) 0 = false ∧
      (Moved.meaning ⟨1, dMove, 7⟩ (.mul .mul)).stall u s.cur = false ∧ (Moved.meaning ⟨1, dMove, 7⟩ (.mul .mul)).check u s.cur = none) :=
  ⟨.inl rfl, movesDone_of (by decide +kernel), rfl, movesDone_of (by decide +kernel), rfl, rfl, rfl, by decide +kernel⟩

theorem plain_x (g : Guard) (s : Src) (k : Fin 32) (m : BitVec 3) : Plain ⟨g, s, .x k, m⟩ := fun _ h => by cases h

theorem witness_ThreePlainMovesReadThenWriteInOrder : Plain (mv (.x 1) (.x 2)) ∧ Plain (mv (.x 2) (.x 1)) ∧
    (privilegedMove [(0, mv (.x 1) (.x 2)), (1, mv (.x 2) (.x 1)), (2, mv (.x 1) (.x 2))] = none ∧
    (me (withX 5 7 false)).guard p0 = true ∧ (withX 5 7 false).readSrc s0 (.x 1) = .val 5 ∧ (withX 5 7 false).readSrc s0 (.x 2) = .val 7) :=
  ⟨plain_x _ _ _ _, plain_x _ _ _ _, by decide +kernel⟩

theorem present_demo : Present demo := by unfold Present; decide +kernel

theorem witness_MwWritesItsImmediateAndX0StaysZero : Present demo ∧ (0 : Fin 32) ≠ 31 := ⟨present_demo, by decide⟩

theorem witness_PlainMovesFrame : Plain (mv (.x 1) (.x 31)) ∧ Plain cMove ∧ Plain null ∧
    ∃ l t, MovesDone (withX 5 7 false) [(0, mv (.x 1) (.x 31)), (1, cMove), (2, null)] (fun sl => sl) l t :=
  ⟨plain_x _ _ _ _, plain_x _ _ _ _, plain_x _ _ _ _, [⟨0, mv (.x 1) (.x 31), 5⟩, ⟨2, null, 0⟩], _, movesDone_of (by decide +kernel)⟩

/-- The state after a null move. -/
def nulled (s : State) : State := after s (fun sl => sl) [⟨3, null, 0⟩]

/-- The null move of a control instruction is done. -/
def NullDone (s : State) : Prop := MovesDone s [(3, null)] (fun sl => sl) [⟨3, null, 0⟩] (nulled s)

theorem witness_TransfersGoToTheirTargets :
    MovesDone (withX 5 7) [(3, bMove)] (fun sl => sl) [⟨3, bMove, 7⟩] (after (withX 5 7) (fun sl => sl) [⟨3, bMove, 7⟩]) ∧
    (me (withX 5 7)).guard p0 = true ∧ (me (withX 5 7)).guard ⟨true, 0⟩ = false :=
  ⟨movesDone_of (by decide +kernel), by decide +kernel⟩

/-- A slot inside n repeat blocks that end at IX 100. -/
def inBlocks (n : Nat) : State := onSlot (fun sl => { sl with ix := 50, rep := List.replicate n ⟨40, 100, 3⟩ })

/-- R128: no block around, or three that the new block stays in; a fifth block; a block that would outlast the one around it; a count of 0. -/
theorem witness_RepeatBlocksOpenLoopAndClose : NullDone (inBlocks 0) ∧ NullDone (inBlocks 3) ∧ NullDone (inBlocks 4) ∧ NullDone (inBlocks 1) ∧
    NullDone (withX 0x100000000 0) ∧
    ((me (inBlocks 0)).guard p0 = true ∧ repeatCount (me (inBlocks 0)) 0 1 = 1 ∧ (me (inBlocks 0)).rep = [] ∧
      (me (inBlocks 3)).rep.length = 3 ∧ targetOf (me (inBlocks 3)).ix 50 = 100 ∧
      (me (inBlocks 4)).rep.length = 4 ∧ targetOf (me (inBlocks 1)).ix 51 = 101 ∧ repeatCount (me (withX 0x100000000 0)) 1 0 = 0) :=
  ⟨movesDone_of (by decide +kernel), movesDone_of (by decide +kernel), movesDone_of (by decide +kernel), movesDone_of (by decide +kernel),
    movesDone_of (by decide +kernel), by decide +kernel⟩

/-- The innermost block elsewhere, at its end with 2 and with 1 to go, alone and inside another. -/
theorem witness_RepeatBlocksClauses :
    (∃ st top, (me (inBlocks 1)).rep = st ++ [top] ∧ top.last ≠ (me (inBlocks 1)).ix) ∧
    (∃ st top, [RepEntry.mk 4 9 2] = st ++ [top] ∧ top.last = 9 ∧ 1 < top.remaining) ∧
    (∃ st top, [RepEntry.mk 4 9 1] = st ++ [top] ∧ top.last = 9 ∧ top.remaining ≤ 1 ∧ st = []) ∧
    (∃ st top, [RepEntry.mk 0 9 5, RepEntry.mk 4 9 1] = st ++ [top] ∧ top.last = 9 ∧ top.remaining ≤ 1 ∧ st.length ≤ 3) :=
  ⟨⟨[], ⟨40, 100, 3⟩, by decide +kernel⟩, ⟨[], _, rfl, by decide⟩, ⟨[], _, rfl, by decide⟩, ⟨[⟨0, 9, 5⟩], _, rfl, by decide⟩⟩

theorem witness_EndFreesTheSlot : Present (nulled (withX 5 7)) ∧ (nulled (withX 5 7)).cur = (withX 5 7).cur ∧ NullDone (withX 5 7) ∧
    (me (withX 5 7)).guard p0 = true :=
  ⟨by unfold Present; decide +kernel, by decide +kernel, movesDone_of (by decide +kernel), by decide +kernel⟩

/-- The operand of `park` in x1. -/
def parkAt (w : Word) (f : Vtile → Vtile := fun t => t) : State := (withX w 0).modVt v0 f

/-- R131, each kind at an end of its range: the full-empty bit of the last byte (empty, then full), the arrival word 0 with its generation and the
last one with another, hurdle 15 passed and pending, no batch unfinished and one. -/
theorem witness_ParkGoesOnOrParks :
    (NullDone (parkAt 0x3FFFFF) ∧ ¬ParkHolds (nulled (parkAt 0x3FFFFF)) v0 0 0x3FFFFF) ∧
    ParkHolds (nulled (parkAt 0x3FFFFF (fun t => { t with fe := [0x7FFFF] }))) v0 0 0x3FFFFF ∧
    (NullDone (parkAt 0) ∧ ¬ParkHolds (nulled (parkAt 0)) v0 1 0) ∧
    (NullDone (parkAt 0x1003FFFF0) ∧ ParkHolds (nulled (parkAt 0x1003FFFF0)) v0 1 0x1003FFFF0) ∧
    ParkHolds (nulled (parkAt 15)) v0 2 15 ∧ ¬ParkHolds (nulled (parkAt 15 (fun t => { t with pend := 0x8000 }))) v0 2 15 ∧
    ParkHolds (nulled (parkAt 0)) v0 3 0 ∧ ¬ParkHolds (nulled (parkAt 0 (fun t => { t with sealed := [0] }))) v0 3 0 :=
  ⟨⟨movesDone_of (by decide +kernel), by show ¬(_ = true); decide +kernel⟩, by show _ = true; decide +kernel,
    ⟨movesDone_of (by decide +kernel), by show ¬(_ ≠ _); decide +kernel⟩, ⟨movesDone_of (by decide +kernel), by show _ ≠ _; decide +kernel⟩,
    by show _ = false; decide +kernel, by show ¬(_ = false); decide +kernel, by show _ ≤ _; decide +kernel, by show ¬(_ ≤ _); decide +kernel⟩

/-- The checks pass at the last byte and at the last arrival word; the next byte, and an arrival word that would end past the scratchpad or is
not aligned, do not; the last unit out of the tile, and no unit out. -/
theorem witness_ParkClauses : ParkAccepted 0 0x3FFFFF ∧ ParkAccepted 1 0x1003FFFF0 ∧ ParkAccepted 2 15 ∧ ParkAccepted 3 0 ∧
    (s0 = (parkAt 0).cur ∧ (me (parkAt 0)).guard p0 = true ∧
      ((me (parkAt 0x400000)).xGet 1).toNat = 0x400000 ∧ 0x400000 < 0x3FFFF8 % 2 ^ 22 + 16 ∧ ((me (parkAt 8)).xGet 1).toNat % 16 = 8) ∧
    UnitAway (parkAt 0x3FFFFF (fun t => { t with spOut := [511] })) 0x3FFFFF 1 ∧ ¬UnitAway (parkAt 0x3FFFFF) 0x3FFFFF 1 :=
  ⟨by show _ ≤ _; decide, by show _ ∧ _; decide, trivial, trivial, by decide +kernel, by unfold UnitAway; decide +kernel, by unfold UnitAway; decide +kernel⟩

/-- A vtile with pending bits, in a flock of n vtiles whose hurdle 3 has seen c arrivals. -/
def atHurdle (pend : BitVec 16) (n c : Nat) : State :=
  (onVt (fun t => { t with pend := pend })).modFlock 0 0 (fun f => { f with w := n, counts := f.counts.set 3 c, run := true })

theorem witness_HurdleArrivalsCountAndCompleteThePhase :
    ((atHurdle 0 2 0).hasVt v0 = true ∧ ((atHurdle 0 2 0).vt v0).pend.getLsbD 3 = false ∧
      (Tbl.find? ((atHurdle 0 2 0).ctx 0).flocks ((atHurdle 0 2 0).vt v0).flock).isSome = true) ∧
    (((atHurdle 0 2 0).flock 0 0).counts.get 3 + 1 ≠ ((atHurdle 0 2 0).flock 0 0).w * ((atHurdle 0 2 0).flock 0 0).h) ∧
    (((atHurdle 0 2 1).flock 0 0).counts.get 3 + 1 = ((atHurdle 0 2 1).flock 0 0).w * ((atHurdle 0 2 1).flock 0 0).h) := by decide +kernel

/-- R133: nothing before the `harr`; a buffered store, a load that has not been performed and an operation at a bank before it; a move
whose load waits for a full word. -/
theorem witness_HurdleAndTrapInstructionsComplete : NullDone (atHurdle 0 2 0) ∧ NullDone (atHurdle 8 2 0) ∧
    (let s := atHurdle 0 2 0
     s.cur = s0 ∧ (me s).guard p0 = true ∧ (me s).guard ⟨true, 0⟩ = false ∧ (myVt (nulled s)).pend.getLsbD 3 = false ∧
     (myVt (nulled (atHurdle 8 2 0))).pend.getLsbD 3 = true ∧ (me s).sb = [] ∧ (me s).ops = [] ∧ (s.ctx 0).bankOps = []) ∧
    ((me (onSlot (fun sl => { sl with sb := [stored .st 0 8] }))).sb ≠ [] ∧
      (∃ f ∈ (me (onSlot (fun sl => { sl with ops := [flight (.lsu .ldWf) 3 1 false none] }))).ops, f.performed = false ∧ trigIsMemory f.trig = true) ∧
      (∃ u ∈ ((onSlot (fun sl => { sl with nextId := 10 })).inCtx 0 (fun c => { c with bankOps := [
          { id := 4, rank := 0, slot := 0, fser := 0, fid := 9, op := .cSt, mod := 0, ea := 32, b := 1, c := 0, oseq := 0, ix := 0, tag := none }] })
        |>.ctx 0).bankOps, u.rank = 0 ∧ u.slot = 0 ∧ u.fid < 10)) ∧
    AwaitsFull demo s0 (mv (.x 1) (.trig (.lsu .ldWf)) 3) ∧ ¬AwaitsFull demo s0 null := by
  refine ⟨movesDone_of (by decide +kernel), movesDone_of (by decide +kernel), by decide +kernel, by decide +kernel, ?_, ?_⟩
  · refine ⟨by decide +kernel, .inl ⟨.inl rfl, 0, by decide +kernel, by decide +kernel, by decide +kernel⟩⟩
  · rintro ⟨-, ⟨h | h, -⟩ | ⟨⟨_, h⟩, -⟩⟩ <;> cases h

/-! ## Witnesses: system instructions and traps (chapters 04 and 12) -/

theorem witness_UserSlotsTakePrivilege : (me (withX 0 0 false)).sup = false := by decide +kernel

/-- Values at the ends of the fields that R135 to R138 give, and just beyond. -/
theorem witness_SystemInstructionsWriteTheirRegisters :
    ((me (withX 0xFF 0)).sup = true ∧ ((me (withX 0xFF 0)).xGet 1).toNat < 2 ^ 8) ∧
    (2 ^ 8 ≤ ((me (withX 0x100 0)).xGet 1).toNat ∧ ((me (withX 0xFFFFFFFFFFFF 0)).xGet 1).toNat < 2 ^ 48 ∧
      2 ^ 48 ≤ ((me (withX 0x1000000000000 0)).xGet 1).toNat ∧ ((me (withX 0x3FFF 0)).xGet 1).toNat < 2 ^ 14 ∧
      2 ^ 14 ≤ ((me (withX 0x4000 0)).xGet 1).toNat) ∧
    (let logsz (w : Word) := ((me (withX w 0)).xGet 1).toNat / 2 ^ 22 % 2 ^ 5
     let base (w : Word) := ((me (withX w 0)).xGet 1).toNat % 2 ^ 22
     (logsz 0 = 0 ∧ logsz 0x1800040 = 6 ∧ base 0x1800040 % 2 ^ 6 = 0 ∧ logsz 0x5800000 = 22 ∧ base 0x5800000 = 0) ∧
     (logsz 0x1400000 = 5 ∧ logsz 0x5C00000 = 23 ∧ logsz 0x1800020 = 6 ∧ base 0x1800020 % 2 ^ 6 ≠ 0 ∧ 2 ^ 27 ≤ (0x8000000 : Word).toNat)) := by
  decide +kernel

/-- R75: nothing under way; an operation of the slot, and in a handler a commons operation of before the trap. -/
theorem witness_FlagsPending : ¬FlagsPending demo s0 ∧
    FlagsPending (onSlot (fun sl => { sl with ops := [flight (.fpu .add 0) 3 1 true none] })) s0 ∧
    FlagsPending (onSlot (fun sl => { sl with saved := [(7, flight (.lsu .cAddU) 3 1 false none)] })) s0 ∧
    FlagsPending (onVt (fun t => { t with mx := { t.mx with run := { t.mx.run with draining := true, pos := 1 } } })) s0 := by
  refine ⟨?_, .inl ⟨flight (.fpu .add 0) 3 1 true none, by decide +kernel, by decide⟩,
    .inr (.inl ⟨(7, flight (.lsu .cAddU) 3 1 false none), by decide +kernel, .cAddU, rfl, rfl⟩), .inr (.inr (by decide +kernel))⟩
  have h : (demo.slot s0).ops = [] ∧ (demo.slot s0).saved = [] ∧ (demo.vt s0.vt).mx.run.draining = false := by decide +kernel
  rintro (⟨f, hf, -⟩ | ⟨f, hf, -⟩ | hd)
  · rw [h.1] at hf; cases hf
  · rw [h.2.1] at hf; cases hf
  · rw [h.2.2] at hd; cases hd.1

/-- A machine whose context has error injection on. -/
def injecting (a : Word) : State := (withX a 0).inCtx 0 (fun c => { c with desc := { c.desc with flags := 4 } })

theorem witness_HaltHgrpAndEinjComplete : Present (withX 0 0) ∧
    ((me (withX 0 0)).sup = true ∧ ¬(bit ((withX 0 0).ctx 0).desc.flags 2 = true) ∧ (me (injecting 0)).sup = true ∧
      bit ((injecting 0).ctx 0).desc.flags 2 = true ∧ ((me (injecting 0x3FFFFF)).xGet 1).toNat < 0x400000 ∧
      0x400000 ≤ ((me (injecting 0x400000)).xGet 1).toNat ∧ Tbl.sorted (myVt (injecting 0)).mx.bpoison = true) ∧
    OwnsGroup { demo with crook := { demo.crook with owners := [(63, (0, false))] } } 63 ∧ ¬OwnsGroup demo 63 :=
  ⟨by unfold Present; decide +kernel, by decide +kernel, by unfold OwnsGroup; decide +kernel, by unfold OwnsGroup; decide +kernel⟩

/-- A vtile with a supervisor handler for traps at line 7, slot 2, and a slot inside a block. -/
def trappable (st : SlotStatus) : State :=
  (onVt (fun t => { t with hnds := t.hnds.set 31 (7 * 2 ^ 6 + 2 + 2 ^ 54 + 2 ^ 55) })).modSlot s0 (fun sl =>
    { (sl.xSet 31 77) with status := st, rep := [⟨1, 9, 4⟩], csel := 5, tframe := 0x3F8000 })

/-- An integer overflow of nothing: some trap request with the largest code and move. -/
def someTrap : TrapReq := ⟨0xFF, 1, 2, 7, true⟩

theorem frameAreaOk_trappable (st : SlotStatus) (h : ((trappable st).vt v0).tfbase = 0x3F8000) (hp : ((trappable st).vt v0).psSize = 0) :
    FrameAreaOk ((trappable st).vt v0) := ⟨by omega, .inl hp⟩

theorem quiet_of {sl : Slot} (h : sl.ops = [] ∧ sl.sb = []) : Quiet sl := h

theorem witness_TakingATrapSavesTheSlotAndEntersTheHandler :
    Quiet ((trappable .ready).slot s0) ∧ FrameAreaOk ((trappable .ready).vt v0) ∧ TrapHandlerAt ((trappable .ready).vt v0) 37 ∧
    ((trappable .ready).hasVt v0 = true ∧ ((trappable .ready).slot s0).status ≠ .trapped ∧ someTrap.code ≠ 8 ∧ someTrap.code < 2 ^ 8 ∧
      someTrap.move < 8 ∧ ((trappable .ready).vt v0).spOut = [] ∧ ((trappable .ready).vt v0).sp.wf = true ∧
      ((trappable .ready).slot s0).rep.length ≤ 4) :=
  ⟨quiet_of (by decide +kernel), frameAreaOk_trappable _ (by decide +kernel) (by decide +kernel), by unfold TrapHandlerAt; decide +kernel,
    by decide +kernel⟩

/-- R349: a TRAPPED slot, and a slot whose frame would meet the port store. -/
theorem witness_FatalTrapsEndTheFiringAndHoldTheVtile :
    ((trappable .trapped).hasVt v0 = true ∧ ((trappable .trapped).slot s0).status = .trapped) ∧
    ∃ s : State, s.hasVt v0 = true ∧ ¬FrameAreaOk (s.vt v0) :=
  ⟨by decide +kernel, onVt (fun t => { t with tfbase := 0x3F8000, psBase := 0x3FFFF0, psSize := 16 }), by decide +kernel, by
    unfold FrameAreaOk; decide +kernel⟩

theorem noRecords {s : State} (h : (List.range 32).all (fun k => !(s.spRead v0 (0x3F8000 + 0x6C0 + 32 * k) 8).testBit 15) = true) :
    ∀ k, k < 32 → (s.spRead v0 (0x3F8000 + 0x6C0 + 32 * k) 8).testBit 15 = false := by
  intro k hk
  simpa using List.all_eq_true.mp h k (List.mem_range.mpr hk)

theorem witness_TretReadsTheSlotBack : Present (trappable .trapped) ∧ Quiet (me (trappable .trapped)) ∧ AllUnitsIn (trappable .trapped) ∧
    ((me (trappable .trapped)).sup = true ∧ (me (trappable .trapped)).status = .trapped ∧
      (me (trappable .trapped)).tframe.toNat % 2 ^ 22 = 0x3F8000 ∧ (me (trappable .ready)).status ≠ .trapped) ∧
    (∀ k, k < 32 → ((trappable .trapped).spRead v0 (0x3F8000 + 0x6C0 + 32 * k) 8).testBit 15 = false) :=
  ⟨by unfold Present; decide +kernel, quiet_of (by decide +kernel), by unfold AllUnitsIn; decide +kernel, by decide +kernel,
    noRecords (by decide +kernel)⟩

theorem witness_TrapAndReturnRestoreTheSlot : Present (trappable .ready) ∧
    (∀ e ∈ (me (trappable .ready)).rep, e.first < 2 ^ 64 ∧ e.last < 2 ^ 64 ∧ e.remaining < 2 ^ 64) ∧
    (∀ k : Fin 8, ((me (trappable .ready)).h.get k).toNat < 2 ^ 36) :=
  ⟨by unfold Present; decide +kernel, by decide +kernel, by decide +kernel⟩
/-! ## Witnesses: results of triggers (chapters 04 and 05) -/

/-- A slot with n operations that have not landed, of a unit. -/
def underWay (n : Nat) (t : Trig) : State := onSlot (fun sl => { sl with ops := List.replicate n (flight t 0 0 true none) })

theorem room_of {s : State} (h : (me s).ops.length < 32) : Room s := h

theorem witness_AluTriggersGiveTheirResults : Room demo ∧ Room (underWay 31 (.mul .div)) ∧
    (aluInstr true .bfi 4).wf = true ∧ (aluInstr false .neg 7).wf = true :=
  ⟨room_of (by decide +kernel), room_of (by decide +kernel), by decide +kernel⟩

theorem witness_MulTriggersGiveTheirResults : Room (underWay 31 (.mul .mul)) := room_of (by decide +kernel)

/-- R115 at the ends of the checks: a = b, a just below c, a = c, a below b; c = 0. -/
theorem witness_AguTriggersGiveTheirResults : Room (withLat .agu 5 5 6) ∧
    (let l (a b c : VWord) := (me (withLat .agu a b c)).lat.agu
     ((l 5 5 6).b.toNat ≤ (l 5 5 6).a.toNat ∧ (l 5 5 6).a.toNat < (l 5 5 6).c.toNat ∧ (l 5 5 6).c.toNat ≠ 0) ∧
     (¬((l 6 5 6).a.toNat < (l 6 5 6).c.toNat) ∧ (l 4 5 6).a.toNat < (l 4 5 6).b.toNat ∧ (l 4 5 0).c.toNat = 0)) :=
  ⟨room_of (by decide +kernel), by decide +kernel⟩

/-- A vtile with ring 7 of 64 bytes, FILL 10 and DRAIN 2, and a valid handle of it with a cursor. -/
def ringed (cur : Nat) (b : VWord) : State :=
  (onVt (fun t => { t with rings := t.rings.set 7 ⟨64, 6, 10, 2, 10, []⟩ })).modSlot s0 (fun sl =>
    { sl with lat := sl.lat.put .agu ⟨BitVec.ofNat 1024 (7 + 8 + 16 * cur), b, 0, 0, 0⟩ })

/-- R116, R117: a step to FILL and one past it, a cursor between DRAIN and FILL, behind DRAIN and past FILL, and a ring that is not there. -/
theorem witness_AguRings : Present (ringed 4 6) ∧ Room (ringed 4 6) ∧
    (let g := (myVt (ringed 4 6)).rings.get 7
     g.logsz ≠ 0 ∧ (me (ringed 4 6)).lat.agu.a.getLsbD 3 = true ∧ (me (ringed 4 6)).lat.agu.b.toNat = 6 ∧
     (me (ringed 4 7)).lat.agu.b.toNat = 7 ∧ (((g.fill : Int) - 4) % 2 ^ 32).toNat = 6 ∧
     (((4 : Int) - g.drain) % 2 ^ 32).toNat ≤ (((g.fill : Int) - g.drain) % 2 ^ 32).toNat ∧
     ¬((((1 : Int) - g.drain) % 2 ^ 32).toNat ≤ (((g.fill : Int) - g.drain) % 2 ^ 32).toNat) ∧
     ((myVt (withLat .agu 0 0 0)).rings.get 0).logsz = 0) :=
  ⟨by unfold Present; decide +kernel, room_of (by decide +kernel), by decide +kernel⟩

theorem witness_FpuTriggersGiveTheirResults : Room demo ∧ FpuOp.cls ∉ [FpuOp.cvt, .cvti, .cvtf] ∧ (fpuInstr .cls 2 0).wf = true ∧
    (fpuInstr .cvt 4 3).wf = true ∧ ¬RecordRefused 0x6D5 false ∧ RecordRefused 0 true ∧ RecordRefused 0x11 true ∧ RecordRefused 0x800 false :=
  ⟨room_of (by decide +kernel), by decide, by decide +kernel, by decide +kernel, by unfold RecordRefused; decide, by unfold RecordRefused; decide,
    by unfold RecordRefused; decide, by unfold RecordRefused; decide⟩

/-- FP32: a signalling NaN, a quiet one, minus zero, infinity. -/
theorem witness_FpuComparesSignsAndNaNs : (2 : BitVec 3).toNat < 3 ∧ IsNaN 0 0x7F800001 ∧ IsSignalling 0 0x7F800001 ∧ IsNaN 0 0xFFC00000 ∧
    ¬IsSignalling 0 0xFFC00000 ∧ ¬(IsNaN 0 0x80000000 ∨ IsNaN 0 0x7F800000) ∧ IsInf 0 0x7F800000 ∧ fMag 0 0x80000000 = 0 := by decide

theorem witness_VecLanesAreFpuResults : Room (withLat .vec 1 2 3) ∧ (2 : BitVec 3).toNat < 3 := ⟨room_of (by decide +kernel), by decide⟩

theorem witness_VecSelectsPermutesAndIntegerLanes : Room (withLat .vec 1 2 3) ∧
    (vecInstr .sel 2 0).wf = true ∧ (vecInstr .perm 7 0).wf = true ∧ (vecInstr .imax 3 0).wf = true :=
  ⟨room_of (by decide +kernel), by decide +kernel⟩

/-- R154: N from 0 (all lanes), 1, the number of lanes, and one more. -/
theorem witness_VecReductionsAndBlockFloat : Room (withLat .vec 0 33 0) ∧
    (let n (b : VWord) := (me (withLat .vec 0 b 0)).lat.vec.b.toNat % 2 ^ 7
     n 0x80 = 0 ∧ n 1 ≤ 1024 / fWidth 0 ∧ n 32 ≤ 1024 / fWidth 0 ∧ 1024 / fWidth 0 < n 33 ∧ n 64 ≤ 1024 / fWidth 2 ∧ 1024 / fWidth 2 < n 65) ∧
    (4 : BitVec 3).toNat < 5 ∧ ([7] : List Nat) ≠ [] ∧ 0xFFFFFFFF < 2 ^ 32 :=
  ⟨room_of (by decide +kernel), by decide +kernel, by decide, by decide, by decide⟩

/-- R151: FP32 from BF16 takes parts 0 and 1 of the wider side, and part 2 is not there. -/
theorem witness_VecConversionsHandleOnePart : Room (withLat .vec 0 0x100000002 0) ∧ (vecInstr .cvt 0 0).wf = true ∧ ¬RecordRefused 2 false ∧
    RecordRefused 6 false ∧ (laneCount (recordFmt 2) = 64 ∧ laneCount (fmtOfF 0) = 32 ∧ 1 < max 64 32 / min 64 32 ∧ max 64 32 / min 64 32 ≤ 2) :=
  ⟨room_of (by decide +kernel), by decide +kernel, by unfold RecordRefused; decide, by unfold RecordRefused; decide, by decide +kernel⟩

theorem witness_VecApproximationsComplete : Room (underWay 3 (.vec .exp 0)) ∧ RoomLong (underWay 3 (.vec .exp 0)) ∧
    Room (underWay 4 (.vec .tanh 0)) ∧ ¬RoomLong (underWay 4 (.vec .tanh 0)) := by
  unfold Room RoomLong; decide +kernel

/-- A vtile whose random record 7 stands at its last counter, exhausted or not. -/
def rngAt (exh : Bool) : State :=
  (onVt (fun t => { t with rng := t.rng.set 7 ⟨3, exh, 2 ^ 64 - 1⟩ })).modSlot s0 (fun sl => { sl with lat := sl.lat.put .rng ⟨0xF, 0, 0, 0, 0⟩ })

theorem witness_RngTriggersStepTheirRecord : Present (rngAt false) ∧ Room (rngAt false) ∧
    ((me (rngAt false)).lat.rng.a.toNat % 8 = 7 ∧ ((myVt (rngAt false)).rng.get 7).exh = false ∧
      ((myVt (rngAt false)).rng.get 7).ctr = 2 ^ 64 - 1 ∧ ((myVt (rngAt true)).rng.get 7).exh = true ∧ (2 : BitVec 3).toNat < 3) :=
  ⟨by unfold Present; decide +kernel, room_of (by decide +kernel), by decide +kernel⟩

/-! ## Witnesses: exact values and their rounding (chapters 02 and 05) -/

theorem valueOf_f32 (x : Nat) : valueOf 0 x = (if fNeg 0 x then -1 else 1) * (((if fExp 0 x = 0 then 0 else 2 ^ 23) + fFrac 0 x : Nat) : ℚ) *
    2 ^ ((max (fExp 0 x) 1 : ℤ) - 150) := by
  have h : (max (fExp 0 x) 1 : ℤ) - (fBias 0 : ℕ) - (fMant 0 : ℕ) = (max (fExp 0 x) 1 : ℤ) - 150 := by
    rw [show fBias 0 = 127 from rfl, show fMant 0 = 23 from rfl]; push_cast; ring
  unfold valueOf
  rw [h]
  rfl

/-- FP32 values between 1 and 2 that are not at an end differ from every other value by a unit of their last place. -/
theorem grid_gap {x z : Nat} (hx : fExp 0 x = 127) (h1 : 1 ≤ fFrac 0 x) (h2 : fFrac 0 x + 2 ≤ 2 ^ 23) (hp : ¬fNeg 0 x)
    (hne : valueOf 0 z ≠ valueOf 0 x) : (1 : ℚ) / 2 ^ 23 ≤ |valueOf 0 z - valueOf 0 x| := by
  have hzl : fFrac 0 z < 2 ^ 23 := Nat.mod_lt _ (by norm_num [fMant])
  have hX := valueOf_f32 x
  have hZ := valueOf_f32 z
  rw [if_neg hp, hx] at hX
  generalize valueOf 0 x = X at *
  generalize valueOf 0 z = Z at *
  generalize fFrac 0 x = f at *
  generalize fFrac 0 z = k at *
  generalize fExp 0 z = e at *
  have hf : (f : ℚ) + 2 ≤ 2 ^ 23 := by exact_mod_cast h2
  have hf1 : (1 : ℚ) ≤ f := by exact_mod_cast h1
  have hk : (k : ℚ) + 1 ≤ 2 ^ 23 := by exact_mod_cast hzl
  have hk0 : (0 : ℚ) ≤ k := by positivity
  have hX' : X = (2 ^ 23 + f) / 2 ^ 23 := by rw [hX]; norm_num; ring
  rcases lt_trichotomy e 127 with he | he | he
  · -- below 1
    have hb : |Z| ≤ (2 ^ 24 - 1) / 2 ^ 24 := by
      rw [hZ, abs_mul, abs_mul]
      have hp1 : (2 : ℚ) ^ (max (e : ℤ) 1 - 150) ≤ 2 ^ (-24 : ℤ) := zpow_le_zpow_right₀ (by norm_num) (by omega)
      have hs : |(if fNeg 0 z then (-1 : ℚ) else 1)| = 1 := by split_ifs <;> simp
      have hm : |(((if e = 0 then 0 else 2 ^ 23) + k : ℕ) : ℚ)| ≤ 2 ^ 24 - 1 := by
        rw [abs_of_nonneg (by positivity)]; split_ifs <;> push_cast <;> linarith
      rw [hs, one_mul, abs_of_nonneg (a := (2 : ℚ) ^ _) (by positivity)]
      calc _ ≤ (2 ^ 24 - 1 : ℚ) * 2 ^ (-24 : ℤ) := mul_le_mul hm hp1 (by positivity) (by norm_num)
        _ = (2 ^ 24 - 1) / 2 ^ 24 := by norm_num
    have := (abs_le.mp hb).2
    rw [abs_sub_comm]
    refine le_trans ?_ (le_abs_self _)
    rw [hX']
    have : (2 ^ 23 + f : ℚ) / 2 ^ 23 ≥ 1 + 1 / 2 ^ 23 := by rw [ge_iff_le, ← sub_nonneg]; ring_nf; linarith
    linarith
  · subst he
    by_cases hs : fNeg 0 z
    · rw [if_pos hs] at hZ
      have : Z ≤ 0 := by rw [hZ]; have : (0 : ℚ) ≤ ((if (127 : ℕ) = 0 then 0 else 2 ^ 23) + k : ℕ) * 2 ^ (max ((127 : ℕ) : ℤ) 1 - 150) := by positivity
                         linarith
      rw [abs_sub_comm]; refine le_trans ?_ (le_abs_self _)
      have : X ≥ 1 := by rw [hX', ge_iff_le, ← sub_nonneg]; ring_nf; linarith
      have : (1 : ℚ) / 2 ^ 23 ≤ 1 := by norm_num
      linarith
    · rw [if_neg hs] at hZ
      have hZ' : Z = (2 ^ 23 + k) / 2 ^ 23 := by rw [hZ]; norm_num; ring
      have hkf : (k : ℤ) ≠ f := fun h => hne (by rw [hZ', hX', show (k : ℚ) = f by exact_mod_cast h])
      have h1' : (1 : ℚ) ≤ |(k : ℚ) - f| := by exact_mod_cast Int.one_le_abs (sub_ne_zero.mpr hkf)
      have : Z - X = ((k : ℚ) - f) / 2 ^ 23 := by rw [hZ', hX']; ring
      rw [this, abs_div, abs_of_pos (show (0 : ℚ) < 2 ^ 23 by norm_num)]
      exact div_le_div_of_nonneg_right h1' (by norm_num)
  · by_cases hs : fNeg 0 z
    · rw [if_pos hs] at hZ
      have : Z ≤ 0 := by
        rw [hZ]; have : (0 : ℚ) ≤ ((if e = 0 then 0 else 2 ^ 23) + k : ℕ) * 2 ^ (max (e : ℤ) 1 - 150) := by positivity
        linarith
      rw [abs_sub_comm]; refine le_trans ?_ (le_abs_self _)
      have : X ≥ 1 := by rw [hX', ge_iff_le, ← sub_nonneg]; ring_nf; linarith
      have : (1 : ℚ) / 2 ^ 23 ≤ 1 := by norm_num
      linarith
    · rw [if_neg hs, if_neg (by omega)] at hZ
      have : Z ≥ 2 := by
        rw [hZ]
        have hp1 : (2 : ℚ) ^ (-22 : ℤ) ≤ 2 ^ (max (e : ℤ) 1 - 150) := zpow_le_zpow_right₀ (by norm_num) (by omega)
        have hm : (2 ^ 23 : ℚ) ≤ ((2 ^ 23 + k : ℕ) : ℚ) := by push_cast; linarith
        calc (2 : ℚ) = 2 ^ 23 * 2 ^ (-22 : ℤ) := by norm_num
          _ ≤ _ := by rw [one_mul]; exact mul_le_mul hm hp1 (by positivity) (by positivity)
      refine le_trans ?_ (le_abs_self _)
      have : X ≤ 2 - 2 / 2 ^ 23 := by rw [hX', ← sub_nonneg]; ring_nf; linarith
      have : (1 : ℚ) / 2 ^ 23 ≤ 2 / 2 ^ 23 := by norm_num
      linarith

/-- What lies within less than half a unit of such a value rounds to it. -/
theorem rounds_near {x : Nat} {u : ℝ} (hx : x < 2 ^ 32) (he : fExp 0 x = 127) (h1 : 1 ≤ fFrac 0 x) (h2 : fFrac 0 x + 2 ≤ 2 ^ 23) (hp : ¬fNeg 0 x)
    (hu : |u - valueOf 0 x| < 1 / 2 ^ 24) (hlo : 1 ≤ u) (hhi : u ≤ 2) : ∃ fl, RoundsTo 0 0 u x fl := by
  have hno : ¬Overflows 0 0 u := by
    unfold Overflows
    rw [if_pos rfl, abs_of_nonneg (by linarith), show fBias 0 = 127 from rfl, show fMant 0 = 23 from rfl]
    norm_num; linarith
  have hnear : Nearest 0 0 u x := by
    refine ⟨⟨hx, by unfold ExpOnes; rw [he]; decide⟩, iff_of_false hp (by linarith), ?_⟩
    rw [if_pos rfl]
    intro z _
    by_cases hz : valueOf 0 z = valueOf 0 x
    · rw [hz]; exact ⟨le_refl _, fun _ h => absurd rfl h⟩
    · have hg : (1 : ℝ) / 2 ^ 23 ≤ |(valueOf 0 z : ℝ) - valueOf 0 x| := by
        have := (Rat.cast_le (K := ℝ)).mpr (grid_gap he h1 h2 hp hz)
        push_cast at this
        exact this
      have ht : |(valueOf 0 z : ℝ) - valueOf 0 x| ≤ |u - valueOf 0 z| + |u - valueOf 0 x| := by
        rw [abs_sub_comm u (valueOf 0 z : ℝ)]; exact abs_sub_le _ _ _
      have : |u - valueOf 0 x| < |u - valueOf 0 z| := by
        have : (1 : ℝ) / 2 ^ 23 = 1 / 2 ^ 24 + 1 / 2 ^ 24 := by norm_num
        linarith
      exact ⟨this.le, fun h => absurd h this.ne⟩
  by_cases hv : (valueOf 0 x : ℝ) = u
  · exact ⟨0, fun h => absurd h hno, fun _ => ⟨hnear, fun _ => rfl, fun h => absurd hv h⟩⟩
  · by_cases ht : Tiny 0 0 u
    · exact ⟨_, fun h => absurd h hno, fun _ => ⟨hnear, fun h => absurd h hv, fun _ => ⟨fun _ => rfl, fun h => absurd ht h⟩⟩⟩
    · exact ⟨_, fun h => absurd h hno, fun _ => ⟨hnear, fun h => absurd h hv, fun _ => ⟨fun h => absurd h ht, fun _ => rfl⟩⟩⟩

/-- R167 for FP16 with ua = 1/2 and ub = 0: the value is √(2 ln 2), and what is near it rounds to 0x3F96B55F in FP32. -/
theorem norm_value : Real.sqrt (-2 * Real.log ((32767 + 1 : ℝ) / 2 ^ 16)) * Real.cos (2 * Real.pi * (0 / 2 ^ 16)) ≠ 0 ∧
    Decided 2 (Real.sqrt (-2 * Real.log ((32767 + 1 : ℝ) / 2 ^ 16)) * Real.cos (2 * Real.pi * (0 / 2 ^ 16))) := by
  have hv : Real.sqrt (-2 * Real.log ((32767 + 1 : ℝ) / 2 ^ 16)) * Real.cos (2 * Real.pi * (0 / 2 ^ 16)) = Real.sqrt (2 * Real.log 2) := by
    rw [show ((32767 + 1 : ℝ) / 2 ^ 16) = 2⁻¹ by norm_num, Real.log_inv]
    norm_num
  rw [hv]
  have hl := Real.log_two_gt_d9
  have hh := Real.log_two_lt_d9
  have h1 : (1.17741002 : ℝ) < Real.sqrt (2 * Real.log 2) := Real.lt_sqrt_of_sq_lt (by norm_num; linarith)
  have h2 : Real.sqrt (2 * Real.log 2) < 1.17741003 := by rw [Real.sqrt_lt' (by norm_num)]; norm_num; linarith
  generalize Real.sqrt (2 * Real.log 2) = v at *
  have hX : (valueOf 0 0x3F96B55F : ℝ) = 9876831 / 2 ^ 23 := by
    rw [valueOf_f32]; norm_num [fExp, fFrac, fNeg, fMant, fWidth]
  have hn (u : ℝ) (h : |u - v| ≤ |v| / 2 ^ 1000) : 1.17741001 < u ∧ u < 1.17741004 := by
    rw [abs_of_pos (show 0 < v by linarith)] at h
    have hs : v / 2 ^ 1000 ≤ 1 / 10 ^ 9 := by
      rw [div_le_div_iff₀ (by positivity) (by norm_num)]
      have h31 : (2 : ℝ) ^ 31 ≤ 2 ^ 1000 := pow_le_pow_right₀ (by norm_num) (by norm_num)
      generalize (2 : ℝ) ^ 1000 = b at *
      norm_num at *
      linarith
    have := abs_le.mp (h.trans hs)
    constructor <;> linarith
  refine ⟨by linarith, ⟨0x3F96B55F, fun u h => ?_⟩, .inr fun u h => ?_⟩
  · have := hn u h
    refine rounds_near (by decide) (by decide) (by decide) (by decide) (by decide) ?_ (by linarith) (by linarith)
    rw [hX, abs_lt]
    constructor <;> norm_num <;> linarith
  · have := hn u h
    rw [abs_of_pos (by linarith), show fBias 2 = 15 from rfl]
    norm_num; linarith

/-- R157: the exponential of 2^127 overflows FP32 however it is rounded. -/
theorem exp_value : Decided 0 (Real.exp (valueOf 0 0x7F000000 : ℚ)) := by
  have hX : ((valueOf 0 0x7F000000 : ℚ) : ℝ) = 2 ^ 127 := by
    rw [valueOf_f32]; norm_num [fExp, fFrac, fNeg, fMant, fWidth]
  rw [hX]
  have hb : (2 : ℝ) ^ 200 ≤ Real.exp (2 ^ 127) := by
    have := Real.quadratic_le_exp_of_nonneg (show (0 : ℝ) ≤ 2 ^ 127 by positivity)
    refine le_trans ?_ this
    norm_num
  generalize Real.exp (2 ^ 127) = v at *
  have hn (u : ℝ) (h : |u - v| ≤ |v| / 2 ^ 1000) : (2 : ℝ) ^ 128 ≤ u := by
    have hv : (0 : ℝ) < v := lt_of_lt_of_le (by positivity) hb
    rw [abs_of_pos hv] at h
    have hs : v / 2 ^ 1000 ≤ v / 2 := by
      have h1 : (2 : ℝ) ^ 1 ≤ 2 ^ 1000 := pow_le_pow_right₀ (by norm_num) (by norm_num)
      exact div_le_div_of_nonneg_left hv.le (by norm_num) (by rw [pow_one] at h1; exact h1)
    have := (abs_le.mp (h.trans hs)).1
    have : (2 : ℝ) ^ 128 ≤ 2 ^ 200 / 2 := by norm_num
    linarith
  have h0 : (0 : ℝ) < 2 ^ 128 := by positivity
  refine ⟨⟨infOf 0 False, fun u h => ⟨flagOF ||| flagNX, fun _ => ⟨rfl, fun _ => rfl, fun h' => ?_⟩, fun h' => absurd ?_ h'⟩⟩, .inr fun u h => ?_⟩
  · have := hn u h; linarith
  · have := hn u h
    unfold Overflows
    rw [if_pos rfl, abs_of_pos (by linarith), show fBias 0 = 127 from rfl, show fMant 0 = 23 from rfl]
    have : (0 : ℝ) ≤ 2 ^ (127 + 1) / 2 ^ (23 + 2) := by positivity
    linarith
  · have := hn u h
    rw [abs_of_pos (by linarith), show fBias 0 = 127 from rfl]
    have : (2 : ℝ) ^ (1 - (127 : ℕ) : ℤ) ≤ 2 ^ (128 : ℤ) := zpow_le_zpow_right₀ (by norm_num) (by norm_num)
    have h2 : (2 : ℝ) ^ (128 : ℤ) = 2 ^ 128 := by norm_cast
    linarith

/-- FP32 values of every kind that the clauses name: 1, 2 and −1, the zeros, an infinity and a NaN. -/
theorem witness_ArithmeticRoundsOnce : (Finite 0 0x3F800000 ∧ Finite 0 0xBF800000 ∧ Finite 0 0 ∧ IsInf 0 0xFF800000 ∧ IsNaN 0 0x7FC00000 ∧ ¬IsNaN 0 0) ∧
    (valueOf 0 0x3F800000 = 1 ∧ valueOf 0 0x40000000 = 2 ∧ valueOf 0 0xBF800000 = -1 ∧ valueOf 0 0 = 0 ∧ valueOf 0 0x80000000 = 0) ∧
    ((1 : ℝ) + 2 ≠ 0 ∧ (1 : ℝ) + -1 = 0 ∧ (1 : ℝ) - 2 ≠ 0 ∧ (1 : ℝ) - 1 = 0 ∧ (1 : ℝ) * 2 ≠ 0 ∧ (1 : ℝ) * 0 = 0 ∧ (1 : ℝ) * 2 + -1 ≠ 0 ∧ (1 : ℝ) * -1 + 1 = 0) ∧
    (fMag 0 0x80000000 = 0 ∧ fMag 0 0x3F800000 ≠ 0 ∧ fNeg 0 0xFF800000) := by
  refine ⟨by decide, ?_, by norm_num, by decide⟩
  norm_num [valueOf, fBias, fExp, fFrac, fNeg, fMant, fWidth]

/-- Sources of every kind: NaN, infinity, zero and other values, IEEE and tapered, with a scale byte of 0xFF and with others; integers; and integers
that v rounds to inside a range and outside it. -/
theorem witness_ConversionsRoundOnce : ((fpuInstr .cvt 4 3).wf = true ∧ (fpuInstr .cvti 7 0).wf = true ∧ (fpuInstr .cvtf 0 2).wf = true) ∧
    (¬RecordRefused 0x11 false ∧ ¬RecordRefused 5 true) ∧
    (ElemNaN 0 0x7FC00000 ∧ ElemNaN 3 0x80 ∧ ElemInf 2 0x7C00 ∧ ¬ElemNaN 3 0x48 ∧ ¬ElemInf 3 0x48 ∧ (255 : Nat) < 256 ∧ 0x11 / 2 ^ 4 % 2 = 1) ∧
    (elemValue 3 0x48 = 3 / 2 ∧ elemValue 3 0xC8 = -(3 / 2) ∧ elemValue 4 0 = 0 ∧ elemValue 3 0x7F = 4096) ∧
    (opOf 3 0xFF = -1 ∧ opOf 7 0xFF = 255 ∧ opOf 7 0 = 0 ∧ highest 3 < 4096 ∧ (-4096 : ℤ) < lowest 3 ∧ lowest 3 ≤ 2 ∧ (2 : ℤ) ≤ highest 3) ∧
    IntegralTo 0 (3 / 2) 2 ∧ IntegralTo 0 4096 4096 ∧ IntegralTo 0 (-4096) (-4096) := by
  refine ⟨by decide, by unfold RecordRefused; decide, by decide, ?_, by decide, ?_, ?_, ?_⟩
  · have h : taperedRun 7 0x48 = 1 ∧ taperedRun 7 0x7F = 7 := by decide
    have h3 : ¬(3 : BitVec 3).toNat < 3 ∧ ¬(4 : BitVec 3).toNat < 3 := by decide
    norm_num only [elemValue, if_neg h3.1, if_neg h3.2]
    norm_num [taperedMagnitude, h, taperedBits]
  all_goals (unfold IntegralTo; norm_num [abs_of_pos, abs_of_neg])

/-- Lists without and with a NaN, of zeros alone and of other values; pairs that are valid and not. -/
theorem witness_BlockFloatValues :
    ((∀ x ∈ [0, 0x80000000, 0x3F800000], x < 2 ^ fWidth 0) ∧ (∀ x ∈ [0, 0x3F800000], ¬ExpOnes 0 x) ∧ (∃ x ∈ [0, 0x3F800000], fMag 0 x ≠ 0) ∧
      (∀ x ∈ [0, 0x80000000], fMag 0 x = 0) ∧ (∃ x ∈ [0, 0x7F800000], ExpOnes 0 x) ∧ (∃ x ∈ [0x7FC00000], IsNaN 0 x) ∧ ([0] : List Nat) ≠ []) ∧
    (|(2 : ℤ) ^ 63 - 1| ≤ 2 ^ 63 ∧ |(-2 : ℤ) ^ 31| ≤ 2 ^ 31 ∧ (-20 : ℤ) ≠ -2 ^ 31 ∧ (3 : ℤ) ≠ 0 ∧ (4 : BitVec 3).toNat < 5) := by
  refine ⟨by decide, by norm_num, by norm_num, by norm_num, by norm_num, by decide⟩

/-- The points that the table of R157 names, and values between them. -/
theorem witness_ApproximationsAtTheirSpecialPoints : (0xFF800001 < 2 ^ fWidth 0 ∧ IsNaN 0 0xFF800001 ∧ fMag 0 0x80000000 = 0 ∧ fNeg 0 0xBF800000 ∧
      fMag 0 0xBF800000 ≠ 0 ∧ ¬IsNaN 0 0xBF800000 ∧ Finite 0 0x40400000 ∧ (2 : BitVec 3).toNat < 3) ∧
    (0x3F800000 = fBias 0 * 2 ^ fMant 0 ∧ 0x7F800000 = infOf 0 False ∧ 0xFF800000 = infOf 0 True) ∧ valueOf 0 0x40400000 = 3 := by
  refine ⟨by decide, by decide, ?_⟩
  norm_num [valueOf, fBias, fExp, fFrac, fNeg, fMant, fWidth]

/-- R157, R167: the lanes whose values the two theorems above are about. -/
theorem witness_ApproximationsAreTheRoundedValue :
    (Finite 0 0x7F000000 ∧ fMag 0 0x7F000000 ≠ 0 ∧ Decided 0 (Real.exp (valueOf 0 0x7F000000 : ℚ))) ∧
    (let block := 32767
     let ua : ℝ := ((laneOf (fWidth 2) block (0 / 2 * 2) : ℕ) + 1) / 2 ^ fWidth 2
     let ub : ℝ := (laneOf (fWidth 2) block (0 / 2 * 2 + 1) : ℕ) / 2 ^ fWidth 2
     let v := Real.sqrt (-2 * Real.log ua) * Real.cos (2 * Real.pi * ub)
     0 < 1024 / fWidth 2 ∧ v ≠ 0 ∧ Decided 2 v) := by
  refine ⟨⟨by decide, by decide, exp_value⟩, ?_⟩
  have ha : laneOf (fWidth 2) 32767 (0 / 2 * 2) = 32767 := by decide
  have hb : laneOf (fWidth 2) 32767 (0 / 2 * 2 + 1) = 0 := by decide
  have hw : fWidth 2 = 16 := by decide
  intro block ua ub v
  have hua : ua = (32767 + 1 : ℝ) / 2 ^ 16 := by
    show ((laneOf (fWidth 2) 32767 (0 / 2 * 2) : ℕ) + 1 : ℝ) / 2 ^ fWidth 2 = _
    rw [ha, hw]; norm_cast
  have hub : ub = 0 / 2 ^ 16 := by
    show ((laneOf (fWidth 2) 32767 (0 / 2 * 2 + 1) : ℕ) : ℝ) / 2 ^ fWidth 2 = _
    rw [hb, hw]; norm_cast
  have hv : v = Real.sqrt (-2 * Real.log ua) * Real.cos (2 * Real.pi * ub) := rfl
  rw [hv, hua, hub]
  exact ⟨by decide, norm_value⟩

/-! ## Witnesses: scratchpad and commons (chapters 04, 05 and 06) -/

/-- The conditions of `Unordered` as a check. -/
def unorderedCheck (s : State) : Bool :=
  (me s).ops == [] && (me s).sb == [] && decide (∀ u ∈ (s.ctx s.cur.vt.ctx).bankOps, u.rank ≠ s.cur.vt.rank) &&
  decide (∀ c ∈ (myVt s).copies, c.slot = s.cur.slot.val → c.finished = false → (me s).barFenceDo ≤ c.fid ∧ (me s).barRelDo ≤ c.fid) &&
  (myVt s).outq == [] && decide (∀ k : Fin 8, ∀ f ∈ (s.slot ⟨s.cur.vt, k⟩).ops, f.performed = false → (s.slot ⟨s.cur.vt, k⟩).stopId ≤ f.id)

theorem unordered_of {s : State} (h : unorderedCheck s = true) : Unordered s := by
  simp only [unorderedCheck, Bool.and_eq_true, beq_iff_eq, decide_eq_true_eq] at h
  obtain ⟨⟨⟨⟨⟨a, b⟩, c⟩, d⟩, e⟩, f⟩ := h
  exact ⟨⟨a, b⟩, c, d, fun m hm => (by rw [show (s.vt s.cur.vt).outq = [] from e] at hm; cases hm), f⟩

def cleanCheck (s : State) : Bool :=
  s.hasVt s.cur.vt && unorderedCheck s && (myVt s).spOut == [] && (myVt s).marks == [] && (myVt s).sp.wf && decide ((myVt s).fe.Pairwise (· < ·))

theorem clean_of {s : State} (h : cleanCheck s = true) : Clean s := by
  simp only [cleanCheck, Bool.and_eq_true, beq_iff_eq, decide_eq_true_eq] at h
  obtain ⟨⟨⟨⟨⟨a, b⟩, d⟩, e⟩, f⟩, g⟩ := h
  exact ⟨a, unordered_of b, d, e, f, g⟩

/-- A vtile whose last word is full, with a port store of 144 bytes at 0x1000, and addresses in the latches of LSU and VEC. -/
def memAt (ea nb : VWord) : State :=
  (onVt (fun t => { t with fe := [0x7FFFF], sp := [(0, 1)], psBase := 0x1000, psSize := 144 })).modSlot s0 (fun sl =>
    { sl with lat := (sl.lat.put .lsu ⟨ea, 7, 0, 0, 0⟩).put .vec ⟨ea, 7, nb, 0, 0⟩ })

/-- R118, R121: the last word, full; word 0, empty; one byte past the end, and an address that is not aligned. -/
theorem witness_LoadsReadTheScratchpad : Clean (memAt 0x3FFFF8 8) ∧ Full (memAt 0x3FFFF8 8) 0x3FFFF8 ∧ ¬Full (memAt 0 8) 0 ∧ SpOk 0x3FFFF8 8 ∧
    SpOk 0x3FFFFF 1 ∧ 0x400000 < 0x3FFFF9 + 8 ∧ 0x400000 ≤ 0x400000 ∧ (4 + 8 ≤ 0x400000 ∧ 4 % 8 ≠ 0) ∧
    ((me (memAt 0x3FFFF8 8)).lat.lsu.a.toNat = 0x3FFFF8) :=
  ⟨clean_of (by decide +kernel), by show _ = true; decide +kernel, by show ¬(_ = true); decide +kernel, by unfold SpOk; decide,
    by unfold SpOk; decide, by decide, by decide, by decide, by decide +kernel⟩

/-- R160, R162: the last 8 bytes, full; 128 bytes from 0 for NB = 0, not full; past the end; not aligned. -/
theorem witness_VectorLoads : Clean (memAt 0x3FFFF8 8) ∧ (∀ a, 0x3FFFF8 ≤ a → a < 0x3FFFF8 + 8 → (memAt 0x3FFFF8 8).feGet v0 a = true) ∧
    ¬(∀ a, 0 ≤ a → a < 0 + 128 → (memAt 0 0).feGet v0 a = true) ∧ (0x3FFFF8 + 8 ≤ 0x400000 ∧ 0x3FFFF8 % 8 = 0) ∧ 0x400000 < 0x3FFFF8 + 9 ∧
    4 % 8 ≠ 0 := by
  refine ⟨clean_of (by decide +kernel), ?_, ?_, by decide, by decide, by decide⟩
  · intro a h1 h2
    obtain ⟨k, rfl⟩ := Nat.exists_eq_add_of_le h1
    have : (List.range 8).all (fun k => (memAt 0x3FFFF8 8).feGet v0 (0x3FFFF8 + k)) = true := by decide +kernel
    exact List.all_eq_true.mp this k (List.mem_range.mpr (by omega))
  · intro h
    exact absurd (h 0 (by decide) (by decide)) (by decide +kernel)

theorem offPorts_of {t : Vtile} {a n : Nat} (h : t.psSize = 0 ∨ a + n ≤ t.psBase ∨ t.psBase + t.psSize ≤ a) : OffPorts t a n := h

/-- R207: a store that ends where the port store begins, and one that overlaps its last byte; R222: the last word of a partition, and past it. -/
theorem witness_StoresGoThroughTheBuffer : Clean (memAt 0xFF8 8) ∧ OffPorts (myVt (memAt 0xFF8 8)) 0xFF8 8 ∧
    ¬OffPorts (myVt (memAt 0x1088 8)) 0x1088 8 ∧ SpOk 0xFF8 8 ∧ SpOk 0x1088 8 ∧
    (let s := (memAt 0xFFFF8 8).inCtx 0 (fun c => { c with desc := { c.desc with cpsize := 1 } })
     let size := (s.ctx 0).desc.cpsize * 2 ^ 20
     0xFFFF8 + 8 ≤ size ∧ 0xFFFF8 % 8 = 0 ∧ size < 0xFFFF9 + 8 ∧ 0xFFFF4 % 8 ≠ 0 ∧ 0xFFFF4 + 8 ≤ size) :=
  ⟨clean_of (by decide +kernel), offPorts_of (by decide +kernel), by unfold OffPorts; decide +kernel, by unfold SpOk; decide, by unfold SpOk; decide,
    by decide +kernel⟩

/-- Two stores in the buffer. -/
def buffered (k : SbKind) (addr n : Nat) : State := onSlot (fun sl => { sl with sb := [stored k addr n, stored .st 0 8] })

/-- R124, R161: a store, and a vst whose bytes go past a word. -/
theorem witness_TheBufferPerformsItsOldestStore :
    ((buffered .vst 6 16).active v0 = true ∧ ((buffered .vst 6 16).slot s0).sb = [stored .vst 6 16, stored .st 0 8] ∧
      0 < (stored .vst 6 16).n ∧ ((buffered .vst 6 16).slot s0).unperformed = [] ∧ ((buffered .vst 6 16).ctx 0).bankOps = [] ∧ ((buffered .vst 6 16).vt v0).spOut = [] ∧
      ((buffered .vst 6 16).vt v0).sp.wf = true ∧ min 16 (8 - 6 % 8) < 16) ∧ FeSorted ((buffered .vst 6 16).vt v0) ∧
    (stored .stFill 0x3FFFF8 8).kind ∈ [SbKind.st, .stFill, .vst] :=
  ⟨by decide +kernel, by unfold FeSorted; decide +kernel, by decide⟩

theorem witness_AtomicsReadAndWriteInOneStep : atomicInstr .aCas 5 = some (.lsuACas 5) ∧ Instr.wf (.lsuACas 5) = true ∧
    Clean (memAt 0x3FFFFC 8) ∧ SpOk 0x3FFFFC 4 ∧ OffPorts (myVt (memAt 0x3FFFFC 8)) 0x3FFFFC 4 ∧ ¬OffPorts (myVt (memAt 0x1000 8)) 0x1000 4 ∧
    (0x400000 < 0x3FFFFD + 4 ∧ 2 % 4 ≠ 0) :=
  ⟨rfl, by decide, clean_of (by decide +kernel), by unfold SpOk; decide, offPorts_of (by decide +kernel), by unfold OffPorts; decide +kernel, by decide⟩

/-- An operation on its way to its bank, for operation 9 of slot 0. -/
def onItsWay (op : LsuOp) : BankOp :=
  { id := 4, rank := 0, slot := 0, fser := 0, fid := 9, op := op, mod := 0, ea := 32, b := 1, c := 0, oseq := 0, ix := 0, tag := none }

/-- A copy under way. -/
def aCopy (op : CpeOp) (desc : Nat) (idxSegs segs : List Seg) : Copy :=
  { cseq := 5, op := op, desc := desc, descAddr := 0, batch := 0, slot := 0, fid := 0, ix := 0, mseq := 0, tag := none, idxBytes := [], idxSegs := idxSegs,
    segs := segs, cutRow := none, spoiled := [], status := 0, finished := false, missSent := false, dlSent := false }

/-- A slot with a load that has not been performed, a store in its buffer, an operation at a bank and a store by copy. -/
def pendingAccesses : State := ((onSlot (fun sl =>
  { sl with ops := [flight (.lsu .ldWf) 3 1 false none], sb := [{ stored .st 0 8 with id := 4 }], nextId := 10, barFence := 10 })).modVt v0 (fun t =>
    { t with copies := [aCopy .store 0 [] []] })).inCtx 0 (fun c => { c with bankOps := [onItsWay .cSt] })

theorem witness_FencesOrderTheSlotsAccesses : (4 : BitVec 3).toNat < 5 ∧ Present pendingAccesses ∧ Room pendingAccesses ∧
    CopiesPastFences pendingAccesses s0 ∧
    ((∀ f ∈ (me pendingAccesses).ops, f.id < (me pendingAccesses).nextId) ∧ (∀ e ∈ (me pendingAccesses).sb, e.id < (me pendingAccesses).nextId) ∧
      (∀ u ∈ (pendingAccesses.ctx 0).bankOps, u.rank = 0 ∧ u.slot = 0 ∧ u.fid < (me pendingAccesses).nextId ∧ (myVt pendingAccesses).stopAt ≤ u.id) ∧
      (∀ c ∈ (myVt pendingAccesses).copies, c.slot = 0 ∧ c.finished = false ∧ c.op = .store ∧ c.fid < (me pendingAccesses).nextId) ∧
      (me pendingAccesses).unperformed ≠ [] ∧ pendingAccesses.heldBack s0 true = true ∧ pendingAccesses.heldBack s0 false = true ∧
      (me demo).ops = [] ∧ (me demo).sb = [] ∧ (demo.ctx 0).bankOps = [] ∧ (myVt demo).copies = []) :=
  ⟨by decide, by unfold Present; decide +kernel, room_of (by decide +kernel), by unfold CopiesPastFences; decide +kernel, by decide +kernel⟩

/-- A commons partition of one MiB, with bytes at 32. -/
def commons1 (f : Ctx → Ctx := fun c => c) : State :=
  onCtx (fun c => f { c with desc := { c.desc with cpsize := 1 }, commons := [(32, 2), (40, 0)].filter (fun p => p.2 != 0) })

def atBank (op : LsuOp) : State :=
  (commons1 (fun c => { c with bankOps := [onItsWay op] })).modSlot s0 (fun sl => { sl with ops := [flight (.lsu op) 9 1 false none] })

theorem bankTakes_atBank (op : LsuOp) (h : ((atBank op).bankReady 0 (onItsWay op) && (atBank op).hasVt v0) = true)
    (h2 : ((atBank op).ctx 0).bankOps.find? (fun x => x.id == 4) = some (onItsWay op))
    (h3 : ((atBank op).slot s0).fser = 0 ∧ ((atBank op).slot s0).status ≠ .free ∧ ((atBank op).slot s0).sb = [])
    (h4 : ((atBank op).slot s0).ops = [flight (.lsu op) 9 1 false none]) : BankTakes (atBank op) 0 4 (onItsWay op) := by
  simp only [Bool.and_eq_true] at h
  exact ⟨h2, h.1, h.2, h3.1, h3.2.1, h3.2.2, _, h4 ▸ List.mem_singleton_self _, rfl⟩

theorem lineSound_atBank (op : LsuOp) (h : setHas ((atBank op).ctx 0).condemned (32 / 64) = false ∧ Tbl.find? ((atBank op).ctx 0).cmarks (32 / 64) = none ∧
    Tbl.getD ((atBank op).ctx 0).versions (lineOf (atBank op) 0 32) 0 < 2 ^ 56 - 1 ∧ ((atBank op).ctx 0).commons.wf = true) : LineSound (atBank op) 0 32 := h

theorem witness_CommonsOperationsAreAppliedAtTheirBank :
    (commonsInstr .cAddO 6 = some (.lsuCAddO 6) ∧ Instr.wf (.lsuCAddO 6) = true ∧ Present (commons1) ∧ Unordered commons1 ∧
      0xFFFFC + commonsSize .cAddO 6 = (commons1.ctx 0).desc.cpsize * 2 ^ 20) ∧
    (BankTakes (atBank .cAddU) 0 4 (onItsWay .cAddU) ∧ LineSound (atBank .cAddU) 0 32 ∧ ((atBank .cAddU).ctx 0).wtags = [] ∧
      ((atBank .cAddU).ctx 0).holding = []) ∧
    (BankTakes (atBank .cSwapO) 0 4 (onItsWay .cSwapO) ∧ ((atBank .cSwapO).ctx 0).holding.length < 16) ∧
    (BankTakes (atBank .cDecq) 0 4 (onItsWay .cDecq) ∧ LineSound (atBank .cDecq) 0 32 ∧ (onItsWay .cDecq).ea % 32 = 0 ∧
      1 < (BitVec.ofNat 64 (memRead ((atBank .cDecq).ctx 0).commons 32 8)).toInt) :=
  ⟨⟨rfl, by decide, by unfold Present; decide +kernel, unordered_of (by decide +kernel), by decide +kernel⟩,
    ⟨bankTakes_atBank _ (by decide +kernel) (by decide +kernel) (by decide +kernel) (by decide +kernel), lineSound_atBank _ (by decide +kernel),
      by decide +kernel, by decide +kernel⟩,
    ⟨bankTakes_atBank _ (by decide +kernel) (by decide +kernel) (by decide +kernel) (by decide +kernel), by decide +kernel⟩,
    ⟨bankTakes_atBank _ (by decide +kernel) (by decide +kernel) (by decide +kernel) (by decide +kernel), lineSound_atBank _ (by decide +kernel),
      by decide, by decide +kernel⟩⟩

/-! ## Witnesses: what traps record and `tret` takes up (chapter 12) -/

/-- R40: a handle that is not valid; R90: a user slot that reads none of the trap registers. -/
theorem witness_SourcesTrap : privilegedMove [(0, mv (.hAddr 7) (.x 1)), (1, null), (2, null)] = none ∧ (me (withX 0 0 false)).sup = false ∧
    (me (withX 0 0 false)).guard p0 = true ∧
    (match (withX 0 0 false).readSrc (withX 0 0 false).cur (.hAddr 7) with | .trap c w => c == 0x0C && w == 0 | _ => false) = true := by
  decide +kernel

/-- A slot about to trap, with operations under way. -/
def entering (ops : List Flight) : State := (trappable .ready).modSlot s0 (fun sl => { sl with ops := ops })

theorem recorded_of {s : State} {f : Flight} (h : (discarded f.trig ||
    ((f.trig == .lsu .ldWf || f.trig == .lsu .ldTake) && !f.performed && f.res.isNone && decide (0 < reachOf f) &&
      !s.feGet v0 (f.a.toNat % 2 ^ 64)) ||
    (f.unit == .mxq && f.performed && f.res.isNone)) = true) : Recorded s v0 f := by
  simp only [Bool.or_eq_true, Bool.and_eq_true, beq_iff_eq, Bool.not_eq_true', Option.isNone_iff_eq_none, decide_eq_true_eq] at h
  obtain (h | ⟨⟨⟨⟨ht, hp⟩, hr⟩, hn⟩, hf⟩) | ⟨⟨hu, hp⟩, hr⟩ := h
  · exact .inl h
  · exact .inr (.inl ⟨by rcases ht with h | h <;> simp [h], hp, hr, _, le_rfl, by omega, hf⟩)
  · exact .inr (.inr (.inl ⟨hu, hp, hr⟩))

/-- One operation of each kind: a division, a long one of VEC, a load that waits, a matrix command, an update on its way to its bank. -/
def leftOver : List Flight := [flight (.mul .div) 1 1 true (some (givesQ 3)), flight (.vec .exp 0) 2 2 true none,
  flight (.lsu .ldWf) 3 3 false none, flight (.mxq .cmd) 4 4 true none]

theorem witness_TrapEntryRecordsWhatIsUnderWay : (∀ o ∈ leftOver, Recorded (entering leftOver) v0 o) ∧
    Recorded (entering leftOver) v0 (flight (.lsu .cAddU) 5 5 false none) ∧
    ((entering leftOver).hasVt v0 = true ∧ ((entering leftOver).slot s0).status ≠ .trapped ∧ ((entering leftOver).vt v0).spOut = [] ∧
      ((entering leftOver).vt v0).sp.wf = true ∧ ((entering leftOver).slot s0).sb = [] ∧ ((entering leftOver).slot s0).rep.length ≤ 4 ∧
      (leftOver.filter (fun o => trigVecLong o.trig)).length ≤ 4 ∧ ((trappable .ready).slot s0).ops = [] ∧ trigIsCommons (.lsu .cAddU) = true) ∧
    FrameAreaOk ((entering leftOver).vt v0) ∧ TrapHandlerAt ((entering leftOver).vt v0) 37 :=
  ⟨by simp only [leftOver, List.forall_mem_cons, List.not_mem_nil, false_imp_iff, implies_true, and_true]; exact
    ⟨recorded_of (by decide +kernel), recorded_of (by decide +kernel), recorded_of (by decide +kernel), recorded_of (by decide +kernel)⟩, .inr (.inr (.inr ⟨.cAddU, rfl, rfl, rfl, rfl⟩)),
    by decide +kernel, by unfold FrameAreaOk; decide +kernel, by unfold TrapHandlerAt; decide +kernel⟩

/-- A TRAPPED slot for whose record k, the frame's last, a c.ld waits at its bank. -/
def landingAtBank : State := (commons1 (fun c => { c with bankOps := [onItsWay .cLd] })).modSlot s0 (fun sl =>
  { sl with status := .trapped, tframe := 0x3F8000, saved := [(31, flight (.lsu .cLd) 9 1 false none)] })

theorem witness_RecordedOperationsLandInTheirRecords :
    (landingAtBank.ctx 0).bankOps.find? (fun x => x.id == 4) = some (onItsWay .cLd) ∧ landingAtBank.bankReady 0 (onItsWay .cLd) = true ∧
    (landingAtBank.hasVt v0 = true ∧ (landingAtBank.slot s0).fser = 0 ∧ (landingAtBank.slot s0).ops = [] ∧ (landingAtBank.slot s0).sb = [] ∧
      (landingAtBank.slot s0).status = .trapped ∧ 0x3F8000 + 0x6C0 + 32 * 31 + 32 ≤ 0x400000 ∧ (landingAtBank.vt v0).spOut = [] ∧
      (landingAtBank.vt v0).sp.wf = true ∧ Tbl.find? (landingAtBank.ctx 0).wtags (32 / 8) = none ∧ (landingAtBank.ctx 0).holding = []) ∧
    LineSound landingAtBank 0 32 :=
  ⟨by decide +kernel, by decide +kernel, by decide +kernel, by unfold LineSound; decide +kernel⟩

/-- A TRAPPED slot whose frame's record k is VALID, with the bits above, TSEQ 7 and A; the latches were written last at TSEQ 7. -/
def returning (k : Nat) (t : Trig) (bits : Nat) : State :=
  (((trappable .trapped).spWrite v0 (0x3F86C0 + 32 * k) 8
      (unitNum (trigUnit t) + trigOffset t * 2 ^ 4 + 2 ^ 15 + bits * 2 ^ 16 + 7 * 2 ^ 32)).spWrite v0 (0x3F86C8 + 32 * k) 8 0x3FFFF8).modSlot s0 (fun sl =>
    { sl with saved := if bits = 0 then [(k, flight t 9 1 false none)] else [], savedSeq := some (Vector.replicate 13 9, Vector.replicate 13 7, Vector.replicate 13 7) })

/-- Records that landed, that are to be reissued, that waited for a word and that are still under way, at both ends of the frame's. -/
def returns : List (Nat × Trig × Nat) := [(0, .mul .div, 1), (31, .mul .rem, 2), (0, .vec .exp 0, 2), (31, .lsu .ldTake, 4), (0, .lsu .cAddU, 0)]

theorem witness_TretTakesUpTheRecords : (∀ c ∈ returns, Present (returning c.1 c.2.1 c.2.2) ∧ Quiet (me (returning c.1 c.2.1 c.2.2)) ∧
      AllUnitsIn (returning c.1 c.2.1 c.2.2)) ∧
    (∀ c ∈ returns, let s := returning c.1 c.2.1 c.2.2
      let word (j : Nat) : Nat := s.spRead v0 ((me s).tframe.toNat % 2 ^ 22 + 0x6C0 + 32 * j) 8
      (me s).sup = true ∧ (me s).status = .trapped ∧ (∀ j < 32, j ≠ c.1 → (word j).testBit 15 = false) ∧ (word c.1).testBit 15 = true ∧
      word c.1 % 2 ^ 4 = unitNum (trigUnit c.2.1) ∧ word c.1 / 2 ^ 4 % 2 ^ 8 = trigOffset c.2.1 ∧
      trigOfOffset (trigUnit c.2.1) (trigOffset c.2.1) = some c.2.1 ∧ word c.1 / 2 ^ 16 % 8 = c.2.2 ∧ word c.1 / 2 ^ 32 = 7 ∧
      trigModOk c.2.1 (BitVec.ofNat 3 (word c.1 / 2 ^ 12)) = true) ∧
    ((me (returning 0 (.mul .div) 1)).savedSeq = some (Vector.replicate 13 9, Vector.replicate 13 7, Vector.replicate 13 7) ∧
      discarded (.mul .rem) = true ∧ trigVecLong (.vec .exp 0) = true ∧
      0x3FFFF8 + wOf 0 / 8 ≤ 0x400000 ∧ 0x3FFFF8 % (wOf 0 / 8) = 0 ∧ (returning 31 (.lsu .ldTake) 4).feGet v0 0x3FFFF8 = false ∧
      (me (returning 0 (.lsu .cAddU) 0)).saved = [(0, flight (.lsu .cAddU) 9 1 false none)]) :=
  ⟨by unfold Present Quiet AllUnitsIn; decide +kernel, by decide +kernel, by decide +kernel⟩

/-- R349: entry 31 of the handler table is not VALID. -/
theorem witness_NoTrapHandler : (∀ ix, ¬TrapHandlerAt ((onVt (fun t => { t with tfbase := 0x3F8000 })).vt v0) ix) ∧
    FrameAreaOk ((onVt (fun t => { t with tfbase := 0x3F8000 })).vt v0) ∧ Quiet ((onVt (fun t => { t with tfbase := 0x3F8000 })).slot s0) ∧
    ((onVt (fun t => { t with tfbase := 0x3F8000 })).slot s0).status ≠ .trapped := by
  refine ⟨fun ix h => ?_, by unfold FrameAreaOk; decide +kernel, by unfold Quiet; decide +kernel, by decide +kernel⟩
  have h0 : (((onVt (fun t => { t with tfbase := 0x3F8000 })).vt v0).hnds.get 31).getLsbD 54 = false := by decide +kernel
  exact absurd h.1 (by rw [h0]; decide)

/-- A trap entry that has to wait: a unit of the slot's frame is out of the tile. -/
theorem witness_EntriesWait : EntersAtOnce (trappable .ready) s0 ∧ ¬EntersAtOnce ((trappable .ready).modVt v0 (fun t => { t with spOut := [508] })) s0 := by
  have h1 : ((trappable .ready).vt v0).spOut = [] ∧ ((trappable .ready).slot s0).sb = [] := by decide +kernel
  have h2 : 508 ∈ (((trappable .ready).modVt v0 (fun t => { t with spOut := [508] })).vt v0).spOut ∧
      8192 * 508 < frameOf (((trappable .ready).modVt v0 (fun t => { t with spOut := [508] })).vt v0) 0 + 0xCC0 ∧
      frameOf (((trappable .ready).modVt v0 (fun t => { t with spOut := [508] })).vt v0) 0 < 8192 * 508 + 8192 := by
    unfold frameOf; decide +kernel
  refine ⟨⟨fun h => ?_, fun e he => ?_⟩, fun h => h.1 ⟨508, h2⟩⟩
  · obtain ⟨k, hk, -⟩ := h
    change k ∈ ((trappable .ready).vt v0).spOut at hk
    rw [h1.1] at hk; cases hk
  · rw [h1.2] at he; cases he

/-! ## Witnesses: counters and settling (chapter 07) -/

/-- Counts of 1 and 0 in a record: the other cases of R228. -/
theorem witness_CounterDecrementsAtOneAndZero :
    (BitVec.ofNat 64 (memRead [(32, 1)] 32 8)).toInt = 1 ∧ (BitVec.ofNat 64 (memRead [(40, 1)] 32 8)).toInt ≤ 0 := by decide +kernel

theorem witness_SettlingForgetsTheOrderOfArrival :
    let u (r : Nat) : HeldUpdate := { word := 4, u := { onItsWay .cAddO with rank := r }, pen := none, arrived := 0 }
    [u 1, u 0].Perm [u 0, u 1] ∧ (∀ h ∈ [u 1, u 0], h.word = 4) ∧ ([u 1, u 0].map (fun h => (h.u.rank, h.u.oseq))).Nodup :=
  ⟨List.Perm.swap _ _ _, by decide, by decide⟩
/-! ## Witnesses: what is under way (chapters 01, 04 and 12) -/

/-- Two operations of ALU0 that have not landed, both known: the older one lands first. -/
def twoResults : State := onSlot (fun sl => { sl with
  ops := [flight (.alu false .add) 3 1 true (some (givesQ 7)), flight (.alu false .adds) 4 2 true (some (givesQ 9 ⟨flagSAT, 1⟩))] })

theorem witness_ResultsLandInOrder : twoResults.active v0 = true ∧
    flight (.alu false .add) 3 1 true (some (givesQ 7)) ∈ (twoResults.slot s0).ops ∧ ((twoResults.slot s0).ops.map Flight.id).Nodup ∧
    (∀ o ∈ (twoResults.slot s0).ops, o ≠ flight (.alu false .add) 3 1 true (some (givesQ 7)) → o.unit = .alu0 → 1 < o.tseq) ∧
    (twoResults.slot s0).landedQ.get (unitIndex .alu0) ≤ 1 := by decide +kernel

theorem witness_ReadsWaitForTheLatestTrigger : (∀ f ∈ (me demo).ops, f.unit ≠ .mul) ∧
    (∃ f ∈ (me twoResults).ops, f.unit = .alu0 ∧ (me twoResults).landedQ.get (unitIndex .alu0) ≤ f.tseq) := by decide +kernel

/-- A record that waits, with the last word full. -/
def waiting (t : Trig) : State :=
  (onVt (fun t => { t with fe := [0x7FFFF] })).modSlot s0 (fun sl => { sl with ops := [{ flight t 3 1 false none with a := 0x3FFFF8 }] })

theorem witness_PendingRecordsArePerformed :
    ((waiting (.lsu .ldTake)).active v0 = true ∧ ((waiting (.lsu .ldTake)).slot s0).ops = [{ flight (.lsu .ldTake) 3 1 false none with a := 0x3FFFF8 }] ∧
      ((waiting (.lsu .ldTake)).slot s0).sb = [] ∧ ((waiting (.lsu .ldTake)).vt v0).spOut = [] ∧ ((waiting (.lsu .ldTake)).vt v0).marks = [] ∧
      (waiting (.lsu .ldTake)).feGet v0 0x3FFFF8 = true ∧ 0x3FFFF8 % 8 = 0 ∧ ((waiting (.cpe .cwait)).vt v0).sealed.length ≤ 0x3FFFF8) ∧
    FeSorted ((waiting (.lsu .ldTake)).vt v0) := ⟨by decide +kernel, by unfold FeSorted; decide +kernel⟩

/-- A slot that is parked. -/
def parked (c : ParkCond) (f : Vtile → Vtile := fun t => t) : State := (onSlot (fun sl => { sl with status := .parked, park := some c })).modVt v0 f

theorem wake_pending : WakeCondition (parked (.pending .lsu)) s0 (.pending .lsu) := by
  have h : ((parked (.pending .lsu)).slot s0).ops = [] := by decide +kernel
  intro f hf
  rw [h] at hf
  cases hf

/-- Each thing that a slot waits for, at a point where it has come. -/
theorem witness_ParkedSlotsWake :
    (((parked (.hurdle 15)).slot s0).status = .parked ∧ ((parked (.hurdle 15)).slot s0).park = some (.hurdle 15) ∧
      ((parked (.hurdle 15)).vt v0).loc = .resident ∧ ((parked (.hurdle 15)).vt v0).hold = ⟨false, false⟩) ∧
    WakeCondition (parked (.hurdle 15)) s0 (.hurdle 15) ∧ WakeCondition (parked (.batch 0)) s0 (.batch 0) ∧
    WakeCondition (parked (.aw 0 1)) s0 (.aw 0 1) ∧ WakeCondition (parked (.fe 7) (fun t => { t with fe := [0] })) s0 (.fe 7) ∧
    WakeCondition (parked (.pending .lsu)) s0 (.pending .lsu) ∧ WakeCondition (parked .hold) s0 .hold :=
  ⟨by decide +kernel, by show _ = false; decide +kernel, by show _ ≤ _; decide +kernel, by show _ ≠ _; decide +kernel, by show _ = true; decide +kernel,
    wake_pending, trivial⟩

/-- A tile with 64 supervisor issues behind it and a user slot that may issue. -/
def starved : State :=
  ((State.reset.place aWord).modSlot s0 (fun sl => { sl with sup := false })).modTile 0 (fun t => { t with supRun := 64 })

theorem witness_UserIssuesAreForced : 64 ≤ (starved.tile 0).supRun ∧ (starved.tile 0).forced = false ∧ starved.userEligible 0 = true := by
  decide +kernel

/-! ## Witnesses: the matrix unit (chapter 06) -/

/-- Commands: ACCZ, ACCLD, BLOAD, MMA.o, MMA.g, DRAIN, MXFENCE and MXSTAT on one row and one column. -/
def mxWord (op : Nat) : LineWord := BitVec.ofNat 512 (op + match op with
  | 1 => 2 ^ 128
  | 2 => 2 ^ 128 + 2 ^ 32
  | 3 => 2 ^ 128 + 2 ^ 160 + 2 ^ 20
  | 4 => 5 * 2 ^ 128 + 5 * 2 ^ 160 + 2 ^ 20
  | 5 => 2 ^ 448
  | _ => 0)

def mxCmd (op : Nat) : MxCmd := { c := mxWord op, seq := 0, slot := 0, fser := 0, fid := 9, ix := 0, tag := none }

/-- A vtile with one command queued that slot 0 awaits, and its run. -/
def mxAt (op : Nat) (run : MxRun := .start) (held : Bool := false) : State :=
  (onVt (fun t => { t with mx := { t.mx with queue := [mxCmd op], nextSeq := 1, run := run, held := held } })).modSlot s0 (fun sl =>
    { sl with ops := [flight (.mxq .cmd) 9 1 true none] })

theorem awaited_of (op : Nat) (run : MxRun) (held : Bool) (h : ((mxAt op run held).slot s0).fser = 0 ∧
    ((mxAt op run held).slot s0).status ≠ .free ∧ ∃ f ∈ ((mxAt op run held).slot s0).ops, f.id = 9) : Awaited (mxAt op run held) v0 (mxCmd op) := h

theorem stands_of {c : LineWord} (h2 : ∀ b < 512, c.getLsbD b = true → cmdUses c b) (h1 : ¬cmdBreaks c 1) (h3 : ¬cmdBreaks c 3)
    (h4 : ¬cmdBreaks c 4) (h5 : ¬cmdBreaks c 5) (h6 : ¬cmdBreaks c 6) (h7 : ¬cmdBreaks c 7) (h8 : ¬cmdBreaks c 8) : CommandStands c := by
  intro n
  match n with
  | 0 => exact id
  | 1 => exact h1
  | 2 =>
    rintro ⟨b, hb, hu⟩
    by_cases h : b < 512
    · exact hu (h2 b h hb)
    · rw [BitVec.getLsbD_of_ge _ _ (by omega)] at hb; cases hb
  | 3 => exact h3
  | 4 => exact h4
  | 5 => exact h5
  | 6 => exact h6
  | 7 => exact h7
  | 8 => exact h8
  | _ + 9 => exact id

/-- MXSTAT to an address, ACCLD from a format, an MMA.o of two formats, DRAIN to a format. -/
def statAt (a : Nat) : LineWord := BitVec.ofNat 512 (7 + a * 2 ^ 64)
def loadOf (f : Nat) : LineWord := BitVec.ofNat 512 (1 + f * 2 ^ 128)
def mmaOf (fa fb k : Nat) : LineWord := BitVec.ofNat 512 (3 + k * 2 ^ 20 + fa * 2 ^ 128 + fb * 2 ^ 160)
def drainOf (f : Nat) : LineWord := BitVec.ofNat 512 (5 + f * 2 ^ 448)

/-- Fields that ACCZ, ACCLD, an MMA, DRAIN and MXSTAT use beside OP. -/
def usedBy (op : Nat) : List (Nat × Nat) := match op with
  | 0 => [(13, 8), (19, 14)]
  | 1 => [(13, 8), (19, 14), (85, 64), (117, 96), (159, 128)]
  | 3 => [(13, 8), (19, 14), (28, 20), (159, 128), (191, 160)]
  | 5 => [(13, 8), (19, 14), (479, 448)]
  | 7 => [(85, 64), (96, 96)]
  | _ => []

theorem uses_of {c : LineWord} (h : ∀ b < 512, c.getLsbD b = true → b ≤ 3 ∨ ∃ r ∈ usedBy (cmdField c 3 0), r.2 ≤ b ∧ b ≤ r.1) :
    ∀ b < 512, c.getLsbD b = true → cmdUses c b := by
  intro b hb hc
  rcases h b hb hc with h | ⟨r, hr, h⟩
  · exact .inl h
  · simp only [cmdUses]
    generalize cmdField c 3 0 = op at hr ⊢
    match op with
    | 0 => exact .inr (.inl ⟨rfl, r, hr, h⟩)
    | 1 => exact .inr (.inr (.inl ⟨rfl, r, hr, h⟩))
    | 3 =>
      refine .inr (.inr (.inr (.inr (.inl ⟨.inl rfl, .inl ?_⟩))))
      simp only [usedBy, List.mem_cons, List.not_mem_nil, or_false] at hr
      rcases hr with rfl | rfl | rfl | rfl | rfl
      · exact ⟨(13, 8), by decide, h⟩
      · exact ⟨(19, 14), by decide, h⟩
      · exact ⟨(28, 20), by decide, h⟩
      · exact ⟨(159, 128), by decide, h⟩
      · exact ⟨(191, 160), by decide, h⟩
    | 5 =>
      refine .inr (.inr (.inr (.inr (.inr (.inl ⟨rfl, r, ?_, h⟩)))))
      simp only [usedBy, List.mem_cons, List.not_mem_nil, or_false] at hr
      rcases hr with rfl | rfl | rfl <;> decide
    | 7 => exact .inr (.inr (.inr (.inr (.inr (.inr (.inr ⟨rfl, r, hr, h⟩))))))
    | 2 | 4 | 6 => exact absurd hr List.not_mem_nil
    | _ + 8 => exact absurd hr List.not_mem_nil

theorem stands_statAt : CommandStands (statAt 0x3FFFC1) ∧ CommandStands (statAt 0x20) := by
  constructor <;> refine stands_of (uses_of (by decide +kernel)) ?_ ?_ ?_ ?_ ?_ ?_ ?_ <;> simp only [cmdBreaks] <;> decide +kernel
theorem stands_formats : CommandStands (loadOf 4) ∧ CommandStands (mmaOf 1 6 1) ∧ CommandStands (drainOf 6) := by
  refine ⟨?_, ?_, ?_⟩ <;> refine stands_of (uses_of (by decide +kernel)) ?_ ?_ ?_ ?_ ?_ ?_ ?_ <;> simp only [cmdBreaks] <;> decide +kernel
theorem stands_accz : CommandStands (mxWord 0) := by
  refine stands_of (uses_of (by decide +kernel)) ?_ ?_ ?_ ?_ ?_ ?_ ?_ <;> simp only [cmdBreaks] <;> decide +kernel

theorem formats_stand {c : LineWord} (hs : CommandStands c) (h : cmdField c 3 0 = 0 ∨ cmdField c 3 0 = 7) : FormatsStand c := by
  refine ⟨hs, ?_, ?_, ?_⟩ <;> simp only [cmdRefusesA, cmdRefusesB, cmdRefusesC, cmdDrains] <;> omega

theorem accepted_accz : CommandAccepted (mxWord 0) := by
  have h0 : cmdField (mxWord 0) 3 0 = 0 := by decide +kernel
  refine ⟨⟨formats_stand stands_accz (.inl h0), fun a n h => ?_⟩, fun b p m h => ?_⟩
  · simp only [cmdRuns, cmdDrains, h0] at h
    omega
  · simp only [cmdAligned, cmdDrains, h0] at h
    omega

/-- R177 step 1: no condition and the first; step 2: A, B and C refused; step 3: the status record past the scratchpad, and one that is not on 64
bytes; a queue of 15 and of 16. -/
theorem witness_MatrixCommandPort : Present demo ∧ Unordered demo ∧ Room demo ∧ CommandAccepted (mxWord 0) ∧
    ((myVt demo).mx.queue.length < 16 ∧
      16 ≤ (myVt (onVt (fun t => { t with mx := { t.mx with queue := List.replicate 16 (mxCmd 0) } }))).mx.queue.length) ∧
    (cmdBreaks (BitVec.ofNat 512 8) 1 ∧ ∀ k < 1, ¬cmdBreaks (BitVec.ofNat 512 8) k) ∧
    (cmdRefusesA (loadOf 4) ∧ ¬cmdRefusesA (mmaOf 1 6 1) ∧ cmdRefusesB (mmaOf 1 6 1) ∧ ¬cmdRefusesA (drainOf 6) ∧ ¬cmdRefusesB (drainOf 6) ∧
      cmdRefusesC (drainOf 6)) ∧
    (FormatsStand (statAt 0x3FFFC1) ∧ ∃ a n, cmdRuns (statAt 0x3FFFC1) a n ∧ 0x400000 < a + n) ∧
    (RunsStand (statAt 0x20) ∧ ∃ b p m, cmdAligned (statAt 0x20) b p m ∧ (b % m ≠ 0 ∨ p % m ≠ 0)) := by
  have h7 : cmdField (statAt 0x3FFFC1) 3 0 = 7 ∧ cmdField (statAt 0x20) 3 0 = 7 ∧ cmdField (statAt 0x3FFFC1) 85 64 = 0x3FFFC1 ∧
      cmdField (statAt 0x20) 85 64 = 0x20 := by decide +kernel
  refine ⟨present_demo, unordered_of (by decide +kernel), room_of (by decide +kernel), accepted_accz, by decide +kernel, ⟨?_, ?_⟩, ?_, ?_, ?_⟩
  · simp only [cmdBreaks]; decide +kernel
  · intro k hk; interval_cases k; exact id
  · refine ⟨?_, ?_, ?_, ?_, ?_, ?_⟩ <;> simp only [cmdRefusesA, cmdRefusesB, cmdRefusesC, cmdDrains, OperandRefuses] <;> decide +kernel
  · exact ⟨formats_stand stands_statAt.1 (.inr h7.1), 0x3FFFC1, 64, by simp [cmdRuns, cmdDrains, h7], by decide⟩
  · refine ⟨⟨formats_stand stands_statAt.2 (.inr h7.2.1), fun a n h => ?_⟩, 0x20, 0, 64, by simp [cmdAligned, cmdDrains, h7], by decide⟩
    simp only [cmdRuns, cmdDrains, h7] at h
    omega

/-- R193: a queue that is not held; one held with no command running, and one that a command runs in, alone and before another. -/
theorem witness_MatrixHoldsAreReleased :
    ((mxAt 0).vt v0).mx.held = false ∧
    (Awaited (mxAt 0 .start true) v0 (mxCmd 0) ∧ (mxAt 0 .start true).hasVt v0 = true ∧ ((mxAt 0 .start true).vt v0).mx.held = true ∧
      ((mxAt 0 .start true).vt v0).mx.run.started = false ∧ ((mxAt 0 .start true).vt v0).mx.queue = [mxCmd 0]) ∧
    (let s := mxAt 3 { MxRun.start with started := true } true
     (s.vt v0).mx.held = true ∧ (s.vt v0).mx.run.started = true ∧ (s.vt v0).mx.queue.length ≤ 1 ∧
     (let q := (s.modVt v0 (fun t => { t with mx := { t.mx with queue := [mxCmd 3, mxCmd 0] } })); (q.vt v0).mx.queue = mxCmd 3 :: [mxCmd 0])) :=
  ⟨by decide +kernel, ⟨awaited_of _ _ _ (by decide +kernel), by decide +kernel⟩, by decide +kernel⟩

theorem matrixTurn_mxAt (op : Nat) (run : MxRun) (hop : (mxCmd op).c.toNat % 2 ^ 4 = op) (hr : Tbl.sorted run.words = true ∧ ∀ p ∈ run.words, p.2.2 = false)
    (hs : let s := mxAt op run
      let sl := s.slot s0
      (s.vt v0).mx.queue = [mxCmd op] ∧ s.running v0 = true ∧ (s.vt v0).mx.held = false ∧ sl.sb = [] ∧
      (∀ f ∈ sl.ops, trigIsMemory f.trig = true → f.performed = true) ∧ (s.ctx v0.ctx).bankOps = [] ∧ (s.vt v0).spOut = [] ∧ (s.vt v0).mx.bsOut = [] ∧
      (s.vt v0).mx.run.words = run.words ∧ (s.vt v0).outq = []) : MatrixTurn (mxAt op run) v0 op (mxCmd op) := by
  obtain ⟨a, b, c, d, e, f, g, h, k, l⟩ := hs
  refine ⟨by rw [a]; rfl, hop, b, c, d, e, ?_, ?_, ?_, g, h, by rw [k]; exact hr.1, by rw [k]; exact hr.2⟩
  · intro u hu; rw [f] at hu; cases hu
  · intro m hm; rw [l] at hm; cases hm
  · intro x hx; rw [a] at hx; rw [List.mem_singleton.mp hx]; rfl

/-- Each command at the head, before its first step; an MMA that has its scales, and whose rows have been read in part. -/
theorem witness_MatrixTurns : (∀ op < 8, MatrixTurn (mxAt op) v0 op (mxCmd op)) ∧
    MatrixTurn (mxAt 3 { MxRun.start with started := true, words := [(7, (5, false))] }) v0 3 (mxCmd 3) := by
  refine ⟨fun op h => ?_, matrixTurn_mxAt _ _ (by decide +kernel) (by decide) (by decide +kernel)⟩
  interval_cases op <;> exact matrixTurn_mxAt _ _ (by decide +kernel) (by decide) (by decide +kernel)

theorem witness_MatrixCommandsTakeTheirSteps : (∀ op < 8, Awaited (mxAt op) v0 (mxCmd op)) ∧
    (Tbl.sorted ((mxAt 0).vt v0).mx.acc = true ∧ ((mxAt 0).vt v0).mx.run = .start ∧ ((mxAt 1).vt v0).marks = [] ∧
      ((mxAt 1).vt v0).mx.run.pos < 1 ∧ ((mxAt 2).vt v0).mx.bstore.wf = true ∧ mxFormatBad (mxWord 2) = none ∧ (mxWord 2).getLsbD 215 = false ∧
      0 + rowBytes .fp32 1 ≤ 131072 ∧ ((mxAt 3).vt v0).mx.bpoison = [] ∧ (mxWord 3).getLsbD 132 = false ∧ ((mxAt 4).vt v0).mx.atag = [] ∧
      (mxWord 5).getLsbD 483 = false ∧ mxCheck (mxWord 5) = none ∧ ((mxAt 5).vt v0).sp.wf = true) ∧
    FeSorted ((mxAt 5).vt v0) ∧ BstoreFresh (mxAt 2) v0 := by
  refine ⟨?_, by decide +kernel, by unfold FeSorted; decide +kernel, ?_⟩
  · unfold Awaited; decide +kernel
  · intro l
    rw [show ((mxAt 2).tile ((mxAt 2).vt v0).site).bver = [] by decide +kernel]
    exact (by decide : 0 < 2 ^ 56 - 1)

/-- The later steps: an MMA that has its scales; a BLOAD from rim memory before its split and after its segments; an MXFENCE on a full word. -/
theorem witness_MatrixLaterSteps :
    (let s := mxAt 3 { MxRun.start with started := true }
     (s.vt v0).mx.run.started = true ∧ (s.vt v0).mx.run.draining = false ∧ (s.vt v0).mx.run.pos < 1) ∧
    (let c := BitVec.ofNat 512 ((mxWord 2).toNat + 2 ^ 215); c.getLsbD 215 = true ∧ c.toNat % 2 ^ 4 = 2) ∧
    (let c := BitVec.ofNat 512 (6 + 2 * 2 ^ 96); c.toNat / 2 ^ 96 % 4 = 2 ∧ (onVt (fun t => { t with fe := [0] })).feGet v0 0 = true) := by
  decide +kernel

/-! ## Witnesses: copies (chapter 07) -/

/-- A descriptor at 0: 8 bytes at local address 64, and one row where rows count. -/
def descOf (op : CpeOp) : Nat := 8 * 2 ^ 160 + 64 * 2 ^ 128 + (if op = .muster ∨ op = .scatter then 2 ^ 224 else 0)

def withDesc (d : Nat) : State := demo.spWrite v0 0 32 d

def copyOps : List CpeOp := [.send, .read, .store, .muster, .scatter]

theorem descBits : ∀ op ∈ copyOps, ∀ k < 256, (descOf op).testBit k = true → k = 134 ∨ k = 163 ∨ k = 224 ∧ (op = .muster ∨ op = .scatter) := by
  decide +kernel

theorem descStands (op : CpeOp) (hop : op ∈ copyOps) (n : Nat) (hn : 0 < n) : ¬DescBreaks op n (descOf op) := by
  have hv : ∀ op ∈ copyOps, descOf op < 2 ^ 256 ∧ descOf op / 2 ^ 160 % 2 ^ 23 = 8 ∧ descOf op / 2 ^ 24 % 2 ^ 24 = 0 ∧ descOf op % 2 ^ 22 = 0 ∧
      (descOf op).testBit 223 = false ∧ (op ∈ [CpeOp.muster, .scatter] → descOf op / 2 ^ 224 % 2 ^ 16 = 1) := by decide
  obtain ⟨h1, h2, h3, h4, h5, h6⟩ := hv op hop
  rintro (⟨k, hk, hu⟩ | h | h | ⟨h, h'⟩ | ⟨h, -⟩ | ⟨-, h⟩ | ⟨-, h⟩)
  · have hk' : k < 256 := by
      by_contra hc
      rw [Nat.testBit_lt_two_pow (Nat.lt_of_lt_of_le h1 (Nat.pow_le_pow_right (by decide) (by omega)))] at hk
      cases hk
    rcases descBits op hop k hk' hk with rfl | rfl | ⟨rfl, rfl | rfl⟩
    · exact hu (.inl ⟨by decide, by decide⟩)
    · exact hu (.inr (.inl ⟨by decide, by decide⟩))
    · exact hu (.inr (.inr (.inr (.inr (.inr (.inl ⟨by decide, by decide⟩))))))
    · exact hu (.inr (.inr (.inr (.inr (.inr (.inr ⟨by decide, by decide⟩))))))
  · rw [h2] at h; cases h
  · rw [h2] at h; exact absurd h (by decide)
  · rw [h6 h] at h'; cases h'
  · rw [h5] at h; cases h
  · omega
  · rw [h4, h2] at h; exact absurd h (by decide)

theorem descOk_of (op : CpeOp) (hop : op ∈ copyOps) (s : State) (hs : s.cur = s0) (hp : (s.vt v0).psSize = 0) (hg : 0 < gridOf s) :
    DescOk op s 0 (descOf op) := by
  have h : ∀ op ∈ copyOps, descOf op / 2 ^ 128 % 2 ^ 22 + (descOf op / 2 ^ 160 % 2 ^ 23) *
        (if op ∈ [CpeOp.muster, .scatter] then descOf op / 2 ^ 224 % 2 ^ 16 else 1) ≤ 0x400000 ∧
      descOf op / 2 ^ 64 % 2 ^ 22 + 4 * (descOf op / 2 ^ 224 % 2 ^ 16) ≤ 0x400000 ∧ (descOf op).testBit 223 = false := by decide
  have hv : s.cur.vt = v0 := by rw [hs]; rfl
  obtain ⟨h1, h2, h3⟩ := h op hop
  refine ⟨by omega, by omega, descStands op hop _ hg, h1, fun _ => h2, fun hb => ?_, fun _ => ?_, fun _ _ => ?_⟩
  · rw [h3] at hb; cases hb
  · exact .inl (by rw [Claims.myVt, hv]; exact hp)
  · exact .inl (by rw [Claims.myVt, hv]; exact hp)

/-- Descriptors that pass, with room and with 64 copies unfinished. R212: one past the end, one not on 32 bytes, no length; a local range, a
list of indices and an arrival word past the end; a range over the port store; an index list of two of 4 bytes that just fits. -/
theorem witness_CopyTriggersComplete :
    (∀ op ∈ copyOps, Clean (withDesc (descOf op)) ∧ DescOk op (withDesc (descOf op)) 0 (descOf op) ∧
      (withDesc (descOf op)).spRead v0 0 32 = descOf op ∧ (copyInstr op).isSome = true) ∧
    (myVt (withDesc 0)).copies = [] ∧
    64 ≤ ((onVt (fun t => { t with copies := List.replicate 64 (aCopy .read 0 [] []) })).vt v0).copies.length ∧
    (0x400000 < 0x3FFFE1 + 32 ∧ 16 % 32 ≠ 0 ∧ DescBreaks .read (gridOf demo) 0) ∧
    (let past := descOf .read + 0x3FFFB9 * 2 ^ 128
     0x400000 < past / 2 ^ 128 % 2 ^ 22 + past / 2 ^ 160 % 2 ^ 23 * 1) ∧
    (let list := descOf .scatter + 0x3FFFFD * 2 ^ 64
     0x400000 < list / 2 ^ 64 % 2 ^ 22 + 4 * (list / 2 ^ 224 % 2 ^ 16)) ∧
    (let word_ := descOf .read + 2 ^ 223 + 0x3FFFF1 * 2 ^ 192
     word_.testBit 223 = true ∧ 0x400000 < word_ / 2 ^ 192 % 2 ^ 22 + 16) ∧
    ¬OffPorts (myVt (memAt 0 0)) 0xFFC 8 ∧ OffPorts (myVt (memAt 0 0)) 0xFF8 8 := by
  have a : ∀ op ∈ copyOps, cleanCheck (withDesc (descOf op)) = true := by decide +kernel
  have b : ∀ op ∈ copyOps, (withDesc (descOf op)).cur = s0 ∧ ((withDesc (descOf op)).vt v0).psSize = 0 ∧
      0 < gridOf (withDesc (descOf op)) ∧ (withDesc (descOf op)).spRead v0 0 32 = descOf op ∧ (copyInstr op).isSome = true := by decide +kernel
  refine ⟨fun op h => ?_, by decide +kernel, by decide +kernel, ⟨by decide, by decide, .inr (.inl (by decide))⟩, by decide, by decide, by decide,
    by unfold OffPorts; decide +kernel, by unfold OffPorts; decide +kernel⟩
  obtain ⟨b1, b2, b3, b4, b5⟩ := b op h
  exact ⟨clean_of (a op h), descOk_of op h _ b1 b2 b3, b4, b5⟩

def copying (c : Copy) : State := onVt (fun t => { t with copies := [c] })

theorem copyAlone_of (c : Copy) (h : (copying c).hasVt v0 = true ∧ ((copying c).vt v0).copies = [c] ∧ c.finished = false ∧ c.cseq < 2 ^ 32) :
    CopyAlone (copying c) v0 c := h

/-- R20, R220: an empty batch; one that holds a copy, with 62 batches unfinished and with 63; as many batches as `cwait` names and more. -/
theorem witness_BatchesAreSealedAndAwaited :
    (let b (n : Nat) : State := (copying (aCopy .read 0 [] [])).modVt v0 (fun t => { t with sealed := List.range' 1 n })
     (myVt (b 62)).copies.any (fun c => c.batch == (myVt (b 62)).bopen && !c.finished) = true ∧ (myVt (b 62)).sealed.length ≠ 63 ∧
     (myVt (b 63)).sealed.length = 63 ∧ (me (b 63)).lat.cpe.a.toNat < (myVt (b 63)).sealed.length ∧
     (myVt demo).copies.any (fun c => c.batch == (myVt demo).bopen) = false ∧ (myVt demo).sealed.length ≤ (me demo).lat.cpe.a.toNat) ∧
    Clean ((copying (aCopy .read 0 [] [])).modVt v0 (fun t => { t with sealed := List.range' 1 63 })) :=
  ⟨by decide +kernel, clean_of (by decide +kernel)⟩

/-- R31: an arrival word that is not armed, and one with a target. -/
theorem witness_ArrivalWordsCount : demo.hasVt v0 = true ∧ (demo.vt v0).spOut = [] ∧ (demo.vt v0).sp.wf = true ∧ demo.spRead v0 0 4 = 0 ∧
    (demo.spWrite v0 0 4 16).spRead v0 0 4 ≠ 0 ∧ ((demo.spWrite v0 0 4 16).vt v0).sp.wf = true := by decide +kernel

/-- Tables that map address 0 to 0x200000, with a leaf entry. -/
def tables (leaf : Nat) : State :=
  (((demo.rimWrite 0x100000 8 0x102001).rimWrite 0x102000 8 0x104001).rimWrite 0x104000 8 0x106001).rimWrite 0x106000 8 leaf

def tabled (leaf : Nat) : State := (tables leaf).inCtx 0 (fun c => { c with desc := { c.desc with s1root := 0x100000 } })

/-- R299, R300: a leaf that permits reads and one that does not; one without a page; one of an address without a home. -/
theorem witness_TranslationWalksTheTables :
    ((tabled 0x200007).ctx 0).desc.s2en = false ∧
    (∀ l ∈ [0x200007, 0x200003, 0x200000, 0x2000000000007], (tabled l).home 0x100000 = .rim 0x100000 ∧ (tabled l).rimPoisoned 0x100000 8 = false ∧
      (tabled l).rimRead 0x100000 8 = 0x102001 ∧ (tabled l).rimRead 0x102000 8 = 0x104001 ∧ (tabled l).rimRead 0x104000 8 = 0x106001 ∧
      (tabled l).rimRead 0x106000 8 = l) ∧
    (0x102001 % 2 ^ 13 = 1 ∧ 0x200007 / 2 ^ 2 % 2 = 1 ∧ 0x200003 / 2 ^ 2 % 2 = 0 ∧ 0x200000 % 2 = 0) ∧ (tabled 0).home 0x200000 = .rim 0x200000 ∧
    (tabled 0).home 0x2000000000000 = .none := by decide +kernel

/-- One segment of 8 bytes. -/
def seg (addr loc : Nat) (st : SegState) : Seg := { addr := addr, loc := loc, len := 8, row := 0, st := st, landed := none }

def translating (leaf fmt0 : Nat) (segs : List Seg := [seg 0 64 .untranslated]) : State :=
  ((tabled leaf).inCtx 0 (fun c => { c with desc := { c.desc with fmttab := c.desc.fmttab.set 0 (BitVec.ofNat 32 fmt0) } })).modVt v0 (fun t =>
    { t with copies := [aCopy .read 0 [] segs] })

def doneCheck (s : State) (r : SRef) : Bool :=
  (s.slot r).sb == [] && (s.slot r).ops.all (fun f => !trigIsMemory f.trig || f.performed) &&
  (s.ctx r.vt.ctx).bankOps.all (fun u => u.rank != r.vt.rank) && (s.vt r.vt).outq == []

theorem doneBefore_of {s : State} {r : SRef} (h : doneCheck s r = true) : DoneBefore s r := by
  simp only [doneCheck, Bool.and_eq_true, beq_iff_eq, List.all_eq_true, Bool.or_eq_true, Bool.not_eq_true', bne_iff_ne] at h
  refine ⟨h.1.1.1, fun f hf hm => ?_, h.1.2, fun m hm => by rw [h.2] at hm; cases hm⟩
  rcases h.1.1.2 f hf with a | a
  · rw [hm] at a; cases a
  · exact a

/-- R215, R63: a translation, a fault and a record that is refused, alone and after a segment that is ready. -/
theorem witness_SegmentsAreTranslated :
    (∀ l ∈ [(0x200007, 0), (0x200003, 0), (0x200007, 0xF0)], CopyAlone (translating l.1 l.2) v0 (aCopy .read 0 [] [seg 0 64 .untranslated]) ∧
      DoneBefore (translating l.1 l.2) s0) ∧
    (((translating 0x200007 0).xlatSegment v0 0 false none).2 matches .ok 0x200000 _) = true ∧
    ((translating 0x200003 0).xlatSegment v0 0 false none).2 = .fault 2 ∧ ((translating 0x200007 0xF0).xlatSegment v0 0 false none).2 = .format 0xF0 ∧
    (let segs := [{ seg 0 64 (.ready 0x300000) with row := 0 }, { seg 0 72 .untranslated with row := 1 }]
     let s := translating 0x200007 0xF0 segs
     CopyAlone s v0 (aCopy .read 0 [] segs) ∧ DoneBefore s s0 ∧ (s.xlatSegment v0 0 false none).2 = .format 0xF0) :=
  ⟨fun l h => ⟨by revert l; unfold CopyAlone; decide +kernel, doneBefore_of (by revert l; decide +kernel)⟩, by decide +kernel, by decide +kernel,
    by decide +kernel, by unfold CopyAlone; decide +kernel, doneBefore_of (by decide +kernel), by decide +kernel⟩

/-- A copy of one segment that is ready; with WORD the arrival word at 128, off the bytes that land. -/
def landing (op : CpeOp) (segs : List Seg := [seg 0 64 (.ready 0x300000)]) (desc : Nat := 8 * 2 ^ 160) : Copy := aCopy op desc [] segs

/-- R213, R214, R217: one segment of each kind; a scatter whose later row has landed on half of its bytes; a row that another segment
completes; a copy with an arrival word. -/
theorem witness_SegmentsLand :
    (∀ op ∈ [CpeOp.read, .send, .store, .muster, .scatter], CopyAlone (copying (landing op)) v0 (landing op)) ∧
    (let s := copying (landing .send)
     DoneBefore s s0 ∧ s.active v0 = true ∧ (s.vt v0).spOut = [] ∧ (s.vt v0).marks = [] ∧ (s.vt v0).sp.wf = true ∧ FeSorted (s.vt v0) ∧
     s.rim.poison = [] ∧ s.rim.mem.wf = true ∧ s.home 0x300000 = .rim 0x300000 ∧ (s.vt v0).inc = 8 * 2 ^ 160 / 2 ^ 64 % 2 ^ 24 ∧
     (s.vt v0).loc = .resident ∧ OffPorts (s.vt v0) 0 8) ∧
    (let rows := [seg 0 64 (.ready 0x300000), { seg 0 72 .done with row := 1, landed := some 0x300004 }]
     CopyAlone (copying (landing .scatter rows)) v0 (landing .scatter rows) ∧ ∃ o ∈ rows, 0 < o.row ∧ ∃ p, o.landed = some p ∧ p ≤ 0x300000 + 4 ∧
       0x300000 + 4 < p + o.len) ∧
    (let parts := [seg 0 64 (.ready 0x300000), { seg 8 72 .done with landed := some 0x300008 }]
     (∀ j h, parts[j]? = some h → j ≠ 0 → h.row = 0 → h.st = .done) ∧ 0 ∉ (landing .muster parts).spoiled) ∧
    (let c := landing .read (desc := 8 * 2 ^ 160 + 2 ^ 223 + 128 * 2 ^ 192)
     CopyAlone (copying c) v0 c ∧ c.desc.testBit 223 = true ∧ 64 + 8 ≤ c.desc / 2 ^ 192 % 2 ^ 22 ∧ (copying c).spRead v0 128 4 = 0 ∧
       ((copying c).spWrite v0 128 4 16).spRead v0 128 4 ≠ 0) := by
  refine ⟨by unfold CopyAlone; decide +kernel, ⟨doneBefore_of (by decide +kernel), by decide +kernel, by decide +kernel, by decide +kernel, by decide +kernel,
    by unfold FeSorted; decide +kernel, by decide +kernel, by decide +kernel, by decide +kernel, by decide +kernel, by decide +kernel,
    by unfold OffPorts; decide +kernel⟩, ⟨by unfold CopyAlone; decide +kernel, _, .tail _ (.head _), by decide, _, rfl, by decide, by decide⟩,
    ⟨?_, by decide⟩, by unfold CopyAlone; decide +kernel⟩
  intro j h hj hn _
  match j with
  | 0 => exact absurd rfl hn
  | 1 => cases hj; rfl
  | _ + 2 => cases hj

/-- R216, R219: an index read of one row; a ring of 64 bytes that has room, one that is too small, and a vtile that is gone. -/
theorem witness_MustersAndRingsStart :
    (let c := aCopy .muster (8 * 2 ^ 160 + 2 ^ 224) [{ addr := 0, loc := 0, len := 4, row := 0, st := .ready 0x300000, landed := none }] []
     CopyAlone (copying c) v0 c ∧ DoneBefore (copying c) s0 ∧ (copying c).home 0x300000 = .rim 0x300000 ∧ (copying c).rim.poison = [] ∧
       c.desc / 2 ^ 224 % 2 ^ 16 = 1 ∧ 0 < c.desc / 2 ^ 160 % 2 ^ 23) ∧
    (let c := aCopy .rsend (64 * 2 ^ 160 + 7) [] []
     let s := (copying c).modVt v0 (fun t => { t with rings := t.rings.set 7 ⟨64, 6, 0, 0, 0, []⟩ })
     CopyAlone s v0 c ∧ DoneBefore s s0 ∧ (s.vt v0).inc = c.desc / 2 ^ 64 % 2 ^ 24 ∧ c.desc % 2 ^ 3 = 7 ∧ c.desc / 2 ^ 24 % 2 ^ 24 = 0 ∧
       64 ≤ 2 ^ ((s.vt v0).rings.get 7).logsz ∧ OffPorts (s.vt v0) 64 64 ∧ ((s.vt v0).rings.get 0).logsz = 0 ∧ s.hasVt ⟨0, 1⟩ = false) :=
  ⟨⟨by unfold CopyAlone; decide +kernel, doneBefore_of (by decide +kernel), by decide +kernel⟩, by unfold CopyAlone; decide +kernel,
    doneBefore_of (by decide +kernel), by unfold OffPorts; decide +kernel⟩

/-! ## Witnesses: messages and patterns (chapters 06 to 08) -/

/-- Latches of MSG, and n messages queued. -/
def sending (a b c : VWord) (n : Nat := 0) : State :=
  (onVt (fun t => { t with outq := List.replicate n (kind5 0 0 0 0 0 [] none false) })).modSlot s0 (fun sl => { sl with lat := sl.lat.put .msg ⟨a, b, c, 0, 0⟩ })

theorem witness_MessageTriggersComplete : Clean (sending 0x3FFF80 0 0) ∧ DestOk demo 0x00FFFFFF1F000000 ∧ ¬DestOk demo 1 ∧
    ((myVt (sending 0 0 0 31)).outq.length < 32 ∧ (myVt (sending 0 0 0 32)).outq.length = 32) ∧
    (payloadBytes 0 = 128 ∧ payloadBytes 8 = 8 ∧ payloadBytes 9 % 8 ≠ 0 ∧ 128 < payloadBytes 136 ∧ 0x3FFF80 + 128 ≤ 0x400000 ∧ 0x3FFF80 % 8 = 0 ∧
      0x400000 < 0x3FFF81 + 128 ∧ 4 % 8 ≠ 0 ∧ 0xFF < 2 ^ 8 ∧ 0xFFFF < 2 ^ 16) ∧
    (7 * 2 ^ 24 / 2 ^ 24 % 2 ^ 5 ≤ 7 ∧ ¬(8 * 2 ^ 24 / 2 ^ 24 % 2 ^ 5 ≤ 7)) :=
  ⟨clean_of (by decide +kernel), by unfold DestOk; decide +kernel, by unfold DestOk; decide +kernel, by decide +kernel, by decide, by decide⟩

/-- A message of KIND 0 for port 31 of a rank and an incarnation. -/
def aMsg (rank inc : Nat) : Msg :=
  { id := 6, drank := rank, dport := 31, dinc := inc, srank := 0, sinc := 0, sseq := 3, kind := 0, reason := 0, payload := [1, 2], poison := 0, tags := [],
    ring := none, aw := none, toCtxPort := false, after := none }

/-- That message on its way, to a vtile whose port 31 is given. -/
def arriving (m : Msg) (p : Port) (f : Vtile → Vtile := fun t => t) : State :=
  (onCtx (fun c => { c with msgs := [m] })).modVt v0 (fun t => f { t with ports := t.ports.set 31 p })

def openPort (cap : Nat) (ovf ord : Bool) (win : Nat) (vis : List Msg) : Port := { Port.blank with cap := cap, ovf := ovf, ord := ord, en := true, win := win, visible := vis }

/-- R246: no such rank, another incarnation, a disabled port, an enabled one with room (unordered and ordered), a full one with OVF = 1 and with
OVF = 0, one with its second place taken and its first free, a halted vtile and one on its way in. -/
theorem witness_MessagesArrive :
    (let s := arriving (aMsg 1 0) .blank; (s.ctx 0).msgs = [aMsg 1 0] ∧ s.hasVt ⟨0, 1⟩ = false) ∧
    (let s := arriving (aMsg 0 1) .blank; s.hasVt v0 = true ∧ (s.vt v0).inc ≠ 1) ∧
    (let s := arriving (aMsg 0 0) .blank; (s.vt v0).inc = 0 ∧ (s.vt v0).loc = .resident ∧ (s.vt v0).halted = false ∧ ((s.vt v0).port 31).en = false) ∧
    (let s := arriving (aMsg 0 0) (openPort 0 false true 2 []); let p := (s.vt v0).port 31
     p.en = true ∧ p.visible.length + p.windowed.length + p.claimed < p.cap + 1 ∧ p.parked = 0 ∧ p.ord = true ∧ p.windowed.length + 1 < p.win ∧
     (s.vt v0).spOut = [] ∧ (∀ k : Fin 32, ((s.vt v0).pats.get k).getLsbD 40 = false)) ∧
    (let s := arriving (aMsg 0 0) (openPort 0 true false 0 [aMsg 0 0]); let p := (s.vt v0).port 31
     p.cap + 1 ≤ p.visible.length + p.windowed.length + p.claimed ∧ p.ovf = true ∧ p.ord = false) ∧
    (let s := arriving (aMsg 0 0) (openPort 0 false false 0 [aMsg 0 0]); let p := (s.vt v0).port 31
     p.cap + 1 ≤ p.visible.length + p.windowed.length + p.claimed ∧ p.ovf = false ∧ (s.vt v0).pen.length < 21845) ∧
    (let s := arriving (aMsg 0 0) (openPort 1 false false 0 [{ aMsg 0 0 with place := 1 }]) (fun t => { t with psSize := 32 * 288 })
     min 256 ((s.vt v0).psSize / 32 / 144) = 2 ∧ (∀ x ∈ ((s.vt v0).port 31).visible, x.place ≠ 0) ∧ ((s.vt v0).port 31).windowed = [] ∧
     (s.vt v0).fq = [] ∧ (s.vt v0).sp.wf = true ∧ (s.vt v0).copies = []) ∧
    (let s := arriving (aMsg 0 0) .blank (fun t => { t with halted := true }); (s.vt v0).halted = true ∧ (s.vt v0).loc = .resident) ∧
    (let s := arriving (aMsg 0 0) .blank (fun t => { t with loc := .transitIn }); (s.vt v0).loc = .transitIn) ∧
    (let m : Msg := { aMsg 0 0 with kind := 3 }; let s := arriving m .blank; (s.ctx 0).msgs = [m] ∧ (s.vt ⟨0, m.srank⟩).outq = []) := by decide +kernel

/-- A match record with one message, for a handler that is VALID or not. -/
def aRecord (h : Word) : MatchRec := { handler := h, pat := 0, hnd := 2, prio := 0, qd := false, ord := false, fseq := 1, msgs := [(31, aMsg 0 0)] }
def starting (h : Word) : State := onVt (fun t => { t with fq := [aRecord h] })

theorem witness_FiringsStart : (starting (2 ^ 54)).hasVt v0 = true ∧ ((starting (2 ^ 54)).vt v0).fq = [aRecord (2 ^ 54)] ∧
    ((starting (2 ^ 54)).slot ⟨v0, 1⟩).status = .free ∧ (∀ j < (1 : Fin 8), ((starting (2 ^ 54)).slot ⟨v0, j⟩).status ≠ .free) ∧
    ((starting 0).vt v0).loc = .resident ∧ ((starting 0).vt v0).hold = ⟨false, false⟩ ∧ ((starting 0).vt v0).spOut = [] ∧ ((starting 0).vt v0).pen = [] ∧
    (∀ q ∈ (aRecord 0).msgs, q.2.poison = 0) ∧ ((2 ^ 54 : Word).toNat).testBit 54 = true ∧ (0 : Word).toNat.testBit 54 = false := by decide +kernel

theorem witness_ScopeMissesAreReported :
    let x : Miss := { id := 4, tag := ⟨0, 0, 0, 0, none, 0⟩, need := 4, loc := 1, where_ := 8, seqno := 0 }
    let s := onCtx (fun c => { c with misses := [x] })
    (s.ctx 0).misses = [x] ∧ x.id = 4 ∧ (∀ k : Fin 8, (s.slot ⟨⟨x.tag.ctx, x.tag.rank⟩, k⟩).sb = []) := by decide +kernel

/-- Latches of PAT, on a vtile with a port store of one ring of 144 bytes for each port. -/
def patAt (a b : VWord) (sup : Bool := true) : State :=
  (onVt (fun t => { t with psBase := 0, psSize := 32 * 144 })).modSlot s0 (fun sl => { sl with lat := sl.lat.put .pat ⟨a, b, 0, 0, 0⟩, sup := sup })

/-- R33 to R35, R209: descriptors, entries and handlers that are taken, and ones that are not; enables that R209 takes and refuses. -/
theorem witness_PatternTriggersComplete : Present (patAt 0 0) ∧ Room (patAt 0 0) ∧
    (let t := myVt (patAt 0 0); let p := t.ports.get 31
     PortTakes t p 0x400 ∧ ¬PortTakes t p 0x401 ∧ 0x7FFFF < 2 ^ 19 ∧ PortHas { p with en := true } 0x400 ∧ t.pen = [] ∧
     (∀ j, (t.ports.get j).cap < 2 ^ 8 ∧ (t.ports.get j).win < 2 ^ 8)) ∧
    (PatternTakes (2 ^ 40 + 2 ^ 5 + 2 ^ 14 + 2 ^ 9) ∧ ¬PatternTakes (2 ^ 46) ∧ ¬PatternTakes (2 ^ 5 + 2 ^ 14)) ∧
    ((me (patAt 0 0 false)).sup = false ∧ (2 ^ 55 : Word).getLsbD 55 = true ∧ 4 % 2 ^ 3 < 5 ∧ ¬(5 % 2 ^ 3 < 5)) := by
  refine ⟨by unfold Present; decide +kernel, room_of (by decide +kernel), ?_, ⟨?_, ?_, ?_⟩, by decide +kernel⟩
  · unfold PortTakes PortHas; decide +kernel
  · unfold PatternTakes; decide
  · unfold PatternTakes; decide
  · unfold PatternTakes; decide

/-! ## Witnesses: configuration items, held traps and halts (chapter 12) -/

/-- CSEL for an item of a rank, and the operand. -/
def csel (item rank : Nat) (a : VWord) : State :=
  onSlot (fun sl => { sl with csel := BitVec.ofNat 64 (item * 2 ^ 48 + rank), lat := sl.lat.put .sys ⟨a, 0, 0, 0, 0⟩ })

theorem witness_ConfigurationItemsAreReadAndWritten : Present (csel 4 0 63) ∧ Room (csel 4 0 63) ∧
    (cselOf (csel 4 0 63) / 2 ^ 48 = 4 ∧ cselOf (csel 5 0 0) / 2 ^ 48 = 5 ∧ cselOf (csel 4 1 0) % 2 ^ 24 = 1 ∧
      ((csel 4 0 0).ctx 0).desc.vx * ((csel 4 0 0).ctx 0).desc.vy = 1 ∧ (myVt (csel 2 0 0)).psSize = 0) ∧
    (ItemTakes 0 7 ∧ ItemTakes 1 3 ∧ ItemTakes 2 0x3F8000 ∧ ItemTakes 3 (2 ^ 34 - 1) ∧ ItemTakes 4 63 ∧ ¬ItemTakes 0 8 ∧ ¬ItemTakes 2 0x400000 ∧
      ¬ItemTakes 4 64 ∧ ¬ItemTakes 5 0) := by
  refine ⟨by unfold Present; decide +kernel, room_of (by decide +kernel), by decide +kernel, ?_⟩
  simp [ItemTakes]

/-- A grid of two ranks. -/
def grid2 : State := (csel 3 1 5).inCtx 0 (fun c => { c with desc := { c.desc with vx := 2 } })

/-- A CFG_WRITE of item 2 to rank 0 that arrives. -/
def cfgMsg (inc : Nat) : Msg := { aMsg 0 inc with kind := 5, reason := 0x15, payload := [0x2000000000000, 0x8000] }
def cfgArriving (inc : Nat) (h : Bool) : State := arriving (cfgMsg inc) .blank (fun t => { t with halted := h })

/-- R353: a write to rank 1 of a grid of two, and a CFG_WRITE that arrives at a vtile: running, halted, and of another incarnation. -/
theorem witness_RemoteWritesTravel :
    (cselOf grid2 % 2 ^ 24 = 1 ∧ cselOf grid2 / 2 ^ 48 = 3 ∧ (myVt grid2).outq.length < 32 ∧ (grid2.ctx 0).desc.vx * (grid2.ctx 0).desc.vy = 2) ∧
    (((cfgArriving 0 false).ctx 0).msgs = [cfgMsg 0] ∧ (cfgArriving 0 false).hasVt v0 = true ∧ ((cfgArriving 0 false).vt v0).inc = 0 ∧
      ((cfgArriving 0 true).vt v0).halted = true) ∧
    (((cfgArriving 1 false).vt v0).inc ≠ 1 ∧ (cfgMsg 1).toCtxPort = false ∧ ((cfgArriving 1 false).ctx 0).desc.supdest = 0) := by decide +kernel

theorem witness_ItemWritesTakeEffect :
    (let s := onVt (fun t => { t with hold := ⟨true, false⟩ }); s.hasVt v0 = true ∧ (s.vt v0).hold ≠ ⟨false, false⟩) ∧
    ((demo.vt v0).hold = ⟨false, false⟩ ∧ (demo.vt v0).psSize = 0 ∧ (0x3F8000 : Word).toNat + 0x8000 ≤ 0x400000 ∧ (0x3F8000 : Word).toNat % 0x8000 = 0) ∧
    (let c := aCopy .store 0 [] [seg 0 64 (.fault 1), seg 0 72 .done]
     CopyAlone (copying c) v0 c ∧ (∃ g ∈ c.segs, g.st = .fault 1) ∧ (∀ g ∈ c.segs, g.st = .fault 1 ∨ g.st = .done)) := by
  unfold CopyAlone; decide +kernel

/-- A held trap of slot 0's firing, and one of a firing that has ended. -/
def aHeld (fser : Nat) : HeldTrap := { slot := 0, fser := fser, req := ⟨0x10, 1, 2, 7, false⟩, order := 0, replay := none }
def holding (fser : Nat) : State := onVt (fun t => { t with held := [aHeld fser] })

theorem witness_HeldTrapsAndHaltsReachTheirTargets :
    (let s := onSlot (fun sl => { sl with pendTrap := some ⟨7, 0, 0, 7, false⟩ }); (s.slot s0).pendTrap = some ⟨7, 0, 0, 7, false⟩ ∧ s.running v0 = true) ∧
    ((holding 0).hasVt v0 = true ∧ ((holding 0).vt v0).held[0]? = some (aHeld 0) ∧ ((holding 0).slot s0).fser = 0 ∧
      ((holding 0).slot s0).status = .ready ∧ (holding 0).running v0 = true ∧ ((holding 1).slot s0).fser ≠ (aHeld 1).fser) ∧
    (let s := { onVt (fun t => { t with hgroups := 2 ^ 63 }) with crook := { Crook.reset with stopped := 2 ^ 63, hartGrp := [(31, 2 ^ 63)] } }
     s.hasVt v0 = true ∧ (s.ctx 0).regs.suspending = false ∧ (s.tile (s.vt v0).site).pairNext = none ∧ (s.vt v0).halted = false ∧
     (s.vt v0).hgroups &&& s.crook.stopped ≠ 0 ∧ setHas s.crook.hartHalted 31 = false ∧ Tbl.getD s.crook.hartGrp 31 0 &&& s.crook.stopped ≠ 0) ∧
    (setHas demo.crook.hartHalted 31 = false ∧ Tbl.getD demo.crook.hartGrp 31 0 &&& demo.crook.stopped = 0) ∧
    (let s := { onVt (fun t => { t with halted := true, pen := [aMsg 0 0], ports := t.ports.set 31 { openPort 0 false false 0 [] with parked := 1 } }) with
        crook := { Crook.reset with hartHalted := [31] } }
     (s.vt v0).halted = true ∧ (s.vt v0).hgroups &&& s.crook.stopped = 0 ∧ (s.vt v0).pen = [aMsg 0 0] ∧ ((s.vt v0).port 31).en = true ∧
     s.crook.hartHalted = [31] ∧ (s.vt v0).defer = 0 ∧ (∀ k : Fin 32, ((s.vt v0).pats.get k).getLsbD 40 = false)) := by decide +kernel

theorem witness_HeldTrapsBefore : HeldBefore (aHeld 0) { aHeld 0 with order := 1 } ∧ heldKey (aHeld 0) = 0 := by unfold HeldBefore heldKey; decide

/-! ## Witnesses: launches and rotation (chapters 08 and 11) -/

/-- A launch record at virtual address 0, its one flock descriptor at 64 and a template of zeros at 128: flock 1 of rank 1, in a grid of two. -/
def launchRecord : Nat := 0x1234 + 2 ^ 16 + 7 * 2 ^ 21 + 64 * 2 ^ 192 + 9 * 2 ^ 256
def flockDesc : Nat := 1 + 2 ^ 32 + 2 ^ 96 + 2 ^ 128 + 128 * 2 ^ 192

def launching (record : Nat) : State :=
  (((tabled 0x200007).rimWrite 0x200000 64 record).rimWrite 0x200040 32 flockDesc).inCtx 0 (fun c =>
    { c with desc := { c.desc with vx := 2 }, queues := c.queues.set 15 { LaunchQueue.blank with en := true, tail := 1 } })

/-- What the check of the entry finds: the record and the flocks, or that it is not valid. -/
def found (s : State) : Option (Nat × List Nat) :=
  match s.checkLaunch 0 0 with
  | .good r ps => some (r, ps.map LaunchPlan.fidx)
  | _ => none

theorem queueTakes_of {s : State} (h : (s.ctx 0).regs.st = .live ∧ (s.ctx 0).regs.suspending = false ∧ (s.queue 0 15).en = true ∧
    (s.queue 0 15).swout = false ∧ (s.queue 0 15).tail ≠ (s.queue 0 15).head ∧ s.recovery.cutting = false) : QueueTakes s 0 15 := h

/-- A launch record with an uncorrectable error. -/
def unreadable : State := { launching launchRecord with rim := { (launching launchRecord).rim with poison := [0x200000 / 64] } }

theorem witness_LaunchRecordsAreTaken : QueueTakes (launching launchRecord) 0 15 ∧
    (((launching launchRecord).ctx 0).herds = [] ∧ found (launching launchRecord) = some (launchRecord, [1]) ∧
      ((launching launchRecord).flock 0 1).run = false) ∧
    (QueueTakes (launching 0) 0 15 ∧ (launching 0).checkLaunch 0 0 = .bad 0xFF 0 0 []) ∧
    (QueueTakes unreadable 0 15 ∧ (unreadable.checkLaunch 0 0 matches .ue) = true) :=
  ⟨queueTakes_of (by decide +kernel), by decide +kernel, ⟨queueTakes_of (by decide +kernel), by decide +kernel⟩, queueTakes_of (by decide +kernel),
    by decide +kernel⟩

/-- What a read finds: the number, or an error. -/
def gives (e : Except (Nat × Nat) Nat) (n : Option Nat) : Bool :=
  match e, n with | .ok a, some b => a == b | .error _, none => true | _, _ => false

/-- The flock descriptor of `launching`, another that leaves the grid by one column, and templates at the ends of R231's ranges. -/
def wideDesc : Nat := flockDesc + 2 ^ 96
def goodTemplate : Nat := 8 + 0x3FFFF8 * 2 ^ 32
def badTemplate : Nat := 16 + 0x3FFFF8 * 2 ^ 32

/-- The launch of a flock that exists with the same rectangle; one of a flock whose member is retired. -/
def relaunching : State := (launching launchRecord).inCtx 0 (fun c =>
  { c with flocks := [(1, { Flock.blank with st := .resident, x0 := 1, w := 1, h := 1 })] })
def launchingGone : State := (launching launchRecord).inCtx 0 (fun c => { c with retired := [1] })

theorem noMember {k : Nat} (h : MemberOf ((launching launchRecord).ctx 0).desc flockDesc k) : k = 1 := by
  have hd : (flockDesc / 2 ^ 96 % 2 ^ 32 = 1 ∧ flockDesc / 2 ^ 128 % 2 ^ 32 = 1) ∧ flockDesc / 2 ^ 64 % 2 ^ 32 = 0 ∧ flockDesc / 2 ^ 32 % 2 ^ 32 = 1 := by
    decide +kernel
  obtain ⟨x, hx, y, hy, rfl⟩ := h
  rw [hd.1.1] at hx; rw [hd.1.2] at hy; rw [hd.2.1, hd.2.2]
  have : x = 0 := by omega
  have : y = 0 := by omega
  simp_all

theorem templateStands {w : Nat} (hw : w < 2 ^ 128) (h1 : w % 2 ^ 32 % 8 = 0) (h2 : w % 2 ^ 32 + w / 2 ^ 32 % 2 ^ 32 ≤ 0x400000) : ¬TemplateBreaks w := by
  have hz : ∀ n ≥ 128, w / 2 ^ n = 0 := fun n hn => Nat.div_eq_of_lt (lt_of_lt_of_le hw (Nat.pow_le_pow_right (by decide) hn))
  have hp : ∀ i, portOfT w i = 0 := fun i => by unfold portOfT; rw [hz _ (by omega)]; rfl
  have hq : ∀ i, patternOfT w i = 0 := fun i => by unfold patternOfT; rw [hz _ (by omega)]; rfl
  have hh : ∀ i, handlerOfT w i = 0 := fun i => by unfold handlerOfT; rw [hz _ (by omega)]; rfl
  unfold TemplateBreaks
  rw [show w / 2 ^ 192 % 2 ^ 320 = 0 by rw [hz 192 (by decide)]; exact Nat.zero_mod _]
  simp only [hz 128 (by decide), hz 160 (by decide), hp, hq, hh]
  rintro (h | h | h | h | h | h | ⟨-, -, h⟩ | ⟨-, -, h⟩ | ⟨-, -, h⟩)
  · exact h rfl
  · exact h h1
  · omega
  · omega
  · omega
  · exact h.1 rfl
  · rcases h with h | h
    · omega
    · exact h ⟨fun h => absurd h (by decide), by decide, fun h => absurd h (by decide), by decide, fun h => absurd rfl h⟩
  · exact h (by unfold PatternTakes; decide)
  · omega

theorem witness_LaunchRecordsAreValidated :
    ((demo.virtPieces (demo.ctx 0).desc 0 64 matches .error _) = true ∧
      ((launching launchRecord).virtPieces ((launching launchRecord).ctx 0).desc 0 64 matches .ok _) = true ∧
      gives ((launching launchRecord).virtRead ((launching launchRecord).ctx 0).desc 0 64) (some launchRecord) = true ∧
      gives ((launching launchRecord).virtRead ((launching launchRecord).ctx 0).desc (launchRecord / 2 ^ 192 % 2 ^ 64) 64) (some flockDesc) = true ∧
      gives ((launching launchRecord).virtRead ((launching launchRecord).ctx 0).desc (flockDesc / 2 ^ 192 % 2 ^ 64) 1088) (some 0) = true) ∧
    (¬RecordBreaks launchRecord ∧ RecordBreaks 0 ∧ RecordBreaks (launchRecord + 16 * 2 ^ 16) ∧ RecordBreaks (launchRecord + 2 ^ 511) ∧
      RecordBreaks (launchRecord + 2 ^ 192)) ∧
    (¬DescriptorBreaks ((launching launchRecord).ctx 0).desc flockDesc ∧ DescriptorBreaks ((launching launchRecord).ctx 0).desc wideDesc) ∧
    (((launching launchRecord).flock 0 1).st = .nonexistent ∧ (relaunching.flock 0 1).st ≠ .nonexistent ∧ (relaunching.flock 0 1).x0 = 1 ∧
      (launching launchRecord).hasVt ⟨0, 1⟩ = false ∧ ((launching launchRecord).ctx 0).retired = [] ∧ (launchingGone.ctx 0).retired = [1]) ∧
    MemberOf ((launching launchRecord).ctx 0).desc flockDesc 1 ∧ ¬TemplateBreaks goodTemplate ∧ TemplateBreaks badTemplate ∧ ¬TemplateBreaks 0 :=
  ⟨by decide +kernel, by unfold RecordBreaks; decide +kernel, by unfold DescriptorBreaks; decide +kernel, by decide +kernel,
    by unfold MemberOf; exact ⟨0, by decide +kernel, 0, by decide +kernel, by decide +kernel⟩,
    templateStands (by decide) (by decide) (by decide), .inr (.inr (.inl (by decide))), templateStands (by decide) (by decide) (by decide)⟩

/-- A flock whose launch is armed to finish, and whose one vtile has nothing to do. -/
def aHerd : Herd := { num := 3, queue := 15, entry := 0, target := 0, payload := 5, todo := [0], agg := 1, done := false }
def idleVtile : Vtile := { Vtile.fresh with loc := .resident }
def finishing (retire : Bool) : State :=
  (onCtx (fun c => { c with herds := [aHerd], vts := [(0, idleVtile)] })).modFlock 0 0 (fun f => { f with run := true, finArm := true, retire := retire })

theorem witness_LaunchesFinish :
    (((finishing true).ctx 0).regs.st = .live ∧ ((finishing true).flock 0 0).run = true ∧ ((finishing true).flock 0 0).finArm = true ∧
      ((finishing true).flock 0 0).w = 1 ∧ ((finishing true).flock 0 0).h = 1 ∧ ((finishing true).ctx 0).vts = [(0, idleVtile)] ∧
      ((finishing true).ctx 0).herds = [aHerd] ∧ aHerd.todo = [0] ∧ aHerd.queue < 16 ∧ aHerd.entry = ((finishing true).queue 0 15).prog ∧
      (finishing true).rim.mem.wf = true ∧ ((finishing true).flock 0 0).retire = true ∧ ((finishing false).flock 0 0).retire = false ∧
      idleVtile.inc < 2 ^ 24 - 1) ∧ ¬AtWork idleVtile ∧ BanksDone (finishing true) v0 :=
  ⟨by decide +kernel, by unfold AtWork; decide +kernel, by unfold BanksDone; decide +kernel⟩

/-- A ready flock of one vtile that waits, with no vtile in any tile. -/
def waitingFlock : State :=
  { (onCtx (fun c => { c with flocks := [(0, { Flock.blank with w := 1, h := 1, st := .waiting, ready := true, prio := 3 })] })) with
    tiles := [], regs := { ModRegs.reset with cycle := 2000000 } }

theorem no_tiles (n : Nat) (b : Bool) (v : VRef) : (waitingFlock.tile n).bank b ≠ some v := by
  have h : waitingFlock.tile n = Tile.blank := rfl
  rw [h]
  cases b <;> exact fun e => by cases e

/-- A machine without a live tile: a flock of one vtile has waited for eight steps, another has been resident for QUANT. -/
def residentFlock : Flock := { Flock.blank with w := 1, h := 1, y0 := 1, st := .resident, prio := 3 }
def crowded : State :=
  let s := onCtx (fun c => { c with flocks := [(0, waitingFlock.flock 0 0), (1, residentFlock)] })
  { s with tiles := [], regs := { ModRegs.reset with cycle := 2 ^ 32 }, ident := { s.ident with deadTiles := List.range' 0 5376 } }

theorem setHas_range' (k : Nat) : ∀ a n, a ≤ n → n < a + k → setHas (List.range' a k) n = true := by
  induction k with
  | zero => intro a n h h'; omega
  | succ k ih =>
    intro a n h h'
    rw [List.range'_succ, setHas]
    by_cases e : a = n
    · rw [if_pos e]
    · rw [if_neg e, if_neg (by omega)]
      exact ih (a + 1) n (by omega) (by omega)

theorem crowded_full (ctx i : Nat) (more : List (Nat × Nat)) (n : Nat) : crowded.tileCap ctx i more n = 0 := by
  have h : crowded.live n = false := by
    rw [State.live, show crowded.ident.deadTiles = List.range' 0 5376 from rfl]
    by_cases hn : n < 5376
    · rw [setHas_range' 5376 0 n (by omega) (by omega)]; simp
    · simp [hn]
  rw [State.tileCap, h]
  rfl

theorem crowded_fit (more : List (Nat × Nat)) : crowded.fit 0 0 more = none := by
  have hb : (crowded.flock 0 0).binds.isEmpty = true := by decide +kernel
  have hg : foldGroups (crowded.ctx 0).desc.vx ((crowded.flock 0 0).members (crowded.ctx 0).desc.vx) = [((0, 0), [0])] := by decide +kernel
  rw [State.fit, if_pos hb]
  simp only [State.fitIn, hg, bindFolds]
  rw [List.filter_eq_nil_iff.mpr (fun f _ => ?_)]
  · rfl
  · have hz : ((sitesOfFold f).map (crowded.tileCap 0 0 more)).sum = 0 := by
      rw [List.sum_eq_zero_iff]
      intro x hx
      obtain ⟨n, -, rfl⟩ := List.mem_map.mp hx
      exact crowded_full _ _ _ _
    rw [hz]
    simp

/-- The same with one live tile, site 0, in which the resident flock lies; both flocks are of one virtual fold. -/
def oneTile : State :=
  let flock1 : Flock := { residentFlock with x0 := 1, y0 := 0 }
  let s := onCtx (fun c => { c with
    desc := { c.desc with vx := 2, vy := 1 }, flocks := [(0, waitingFlock.flock 0 0), (1, flock1)]
    vts := [(0, { Vtile.fresh with loc := .absent }), (1, { Vtile.fresh with loc := .resident, flock := 1 })] })
  { s with tiles := [(0, { Tile.blank with bank0 := some ⟨0, 1⟩ })], regs := { ModRegs.reset with cycle := 2 ^ 32 }
           ident := { s.ident with deadTiles := List.range' 1 5375 } }

/-- R321: a victim that helps, and one without which and with which the flock fits nowhere. -/
theorem witness_UrgentFlocksTakeVictims :
    (let s := oneTile
     let g := s.flock 0 1
     (s.readyFlocks = [(0, 0, s.flock 0 0)] ∧ (s.flock 0 0).st = .waiting ∧ s.residents = [(0, 1, g)] ∧ Tbl.find? (s.ctx 0).flocks 1 = some g ∧
      (let n := (s.regs.cycle - (s.flock 0 0).waitStart) / (max 1 s.regs.ageq * 1250); (s.flock 0 0).prio ≤ n ∧ 8 ≤ n) ∧
      s.regs.quant * 1250 ≤ s.regs.cycle - g.residentSince) ∧
     s.fit 0 0 [] = none ∧ s.fitsWith 0 0 s.leaving = false ∧ s.fitsWith 0 0 (s.leaving ++ [(0, 1)]) = true) ∧
    crowded.readyFlocks = [(0, 0, crowded.flock 0 0)] ∧ (crowded.flock 0 0).st = .waiting ∧
    (let n := (crowded.regs.cycle - (crowded.flock 0 0).waitStart) / (max 1 crowded.regs.ageq * 1250)
     (crowded.flock 0 0).prio ≤ n ∧ 8 ≤ n) ∧ crowded.fit 0 0 [] = none ∧ crowded.fitsWith 0 0 (crowded.leaving ++ [(0, 1)]) = false ∧
    crowded.residents = [(0, 1, residentFlock)] ∧ Tbl.find? (crowded.ctx 0).flocks 1 = some residentFlock ∧
    crowded.regs.quant * 1250 ≤ crowded.regs.cycle - residentFlock.residentSince :=
  ⟨⟨by decide +kernel, by decide +kernel, by decide +kernel, by decide +kernel⟩,
    by decide +kernel, by decide +kernel, by decide +kernel, crowded_fit [], by rw [State.fitsWith, crowded_fit]; rfl, by decide +kernel, by decide +kernel,
    by decide +kernel⟩

theorem witness_TheShepherdPlacesAndAges :
    (let s := onCtx (fun c => { c with queues := c.queues.set 15 { LaunchQueue.blank with en := true, swout := true, want := true } })
     (s.ctx 0).regs.st = .live ∧ (s.queue 0 15).en = true ∧ (s.queue 0 15).swout = true ∧ (s.queue 0 15).want = true ∧ s.activeQueues.length < 512) ∧
    (waitingFlock.readyFlocks = [(0, 0, waitingFlock.flock 0 0)] ∧ (waitingFlock.flock 0 0).st = .waiting ∧ waitingFlock.regs.held = [] ∧
      waitingFlock.hasVt v0 = true) ∧ TileFree waitingFlock 5375 ∧ (∀ n b v, (waitingFlock.tile n).bank b ≠ some v) ∧
    ((waitingFlock.flock 0 0).aging < (waitingFlock.regs.cycle - (waitingFlock.flock 0 0).waitStart) / (max 1 waitingFlock.regs.ageq * 1250)) :=
  ⟨by decide +kernel, by decide +kernel, by unfold TileFree; decide +kernel, no_tiles, by decide +kernel⟩

/-- The flock of the demo machine in a state, its vtile in a place, the tile showing one bank. -/
def placedAt (st : FlockState) (loc : Where) (sel victim : Bool) : State :=
  ((onVt (fun t => { t with loc := loc })).modFlock 0 0 (fun f => { f with st := st, victim := victim })).modTile 0 (fun t => { t with sel := sel })

theorem witness_FlocksRotate :
    (let s := placedAt .goingIn .absent true false; (s.flock 0 0).st = .goingIn ∧ s.members 0 0 = [v0] ∧
      ∀ v ∈ s.members 0 0, s.hasVt v = true ∧ (s.vt v).loc = .absent) ∧
    (let s := placedAt .resident .resident false true; (s.flock 0 0).st = .resident ∧ (s.flock 0 0).victim = true ∧
      ∀ v ∈ s.members 0 0, (s.vt v).halted = false) ∧
    (let s := placedAt .goingIn .transitIn true false; (s.tile 0).bank (s.tile 0).sel = none ∧ (s.tile 0).bank (!(s.tile 0).sel) = some v0 ∧
      (s.vt v0).loc = .transitIn ∧ (s.tile 0).pairNext = none) ∧
    (let s := (placedAt .goingOut .resident false false).inCtx 0 (fun c => { c with vts := c.vts ++ [(1, { Vtile.fresh with loc := .transitIn, bank := true })] })
     let t := s.modTile 0 (fun t => { t with bank1 := some ⟨0, 1⟩ })
     t.hasVt ⟨0, 1⟩ = true ∧ (t.tile 0).bank (t.tile 0).sel = some v0 ∧ (t.tile 0).bank (!(t.tile 0).sel) = some ⟨0, 1⟩ ∧
     (t.vt ⟨0, 1⟩).loc = .transitIn ∧ (t.vt v0).loc = .resident) ∧
    (demo.rim.poison = [] ∧ demo.rim.mem.wf = true) ∧
    (let s := placedAt .goingOut .resident false false; (s.tile 0).bank (s.tile 0).sel = some v0 ∧ (s.tile 0).bank (!(s.tile 0).sel) = none ∧
      (s.vt v0).loc = .resident ∧ (s.flock 0 ((s.vt v0).flock)).st = .goingOut) := by decide +kernel

theorem unitsCanonical_of {s : State} (h : (s.vt v0).sp.wf = true ∧ (s.vt v0).mx.bstore.wf = true ∧ s.rim.mem.wf = true ∧
    (s.vt v0).fe.Pairwise (· < ·) ∧ (s.vt v0).spOut.Pairwise (· < ·) ∧ (s.vt v0).mx.bsOut.Pairwise (· < ·) ∧ s.rim.poison = []) :
    UnitsCanonical s v0 := h

/-- A sliced vtile that does not run, with bytes in its last unit and in B-store; and a running one with those units out. -/
def spilling : State :=
  (onVt (fun t => { t with slice := true, sp := [(0x3FFFFF, 7)], fe := [0x7FFFF], mx := { t.mx with bhwm := 131072 } })).modTile 0 (fun t => { t with sel := true })
def restoring : State := onVt (fun t => { t with spOut := [511], mx := { t.mx with bsOut := [1023] } })

theorem witness_UnitsMoveUnchanged : UnitsCanonical spilling v0 ∧ UnitsCanonical restoring v0 ∧
    (spilling.hasVt v0 = true ∧ spilling.active v0 = false ∧ (spilling.vt v0).loc = .resident ∧ (spilling.vt v0).slice = true ∧
      511 ∉ (spilling.vt v0).spOut ∧ 16 * 63 + 15 ∉ (spilling.vt v0).mx.bsOut ∧ 8192 * 15 < (spilling.vt v0).mx.bhwm) ∧
    (restoring.active v0 = true ∧ (restoring.tile (restoring.vt v0).site).bank (!(restoring.vt v0).bank) = none ∧ 511 ∈ (restoring.vt v0).spOut ∧
      (∀ w ∈ (restoring.vt v0).fe, w / 1024 ≠ 511) ∧ (restoring.vt v0).spOut = [511] ∧ (restoring.vt v0).mx.bsOut = [16 * 63 + 15]) ∧
    BstoreFresh restoring v0 ∧
    (let s := restoring.modSlot s0 (fun sl => { sl with sb := [stored .st 0x3FFFF8 8] })
     ∃ e, (s.slot s0).sb.head? = some e ∧ e.chunk ≠ 0 ∧ 8192 * 511 < e.addr + e.chunk ∧ e.addr < 8192 * 511 + 8192) := by
  refine ⟨unitsCanonical_of (by decide +kernel), unitsCanonical_of (by decide +kernel), by decide +kernel, by decide +kernel, fun l => ?_, _, rfl, by decide,
    by decide, by decide⟩
  rw [show (restoring.tile (restoring.vt v0).site).bver = [] by decide +kernel]
  exact (by decide : 0 < 2 ^ 56 - 1)

/-- Two vtiles that share tile 0: rank 0 runs, with work or none, and rank 1 has a firing queued. -/
def v1 : VRef := ⟨0, 1⟩
def sharing (idle : Bool) (now : Nat) : State :=
  let s := (onCtx (fun c => { c with vts := c.vts ++ [(1, { Vtile.fresh with loc := .resident, bank := true, slice := true, fq := [aRecord 0] })] })).modTile 0 (fun t =>
    { t with bank1 := some v1 })
  { s.modVt v0 (fun t => { t with slice := true, slots := if idle then Vector.replicate 8 Slot.blank else t.slots }) with
    regs := { ModRegs.reset with cycle := now } }

/-- That pair with every unit of rank 1 in its image; rank 1 is the one member of flock 1. -/
def splitting : State :=
  let s := sharing false 0
  ((s.modVt v1 (fun t => { t with spOut := List.range' 0 512, flock := 1 })).inCtx 0 (fun c =>
    { c with flocks := Tbl.put c.flocks 1 { Flock.blank with w := 1, h := 1, y0 := 1, st := .resident } }))

theorem witness_SlicedPairsAreSplit : (splitting.flock 0 1).st = .resident ∧ (splitting.flock 0 1).victim = false ∧ splitting.members 0 1 = [v1] ∧
    splitting.hasVt v1 = true ∧ splitting.hasVt v0 = true ∧
    ((splitting.vt v1).slice = true ∧ (splitting.vt v1).loc = .resident ∧ (splitting.vt v1).halted = false ∧ (splitting.vt v1).site = 0 ∧
      (splitting.vt v1).mx.bhwm = 0 ∧ splitting.regs.held = []) ∧
    ((splitting.tile 0).bank (splitting.tile 0).sel = some v0 ∧ (splitting.tile 0).bank (!(splitting.tile 0).sel) = some v1) ∧
    (∀ k < 512, k ∈ (splitting.vt v1).spOut) ∧ (splitting.vt v1).spOut.Pairwise (· < ·) ∧ TileFree splitting 1 ∧ foldOfSite 1 = foldOfSite 0 := by
  have h : (splitting.vt v1).spOut = List.range' 0 512 := by rfl
  refine ⟨by decide +kernel, by decide +kernel, by decide +kernel, by decide +kernel, by decide +kernel, by decide +kernel, by decide +kernel,
    fun k hk => ?_, ?_, by unfold TileFree; decide +kernel, by decide⟩
  · rw [h]; exact List.mem_range'_1.mpr (by omega)
  · rw [h]; exact List.pairwise_lt_range'

theorem witness_SlicesSwitchAndFoldsTellTheirLoad :
    (let s := sharing false 65536
     s.hasVt v0 = true ∧ s.hasVt v1 = true ∧ v0 ≠ v1 ∧ (s.tile 0).bank (s.tile 0).sel = some v0 ∧ (s.tile 0).bank (!(s.tile 0).sel) = some v1 ∧
     (s.vt v0).loc = .resident ∧ (s.vt v1).loc = .resident ∧ (s.vt v0).slice = true ∧ (s.vt v0).halted = false ∧
     (s.tile 0).pairNext = none ∧ (s.flock 0 ((s.vt v0).flock)).st = .resident ∧ (s.vt v1).hasWork = true ∧ max 1 s.regs.sliceq * 1024 ≤ s.regs.cycle - (s.tile 0).lastSwitch) ∧
    (let s := sharing true 4096
     4096 ≤ s.regs.cycle - (s.tile 0).idleSince ∧ (s.vt v0).hasWork = false ∧ 4096 ≤ s.regs.cycle - s.regs.lastDrift) := by decide +kernel

/-- A victim bound to migrate, whose member is trapped; a pair in which nothing of the one that stops is under way. -/
theorem witness_RotationsWait :
    (let s := ((placedAt .resident .resident false true).modFlock 0 0 (fun f => { f with binds := [((0, 0), 1)] })).modSlot s0 (fun sl => { sl with status := .trapped })
     (s.flock 0 0).binds ≠ [] ∧ v0 ∈ s.members 0 0 ∧ (s.slot s0).status = .trapped ∧ (s.flock 0 0).victim = true ∧ (s.ctx 0).regs.suspending = false ∧
      (s.ctx 0).regs.st ≠ .suspended) ∧
    ((placedAt .resident .resident false true).flock 0 0).binds = [] ∧ (Vtile.fresh.pen = []) ∧
    (let s := sharing false 65536
     (s.vt v0).site = 0 ∧ (s.vt v0).bank = (s.tile 0).sel ∧ (s.vt v0).spOut.Pairwise (· < ·) ∧ (s.vt v0).outq = [] ∧
      ∀ k : Fin 8, ∀ e ∈ (s.slot ⟨v0, k⟩).sb, e.kind ≠ .seal) ∧
    (∀ k : Fin 8, (restoring.slot ⟨v0, k⟩).saved = []) := by decide +kernel

/-! ## Witnesses: contexts, invalidations, keys and images (chapters 10, 11 and 14) -/

/-- A context record at 0x300000 (a grid of one rank) and its memory descriptor at 0x300080 with one chunk of commons, key slot 7 and a map at 0x300100. -/
def creating (record desc map : Nat) (key : KeyState) : State :=
  { (((State.reset.rimWrite 0x300000 128 record).rimWrite 0x300080 128 desc).rimWrite 0x300100 4 map).modCtx 5 (fun c =>
      { c with regs := { c.regs with recAddr := 0x300000 } }) with keys := [(7, { owner := 5, st := key, key := 1 })] }
def goodRecord : Nat := 0x300080 + 2 ^ 448 + 2 ^ 472 + 9 * 2 ^ 768
def goodDesc : Nat := 0x300100 * 2 ^ 256 + 2 ^ 320 + 7 * 2 ^ 368
def goodMap : Nat := 1 + 7 * 2 ^ 19

theorem witness_ContextsAreCreated :
    (let s := creating goodRecord goodDesc goodMap .loaded
     (s.ctx 5).regs.st = .none ∧ (s.ctx 5).regs.busy = false ∧ phys s (s.ctx 5).regs.recAddr 128 = goodRecord ∧ recordBad goodRecord = false ∧
     phys s (goodRecord % 2 ^ 64) 128 = goodDesc ∧ descBad goodDesc = false ∧ s.keyOk 5 (goodDesc / 2 ^ 368 % 2 ^ 12) = true ∧
     s.mapBad 5 [BitVec.ofNat 32 goodMap] = false ∧ phys s 0x300100 4 = goodMap ∧ goodDesc / 2 ^ 320 % 2 ^ 32 + goodDesc / 2 ^ 352 % 2 ^ 8 = 1) ∧
    (recordBad 0 = true ∧ descBad (2 ^ 384) = true ∧ (creating goodRecord goodDesc goodMap .empty).keyOk 5 7 = false ∧
      (creating goodRecord goodDesc 0 .loaded).mapBad 5 [0] = true) := by
  unfold phys; decide +kernel

/-- The context of the demo machine in a state. -/
def inState (st : CtxState) (busy : Bool := false) (f : Ctx → Ctx := fun c => c) : State := onCtx (fun c => f { c with regs := { c.regs with st := st, busy := busy } })

theorem witness_ContextCommandsAct :
    (((inState .live true).ctx 0).regs.busy = true ∧ ((inState .none).ctx 0).regs.busy = false ∧ ((inState .live).ctx 0).regs.st = .live ∧
      ((inState .suspended).ctx 0).regs.st = .suspended ∧ ((inState .tearing).ctx 0).regs.st = .tearing) ∧
    ((∃ p ∈ ((inState .live).ctx 0).vts, p.2.loc = .resident ∧ p.2.halted = false) ∧ ((inState .live false (fun c => { c with vts := [] })).ctx 0).vts = []) := by
  decide +kernel

/-- R312, R313: an idle queue and one that is not; BASE on a multiple of the ring and off it; LOGN 16 and 17; a TAIL that fills the ring and one past it. -/
theorem witness_LaunchQueueRegistersAreWritten :
    (let x := (inState .suspended).queue 0 15
     x.tail = x.head ∧ x.head = x.prog ∧ (inState .suspended).activeQueues.length < 512 ∧ ((inState .suspended).ctx 0).regs.st = .suspended ∧ (0 : Nat) < 256) ∧
    (16 ≤ 16 ∧ 0x400000 / 2 ^ 6 % 2 ^ 47 * 64 % (64 * 2 ^ 16) = 0 ∧ ¬(17 ≤ 16) ∧ 0x40 / 2 ^ 6 % 2 ^ 47 * 64 % (64 * 2 ^ 1) ≠ 0) ∧
    ((((1 : Int) - 0) % 2 ^ 32).toNat + (((0 : Int) - 0) % 2 ^ 32).toNat ≤ 2 ^ 0 ∧ ¬((((2 : Int) - 0) % 2 ^ 32).toNat + (((0 : Int) - 0) % 2 ^ 32).toNat ≤ 2 ^ 0)) := by
  decide +kernel

/-- R302: a request register that is free and one that is busy, with a range and without. -/
def requesting (len : Nat) (busy : Bool) : State := { demo with regs := { ModRegs.reset with tinvLen := len, tinvBusy := busy } }

theorem witness_InvalidationsAct :
    ((requesting 0 true).regs.tinvBusy = true ∧ (requesting 0 false).regs.tinvBusy = false ∧ (requesting 0 false).regs.tinvLen = 0 ∧
      0 < (requesting 1 false).regs.tinvLen ∧ ((requesting 1 false).ctx 0).regs.st ≠ .none) ∧
    (∀ p ∈ (requesting 0 true).ctxs, ∀ q ∈ p.2.vts, q.2.copies = [] ∧ q.2.mx.run.segs = []) ∧
    (let g := { seg 0 64 (.ready 0x200000) with dying := true, page := ⟨0, 0, 8192⟩ }
     let s := copying (landing .read [g])
     (∃ p ∈ s.ctxs, ∃ q ∈ p.2.vts, ∃ c ∈ q.2.copies, c.finished = false ∧ c.op = .read ∧ c.segs = [g]) ∧ g.st = .ready 0x200000 ∧ g.dying = true ∧
       0 < g.page.size) := by decide +kernel

/-- A context image at 0x400000 with a version, a generation and features. -/
def imaged (version live : Nat) : State := State.reset.rimWrite 0x400000 64 (version + 3 * 2 ^ 32 + live * 2 ^ 128)

theorem witness_KeysFeaturesAndImages :
    ((Tbl.getD State.reset.keys 4095 KeySlot.blank).st = .empty ∧ (Tbl.getD (creating 0 0 0 .loaded).keys 7 KeySlot.blank).st = .loaded) ∧
    (let s := { onCtx (fun c => { c with desc := { c.desc with cmap := [BitVec.ofNat 32 goodMap] } }) with keys := [(7, { owner := 0, st := .zeroising, key := 1 })] }
     (Tbl.getD s.keys 7 KeySlot.blank).st = .zeroising ∧ (s.ctx 0).mapEntry 0xFFFFF / 2 ^ 19 % 2 ^ 12 = 7 ∧ 0xFFFFF / 2 ^ 20 < (s.ctx 0).desc.cmap.length) ∧
    (((2 : Word).getLsbD 0 = false) ∧ (∀ p ∈ State.reset.ctxs, p.2.regs.st = .none) ∧ (∃ p ∈ demo.ctxs, p.2.regs.st ≠ .none)) ∧
    (((imaged 1 1).ctx 5).regs.st = .none ∧ phys (imaged 1 1) 0x400000 64 = 1 + 3 * 2 ^ 32 + 2 ^ 128 ∧
      (1 : Word) &&& ~~~(BitVec.ofNat 64 (imaged 1 1).featp &&& ~~~(imaged 1 1).ident.featm) = 0 ∧
      (2 ^ 63 : Word) &&& ~~~(BitVec.ofNat 64 (imaged 1 1).featp &&& ~~~(imaged 1 1).ident.featm) ≠ 0 ∧ phys (imaged 2 0) 0x400000 64 % 2 ^ 32 = 2) := by
  unfold phys; decide +kernel

/-! ## Witnesses: the croft, recovery, errors (chapters 12 to 14) -/

theorem witness_CroftPortsAct :
    (((commons1).ctx 0).regs.st = .live ∧ (0 : Nat) / 2 ^ 29 % 2 ^ 3 = 0 ∧ 0 % 2 ^ 24 < ((commons1).ctx 0).desc.vx * ((commons1).ctx 0).desc.vy ∧
      ¬(1 < ((commons1).ctx 0).desc.vx * ((commons1).ctx 0).desc.vy) ∧ ((commons1).ctx 0).regs.sseq < 2 ^ 32 ∧
      0xFFFF8 + 8 ≤ ((commons1).ctx 0).desc.cpsize * 2 ^ 20 ∧ ¬(0x100000 + 8 ≤ ((commons1).ctx 0).desc.cpsize * 2 ^ 20) ∧ 4 % 8 ≠ 0 ∧
      ((commons1).ctx 0).holding = [] ∧ ((commons1).ctx 0).wtags = []) ∧ LineSound (commons1) 0 32 :=
  ⟨by decide +kernel, by unfold LineSound; decide +kernel⟩

/-- A croft whose egress buffer is full, hart 31 halted and hart 0 past a FENCE with W; hart 0's window leads to a module without a route. -/
def croftAt : State := { demo with
  croft := { demo.croft with egress := List.replicate Config.egressRoom ⟨0, 0, 0, 0⟩, fenced := [0], xwin := [(1, 5)] },
  crook := { demo.crook with hartHalted := [31] } }

theorem witness_HartsLoadAndStore : setHas demo.crook.hartHalted 31 = false ∧ Tbl.sorted demo.rim.mem = true ∧ demo.croft.faulted.Pairwise (· < ·) ∧
    demo.rim.poison = [] ∧ (0x17FFFFFFFF8 : Word).toNat + 8 ≤ 0x18000000000 ∧ ((2 ^ 54 : Word).toNat < 2 ^ 55 ∧ 2 ^ 54 ≤ (2 ^ 54 : Word).toNat) ∧
    2 ^ 56 ≤ (2 ^ 56 : Word).toNat ∧ Config.egressRoom ≤ croftAt.croft.egress.length ∧
    (setHas croftAt.crook.hartHalted 0 = false ∧ setHas croftAt.crook.hartHalted 31 = true ∧ setHas croftAt.croft.fenced 0 = true) ∧
    (let pa : Word := 2 ^ 55 + 2 ^ 54
     let m := (Tbl.getD croftAt.croft.xwin (2 * 0 + pa.toNat / 2 ^ 54 % 2) 0).toNat
     2 ^ 55 ≤ pa.toNat ∧ pa.toNat < 2 ^ 56 ∧ m ≠ croftAt.fabric.ctl.toNat % 2 ^ 10 ∧ (Tbl.getD croftAt.fabric.routes (2 * m + 1) 0).getLsbD 0 = false) := by
  refine ⟨by decide +kernel, by decide +kernel, by decide +kernel, by decide +kernel, by decide, by decide, by decide, ?_, by decide +kernel, by decide +kernel⟩
  rw [show croftAt.croft.egress = List.replicate Config.egressRoom ⟨0, 0, 0, 0⟩ from rfl, List.length_replicate]

/-- R410: a cut is due; a cut under way with everything at rest; a point that waits for its commit; a committed point. -/
def aPoint : Snapshot :=
  { rpn := 1, ctxs := [(0, Ctx.blank)], tiles := [], rim := ⟨[], [], []⟩, keys := [], croft := .reset, regs := .reset, crook := .reset, kernels := [], headers := [] }
def cutting (b : Bool) (p c : Option Snapshot) : State :=
  { onCtx (fun c => { c with regs := { c.regs with rp := true } }) with
    fabric := { Fabric.reset with ctl := 2 ^ 10, rpint := 1 }, ambient := { demo.ambient with time := 1250000 },
    recovery := { Recovery.reset with cutting := b, pending := p, committed := c } }

theorem witness_PointsAreCutCommittedAndRestored :
    ((cutting false none none).recovery.cutting = false ∧ (cutting false none none).fabric.ctl.getLsbD 10 = true ∧
      (cutting false none none).fabric.rpint ≠ 0 ∧
      (cutting false none none).fabric.since + (cutting false none none).fabric.rpint.toNat * 1250000 ≤ (cutting false none none).ambient.time ∧
      (cutting false none none).recovery.lastCut < pointTime (cutting false none none)) ∧
    ((cutting true none none).recovery.cutting = true ∧ (∀ p ∈ (cutting true none none).rpCtxs, (cutting true none none).atRest p.1 = true) ∧
      (cutting true none none).rpCtxs ≠ []) ∧
    ((cutting false (some aPoint) none).recovery.pending = some aPoint ∧ (cutting false none none).recovery.committed = none ∧
      (cutting false none (some aPoint)).recovery.committed = some aPoint ∧ ((cutting false none (some aPoint)).ctx 0).regs.rp = true ∧
      (cutting false none (some aPoint)).ctxs.length = 1) := by
  unfold pointTime; decide +kernel

theorem witness_CutsWaitForTheirCommit : (cutting false none none).recovery.pending = none ∧ (cutting false (some aPoint) none).recovery.pending ≠ none ∧
    (cutting false (some aPoint) none).recovery.cutting = false := by decide +kernel

/-- An image of a header alone, whose digest is that of no bytes, signed with a key. An empty slot does not verify. -/
def aSecret : List Byte := List.replicate 57 7
def headerHead : List Byte := List.replicate 16 0 ++ shake256 [] 64
def headerImage : List Byte := headerHead ++ ed448Sign aSecret headerHead ++ List.replicate 62 0
def keyed : Ident := { State.reset.ident with publicKey := edPublic aSecret, minSvn := 0 }

theorem witness_BootAndMeasurement : Verifies keyed headerImage ∧ ¬Verifies State.reset.ident State.reset.ident.slotA ∧ State.reset.ident.booted = false := by
  refine ⟨?_, fun h => absurd h.1 (by decide +kernel), by decide +kernel⟩
  unfold Verifies
  decide +kernel

/-- R405: the blank message of RFC 8032, 7.4, with its public key and its signature. -/
theorem test_ed448_blank : ed448Holds (toBytes 57
      0x806125e8afbe1afad16c0fe5f13d78d61b06c7469b7624f1ed7867e9805da70e8a1f0ea7852434a11d6ad46a61ec87e72cfd61b4599b44d75f) []
    (toBytes 114 0x0026652eff0858d9718c2663735af04911b6dbf4a013a13085dacdc7c59ab92d8504410bc08d5d925b342d1c5d6c003ef69d8ab1d428200dff8039fd1ba2d09bc528787dd4dd227afdf28182624f033f232b1f591ad423d84f07d2343e844a50fb2dae76f9880d3c021f2557e4bbf6373a53) = true := by
  decide +kernel

theorem witness_ErrorsAreHandled :
    (let s := onVt (fun t => { t with marks := [(511, .correctable)] })
     s.hasVt v0 = true ∧ (s.slot s0).status ≠ .free ∧ (s.ctx 0).regs.st ≠ .none ∧ Tbl.find? (s.vt v0).marks (4095 / 8) = some .correctable ∧
     Tbl.sorted (s.vt v0).marks = true ∧ s.croft.elog = [] ∧ Tbl.find? (s.vt v0).marks (0 / 8) = none) ∧
    (let s := onVt (fun t => { t with marks := [(511, .poison)] }); Tbl.find? (s.vt v0).marks (4088 / 8) = some .poison) ∧
    (let s := { demo with rim := { demo.rim with weak := [3] } }; s.rim.weak = [255 / 64] ∧ s.rim.poison = []) := by decide +kernel

/-- A module whose one valid route leads through port 63. -/
def linked : State := { demo with fabric := { Fabric.reset with portUp := 2 ^ 63, routes := [(2, 2 ^ 63), (3, 1)] } }

theorem witness_ErrorsLinksAndBackgroundActivity : 8 ≤ 8 ∧ 8 < 9 ∧ linked.croft.elog = [] ∧
    (let up := linked.fabric.portUp &&& ~~~(1#64 <<< 63)
     (Tbl.getD linked.fabric.routes (2 * 1 + 1) 0).getLsbD 0 = true ∧ Tbl.getD linked.fabric.routes (2 * 1) 0 &&& up = 0 ∧
     Tbl.getD linked.fabric.routes (2 * 1) 0 &&& linked.fabric.portUp ≠ 0) := by decide +kernel

/-! ## A witness of the invariant -/

theorem vtileCanonical_of {t : Vtile} (h : t.sp.wf = true ∧ t.mx.bstore.wf = true ∧ Tbl.sorted t.mx.acc = true ∧ (∀ c ∈ t.mx.acc, c.2 ≠ 0) ∧
    t.fe.Pairwise (· < ·) ∧ t.spOut.Pairwise (· < ·) ∧ t.mx.bsOut.Pairwise (· < ·) ∧ Tbl.sorted t.marks = true) : VtileCanonical t := h

/-- The placed machine is in canonical form, and its next step issues an instruction. -/
theorem witness_EveryStepKeepsTheCanonicalForms : Canonical placed ∧ (match step placed with | .next _ => true | _ => false) = true := by
  refine ⟨⟨by decide +kernel, ?_, by decide +kernel, ?_⟩, by decide +kernel⟩
  · have h : ∀ p ∈ placed.ctxs, p.2.commons.wf = true ∧ ∀ q ∈ p.2.vts, q.2.sp.wf = true ∧ q.2.mx.bstore.wf = true ∧ Tbl.sorted q.2.mx.acc = true ∧
        (∀ c ∈ q.2.mx.acc, c.2 ≠ 0) ∧ q.2.fe.Pairwise (· < ·) ∧ q.2.spOut.Pairwise (· < ·) ∧ q.2.mx.bsOut.Pairwise (· < ·) ∧
        Tbl.sorted q.2.marks = true := by decide +kernel
    exact h
  · intro p hp
    have h : placed.recovery.committed = none ∧ placed.recovery.pending = none := by decide +kernel
    rw [h.1, h.2] at hp
    rcases hp with hp | hp <;> cases hp

/-! ## Witnesses: loading (chapter 13) -/

/-- A container of one function that names no image, and one data section in the shared unit, of the alignment and place given (R371, R372, R375). -/
def tinyContainer (align pref : Nat) : List Byte :=
  toBytes 4 0x54535754 ++ toBytes 2 1 ++ toBytes 2 1 ++ toBytes 4 1 ++ toBytes 4 0 ++ toBytes 8 64 ++ toBytes 8 0 ++ toBytes 8 112 ++ toBytes 8 0 ++
    toBytes 16 0 ++ (toBytes 4 0 ++ [2, BitVec.ofNat 8 align] ++ toBytes 2 0 ++ toBytes 8 128 ++ toBytes 8 8 ++ toBytes 8 pref ++ toBytes 16 0) ++
    toBytes 16 0 ++ toBytes 8 0x1234
def noPlan : LoadPlan := ⟨[], [], [], 0, [], 0⟩

/-- What the loader makes of it. -/
def tinyStaged (align pref : Nat) : Option (Except LoadStatus (Staged × Nat)) :=
  (readContainer (tinyContainer align pref) 0).map (fun c => demo.stage (demo.ctx 0).desc c noPlan 0 Placed.none 0 3)

theorem witness_ContainersAreLoaded : (demo.ctx 0).regs.st ≠ .none ∧ noPlan.metaVa % 64 = 0 ∧ readContainer [] noPlan.pfTab = none ∧
    (match tinyStaged 3 4 with | some (.error e) => e == .place | _ => false) = true ∧
    (match tinyStaged 3 8 with | some (.ok _) => true | _ => false) = true := by decide +kernel

def tinyCont : Cont := (readContainer (tinyContainer 3 8) 0).getD ⟨[], [], [], [], []⟩
theorem witness_ContainersAreLoadedToTheEnd :
    (match tinyStaged 3 8 with
      | some (.ok (g, _)) => (Loading.functions 0 (tinyContainer 3 8) tinyCont noPlan ⟨g.place, g.parts noPlan⟩
          ((List.range tinyCont.fns.length).zip tinyCont.fns)
          ⟨(demo.writeTexts (demo.ctx 0).desc noPlan g.secs).invInsn 0, g.place.texts, 0, []⟩).isSome
      | _ => false) = true := by decide +kernel

/-- A section of a kind at an address, of a unit, with records. -/
def aSec (kind unit pref : Nat) (data : List Byte) (rels : List Rel := []) (align : Nat := 3) (idx : Nat := 0) : Sec :=
  { idx := idx, kind := kind, align := align, unit := unit, size := data.length, pref := pref, data := data, rels := rels }
def aRel (offset kind field : Nat) (sym : Nat := 0) : Rel := { offset := offset, kind := kind, field := field, rsv := 0, sym := sym, addend := 4 }

/-- A text of one line and eight bytes of data, at the end of the scratchpad or just beyond. -/
def textAndData (pref : Nat) : List Sec := [aSec 1 1 0x40000 (toBytes 64 0) [aRel 0 4 3] 6, aSec 2 1 pref (toBytes 8 7) [] 3 1]

/-- A code symbol, one that the launcher binds, one of another unit, and data. -/
def someSyms : Cont :=
  { secs := [aSec 1 1 0x40000 (toBytes 64 0), aSec 2 2 0 (toBytes 8 7), aSec 2 0 8 (toBytes 8 7)],
    syms := [⟨[], 0, 1, 3⟩, ⟨[1], 0xFFFF, 2, 0⟩, ⟨[], 1, 0, 0⟩, ⟨[], 2, 0, 4⟩, ⟨[1], 2, 2, 0⟩], fns := [], imgs := [], pfs := [] }
def somePlace : Placed := ⟨[(0, 0x40000), (2, 8)], 16, [0], [], []⟩
def binding : LoadPlan := { noPlan with ports := [([1], 9)] }

theorem witness_UnitsArePlacedAndSymbolsResolved :
    (let secs := textAndData 0x3FFFF8
     let texts := (secs.filter (fun x => x.kind == 1)).map (fun x => (placeOf noPlan x, x.data.length))
     let pads := [(0x3FFFF8, 8), (0, 8)]
     (∀ x ∈ secs, x.kind ≠ 4 → placeOf noPlan x % 2 ^ x.align = 0) ∧ gotSyms secs = [0] ∧ (∀ r ∈ pads, r.1 + r.2 ≤ 0x400000) ∧
     texts = [(0x40000, 64)] ∧ (demo.translateInsn (demo.ctx 0).desc (0x40000 + 64 * 0) matches .ok _) = true ∧
     pads.Pairwise (fun r q => ¬(r.2 ≠ 0 ∧ q.2 ≠ 0 ∧ r.1 < q.1 + q.2 ∧ q.1 < r.1 + r.2)) ∧ (∀ x ∈ secs, x.kind ≠ 4) ∧
     (demo.placeUnit (demo.ctx 0).desc noPlan 1 secs Placed.none).isSome = true) ∧
    (¬(∀ r ∈ [(0x400000, 8)], r.1 + r.2 ≤ 0x400000) ∧ demo.placeUnit (demo.ctx 0).desc noPlan 1 (textAndData 0x400000) Placed.none = none) ∧
    ((binding.ports.find? (fun q => q.1 == [1])).map (fun q => q.2.toNat) = some 9 ∧ (noPlan.ports.find? (fun q => q.1 == [1])) = none ∧
      (someSyms.syms[1]?.map Sym.sect = some 0xFFFF) ∧ (someSyms.secs[1]?.map Sec.unit = some 2) ∧
      somePlace.addr.find? (fun q => q.1 == 0) = some (0, 0x40000) ∧ somePlace.addr.find? (fun q => q.1 == 2) = some (2, 8)) ∧
    (gotBytes someSyms noPlan somePlace 1 [0, 3] matches .ok _) = true := by decide +kernel

/-- Words with a short immediate in move 0 and in move 2; of MW, MH and `rep`. -/
def shortWord : Nat := 2 ^ (62 + 26) + 2 ^ 26
def mwWord : Nat := 2 * 2 ^ 93
def mhWord : Nat := 2 ^ 93
def repWord : Nat := 3 * 2 ^ 93 + 5 * 2 ^ 25

/-- One metadata record of a type with a payload of n bytes. -/
def aMeta (type n : Nat) : List Byte := toBytes 2 type ++ toBytes 2 n ++ toBytes 4 0 ++ toBytes n 0

theorem witness_RelocationsWriteTheirFields :
    (let d := toBytes 48 0 ++ toBytes 12 shortWord ++ toBytes 4 0
     (aRel 48 1 0).offset + 12 ≤ d.length ∧ (48 % 64 % 12 = 0 ∧ 48 % 64 < 60) ∧ 60 % 64 % 12 = 0 ∧ 60 ≤ 60 % 64 ∧ fld d 48 12 = shortWord) ∧
    (0 < movesOf shortWord ∧ 2 < movesOf shortWord ∧ shortWord.testBit (62 - 31 * 0 + 26) = true ∧ shortWord.testBit (62 - 31 * 2 + 26) = true ∧
      ¬(shortWord.testBit (62 - 31 * 1 + 26) = true)) ∧
    (mwWord / 2 ^ 93 % 8 = 2 ∧ mhWord / 2 ^ 93 % 8 = 1 ∧ repWord / 2 ^ 93 % 8 = 3 ∧ repWord / 2 ^ 25 % 2 ^ 5 = 5) ∧
    (HiFits (-(2 ^ 31) - 2048) ∧ HiFits (2 ^ 31 - 2049) ∧ ¬HiFits (2 ^ 31 - 2048) ∧ LowOf 2048 (-2048) ∧ LowOf 2047 2047) ∧
    (((-1 : Int) % 2 ^ 64 ≥ 2 ^ 55) ∧ (2 ^ 55 - 1 : Int) % 2 ^ 64 < 2 ^ 55 ∧ (2 ^ 56 - 1 : Int) % 2 ^ 64 < 2 ^ 56 ∧ (2 : Int) ^ 56 ≤ 2 ^ 56 % 2 ^ 64) ∧
    (((recordsOf (aSec 4 0 0 (aMeta 6 16))).find? (fun m => m.off == 0)).map MetaRec.type = some 6 ∧
      ((recordsOf (aSec 4 0 0 (aMeta 3 16))).find? (fun m => m.off == 0)).map MetaRec.type = some 3) := by
  unfold HiFits LowOf recordsOf; decide +kernel

theorem witness_RelocationsApplyInOrder :
    PairOf (aRel 12 3 0) (aRel 0 2 3) ∧ ¬PairOf (aRel 12 5 0) (aRel 0 2 3) ∧ SamePlace (aRel 8 1 4) (aRel 8 6 7) ∧ ¬SamePlace (aRel 8 1 4) (aRel 16 1 4) ∧
    (resolve someSyms noPlan somePlace 1 0 matches .ok (20483, 1)) = true ∧ (resolve someSyms noPlan somePlace 1 2 matches .error _) = true ∧
    somePlace.syms[0]? = some 0 ∧ (relocUnit someSyms noPlan somePlace 1 [aSec 2 1 0 (toBytes 8 7) [aRel 0 1 4]] matches .ok _) = true := by
  unfold PairOf SamePlace; decide +kernel

/-- A container whose unit 1 has these sections. -/
def unit1 (secs : List Sec) : Cont := { someSyms with secs := secs }

/-- A text whose line claims a deprecated trigger and has none; an item of a symbol that is not bound; a reserved OPS bit; a form of class 2 that claims 0. -/
theorem witness_UnitsAreCheckedAndClassed :
    demo.placeUnit (demo.ctx 0).desc noPlan 1 ((unit1 (textAndData 0x400000)).unit 1) Placed.none = none ∧
    (demo.placeUnit (demo.ctx 0).desc noPlan 1 [aSec 1 1 0x40000 (toBytes 60 0 ++ toBytes 4 (2 ^ 14)) [] 6] Placed.none).isSome = true ∧
    lifeStatus false [toBytes 60 0 ++ toBytes 4 (2 ^ 14)] = some .life ∧ lifeStatus false [toBytes 64 0] = none ∧
    (relocUnit (unit1 []) noPlan somePlace 1 [aSec 2 1 0 (toBytes 8 7) [aRel 0 0 4]] matches .error _) = true ∧
    (gotBytes someSyms noPlan somePlace 1 [1] matches .error _) = true ∧
    (match demo.stage (demo.ctx 0).desc (unit1 [aSec 2 1 0 (toBytes 8 7)]) noPlan 1 Placed.none 32 3 with | .error e => e == .metaBad | _ => false) = true ∧
    (match demo.stage (demo.ctx 0).desc (unit1 [aSec 2 1 0 (toBytes 8 7)]) noPlan 1 Placed.none 8 0 with | .error e => e == .promise | _ => false) = true ∧
    (match demo.stage (demo.ctx 0).desc (unit1 [aSec 2 1 0 (toBytes 8 7)]) noPlan 1 Placed.none 2 3 with | .ok (_, k) => k == 1 | _ => false) = true := by
  decide +kernel

/-- A unit of one item of data, and a template whose last pattern takes, as its last pair, from a port with ORD = 0. -/
def dataUnit : Staged := ⟨Placed.none, [aSec 2 1 0 (toBytes 8 7)], [], []⟩
def unorderedTemplate : Template := { recTemplate [] default with pats := List.replicate 31 0 ++ [2 ^ 40 + 2 ^ 32] }

theorem witness_ClassesOfUnits : (ClassBound dataUnit 0 0 ∧ ∀ j, ClassBound dataUnit 0 j → 0 ≤ j) ∧
    (ClassBound dataUnit 2 1 ∧ ∀ j, ClassBound dataUnit 2 j → 1 ≤ j) ∧ (ClassBound dataUnit 16 2 ∧ ∀ j, ClassBound dataUnit 16 j → 2 ≤ j) ∧
    TakesUnordered unorderedTemplate ∧ Claimed dataUnit 0 0 ∧ ∀ j, ¬Claimed dataUnit 3 j := by
  have hb : ∀ ops k, (Nat.testBit ops 1 = true ∨ Nat.testBit ops 2 = true → 1 ≤ k) → (Nat.testBit ops 3 = true ∨ Nat.testBit ops 4 = true → 2 ≤ k) →
      ClassBound dataUnit ops k := fun ops k h1 h2 =>
    ⟨fun x hx h => absurd h (by rw [List.mem_singleton.mp hx]; decide), h1, h2, fun ⟨v, hv, _⟩ => by cases hv⟩
  refine ⟨⟨hb _ _ (by decide) (by decide), fun _ _ => Nat.zero_le _⟩, ⟨hb _ _ (by decide) (by decide), fun j h => h.2.1 (by decide)⟩,
    ⟨hb _ _ (by decide) (by decide), fun j h => h.2.2.1 (by decide)⟩, ⟨31, by decide, by decide +kernel, 3, by decide, by decide +kernel, by decide +kernel⟩,
    ⟨by decide, .inl rfl⟩, ?_⟩
  rintro j ⟨h3, h | ⟨m, hm, -⟩⟩
  · exact h3 h
  · cases hm

/-- Metadata: a VTILE record, a FLOCK record of it and a HERD record of that flock. -/
def aRec (idx type : Nat) (body : List Byte) (owner : Nat := 0) : MetaRec :=
  { idx := idx, off := 0, type := type, len := body.length, owner := owner, body := body }
def aHerdUnit : Staged :=
  ⟨Placed.none, [], [], [(aSec 4 1 0 [], [aRec 0 1 (toBytes 16 0), aRec 1 2 (toBytes 24 0), aRec 2 3 (toBytes 4 0 ++ toBytes 4 1 ++ toBytes 8 9 ++ toBytes 4 1)])]⟩

theorem witness_TemplatesAndDescriptorsAreBuilt :
    (let rs := [aRec 0 1 (toBytes 16 0), aRec 1 4 (toBytes 4 31 ++ toBytes 12 5), aRec 2 4 (toBytes 4 31 ++ toBytes 12 6)]
     Fills rs (aRec 0 1 (toBytes 16 0)) 4 31 (aRec 2 4 (toBytes 4 31 ++ toBytes 12 6)) ∧ Unnamed rs (aRec 0 1 (toBytes 16 0)) 4 30) ∧
    [(8, [1]), (9, [2, 3])].Pairwise (fun (p q : Nat × List Byte) => ¬Meets (p.1, p.2.length) (q.1, q.2.length)) ∧
    (aHerdUnit.vtiles.map (fun v => (v.1, v.2.1.idx)) = [(0, 0)] ∧ aHerdUnit.herds.map (fun h => (h.1, h.2.f 4 4, h.2.f 16 4)) = [(0, 1, 1)] ∧
      (∀ f ∈ aHerdUnit.flocks, f.2.body.length = 24) ∧
      aHerdUnit.flocks.filter (fun f => f.1 == 0 && f.2.idx == 1) = [(0, aRec 1 2 (toBytes 24 0))] ∧ (aRec 1 2 (toBytes 24 0)).f 4 4 = 0) := by
  refine ⟨⟨⟨[aRec 0 1 (toBytes 16 0), aRec 1 4 (toBytes 4 31 ++ toBytes 12 5)], [], rfl, rfl, rfl, by decide, fun q hq => by cases hq⟩,
    by unfold Unnamed; decide⟩, ?_, by decide +kernel⟩
  unfold Meets; decide

/-- A function of one image, a text of one line. -/
def oneImage : Cont := { secs := [aSec 1 1 0x40000 (toBytes 64 0) [] 6], syms := [], fns := [⟨0, 1, 0, 0⟩], pfs := [], imgs := [⟨0, 1, 2, 3, 1, 3, 0, 0⟩] }

def loadingAt : Loading := ⟨tabled 0x200007, [], 64, []⟩
def oneByte : Shared := ⟨Placed.none, [(0, [7])]⟩

theorem witness_ImagesAreChosenAndWritten :
    (oneImage.candidates 0 false ⟨0, 1, 0, 0⟩).map Img.idx = [0] ∧
    (loadingAt.image 0 oneImage noPlan oneByte 0 ⟨0, 1, 0, 0⟩ ⟨0, 1, 2, 3, 1, 3, 0, 0⟩ true matches some (some _)) = true ∧
    (loadingAt.image 0 oneImage noPlan oneByte 0 ⟨0, 1, 0, 0⟩ ⟨0, 1, 2, 3, 1, 3, 0, 32⟩ true matches some none) = true ∧
    (match loadingAt.s.stage (loadingAt.s.ctx 0).desc oneImage noPlan 1 Placed.none 0 3 with
      | .ok (g, _) => decide ((emit g oneByte.parts noPlan 64 0 (oneImage.isKernel ⟨0, 1, 0, 0⟩)).1.length = 64) &&
          decide ((g.secs.filter (fun x => x.kind == 1)).length = 1)
      | _ => false) = true ∧
    (loadingAt.s.virtPieces (loadingAt.s.ctx 0).desc 64 64 matches .ok [(0x200040, 64)]) = true ∧ loadingAt.s.home 0x200040 = .rim 0x200040 ∧
    loadingAt.s.rim.mem.wf = true ∧ (loadingAt.s.translateInsn (loadingAt.s.ctx 0).desc 0x40000 matches .ok (0x40000, _)) = true ∧
    loadingAt.s.home 0x40000 = .rim 0x40000 ∧ 0x40000 + 64 ≤ 0x200040 := by
  decide +kernel

/-- FIPS 197, appendix C.3: AES with a key of 256 bits. -/
theorem test_aes256 : aes256 (List.range 32) ((List.range 16).map (fun i => 17 * i)) =
    [0x8e, 0xa2, 0xb7, 0xca, 0x51, 0x67, 0x45, 0xbf, 0xea, 0xfc, 0x49, 0x90, 0x4b, 0x49, 0x60, 0x89] := by decide +kernel

/-! ## One step, with the result that the spec works out -/

/-- The state that an outcome gives; a machine without contexts where it gives none. -/
def nextOf (o : Host.Outcome State Fault Refusal) : State :=
  match o with
  | .next t => t
  | _ => State.reset

/-- What the slot's latest operation answers. -/
def answer (t : State) : Option Landing := ((me t).ops.getLast?).bind Flight.res

/-- Chapter 04, the saturating sum: 2,000,000,000 + 1,000,000,000 clamps to 2,147,483,647 with SAT and NX and one count. -/
theorem test_adds_clamps : answer (nextOf (exec (.aluAdds false 1) (withLat .alu0 1000000000 2000000000 0))) =
    some (givesQ 2147483647 ⟨flagSAT ||| flagNX, 1⟩) := by decide +kernel
/-- The same chapter: the third term, minus 700,000,000, does not clamp (the hexadecimal number that the chapter prints for it is another). -/
theorem test_adds_signed : answer (nextOf (exec (.aluAdds false 1) (withLat .alu0 (2 ^ 32 - 700000000) 2147483647 0))) = some (givesQ 1447483647) := by
  decide +kernel
/-- R110: shr and sra of minus 8 in 16 bits by 1; the result of a signed code is extended by its sign. -/
theorem test_shifts : answer (nextOf (exec (.aluShr true 2) (withLat .alu1 0xFFF8 1 0))) = some (givesQ 0x7FFC) ∧
    answer (nextOf (exec (.aluSra true 2) (withLat .alu1 0xFFF8 1 0))) = some (givesQ 0xFFFFFFFFFFFFFFFC) := by decide +kernel
/-- R110: bfx of 4 bits at position 4 of 0xF0, signed; POS in `.b` bits 5 to 0 and LEN from bit 6. -/
theorem test_bfx_extends : answer (nextOf (exec (.aluBfx false 0) (withLat .alu0 0xF0 (4 + 4 * 64) 0))) = some (givesQ 0xFFFFFFFFFFFFFFFF) := by
  decide +kernel
/-- R110: leading zeros of 1 in 8 bits, trailing zeros of 0 in 32, ones of 0xFF01 in 16, the bytes of 0x1234 swapped. -/
theorem test_counts : answer (nextOf (exec (.aluClz false 3) (withLat .alu0 1 0 0))) = some (givesQ 7) ∧
    answer (nextOf (exec (.aluCtz false 1) (withLat .alu0 0 0 0))) = some (givesQ 32) ∧
    answer (nextOf (exec (.aluPopc false 6) (withLat .alu0 0xFF01 0 0))) = some (givesQ 9) ∧
    answer (nextOf (exec (.aluBswap false 6) (withLat .alu0 0x1234 0 0))) = some (givesQ 0x3412) := by decide +kernel
/-- Chapter 12: x3 = 100 divided by x2 = 7; R113: minus 7 by 2 goes towards zero; R114: a divisor of 0. -/
theorem test_divisions : answer (nextOf (exec (.mulDiv 0) (withLat .mul 100 7 0))) = some (givesQ 14) ∧
    answer (nextOf (exec (.mulRem 3) (withLat .mul 0xF9 2 0))) = some (givesQ 0xFFFFFFFFFFFFFFFF) ∧
    answer (nextOf (exec (.mulDiv 7) (withLat .mul 5 0 0))) = some (givesQ 0xFF (evFlags flagDZ)) := by decide +kernel
/-- R113: the high half of 2^63 squared, unsigned; the product of minus 1 and minus 1 over 128 bits. -/
theorem test_products : answer (nextOf (exec (.mulMulh 4) (withLat .mul (2 ^ 63) (2 ^ 63) 0))) = some (givesQ (2 ^ 62)) ∧
    answer (nextOf (exec (.mulMulw 0) (withLat .mul 0xFFFFFFFFFFFFFFFF 0xFFFFFFFFFFFFFFFF 0))) = some ⟨some 1, some 0, evNone⟩ := by decide +kernel
/-- R115: a row stride of 3 with 8-byte elements, row 2, column 5: 1000 + 2 · 3 + 5 · 8. -/
theorem test_agu : answer (nextOf (exec (.aguIdx2 0) (withLat .agu (2 * 2 ^ 32 + 5) 1000 (3 * 2 ^ 32 + 3)))) = some (givesQ (1000 + 2 * 3 + 5 * 8)) ∧
    answer (nextOf (exec (.aguWrap 0) (withLat .agu 99 100 10))) = some (givesQ 109) := by decide +kernel

/-- Chapter 02: 1.0 + 2.0 is 3.0; the tie 2^24 + 1 goes to the even significand with NX, and to 2^24 + 2 upwards. -/
theorem test_fpu_add : answer (nextOf (exec (.fpuAdd 0 0) (withLat .fpu 0x3F800000 0x40000000 0))) = some (givesQ 0x40400000) ∧
    answer (nextOf (exec (.fpuAdd 0 0) (withLat .fpu 0x4B800000 0x3F800000 0))) = some (givesQ 0x4B800000 (evFlags flagNX)) ∧
    answer (nextOf (exec (.fpuAdd 0 1) (withLat .fpu 0x4B800000 0x3F800000 0))) = some (givesQ 0x4B800000 (evFlags flagNX)) := by decide +kernel
/-- R147: 1.0 divided by 0 is infinity with DZ; the root of 4.0 is 2.0; 0 times infinity in an fma is the default NaN with NV. -/
theorem test_fpu_specials : answer (nextOf (exec (.fpuDiv 0 0) (withLat .fpu 0x3F800000 0 0))) = some (givesQ 0x7F800000 (evFlags flagDZ)) ∧
    answer (nextOf (exec (.fpuSqrt 0 0) (withLat .fpu 0x40800000 0 0))) = some (givesQ 0x40000000) := by decide +kernel
/-- Chapter 05: the ordered sum of 2^24, 1, 1 and minus 2^24 is +0, with NX. -/
theorem test_redadd_ordered : answer (nextOf (exec (.vecRedaddO 0 0) (withLat .vec 0xCB8000003F8000003F8000004B800000 4 0))) =
    some ⟨some 0, none, evFlags flagNX⟩ := by decide +kernel
/-- R67: the second arrival of the worked example: (5, -22) added to (0, -20) gives (1, -20) with NX. -/
theorem test_bfalign : answer (nextOf (exec (.vecBfalign 0) (withLat .vec (0xFFFFFFEA * 2 ^ 64 + 5) (0xFFFFFFEC * 2 ^ 64) 0))) =
    some ⟨some (0xFFFFFFEC * 2 ^ 64 + 1), none, evFlags flagNX⟩ := by decide +kernel
/-- R66: DRAIN of 3.0 with scales 2^-3 and 2^2 gives 1.5, which is 0x48 in T8. -/
theorem test_drain_scales :
    let s := (mxAt 5).modVt v0 (fun t => { t with mx := { t.mx with
      queue := [{ mxCmd 5 with c := BitVec.ofNat 512 (5 + 4 * 2 ^ 448 + 2 ^ 483) }], acc := [(0, 0x40400000)], atag := [(0, .set (-3))], btag := [(0, .set 2)] } })
    (nextOf (exec (.drain v0) s)).spRead v0 0 1 = 0x48 := by decide +kernel

/-- Chapter 07: the arrival word of TARGET 20,000, CNT 0 and GEN 6 counts 4,096, 7,712 and 8,192 bytes and then reaches its target. -/
theorem test_arrivals :
    let s := (demo.spWrite v0 0x7FF0 4 20000).spWrite v0 0x7FF8 4 6
    let t := (s.arrive v0 0x7FF0 4096).arrive v0 0x7FF0 7712
    let u := t.arrive v0 0x7FF0 8192
    t.spRead v0 0x7FF4 4 = 11808 ∧ t.spRead v0 0x7FF8 4 = 6 ∧ u.spRead v0 0x7FF4 4 = 0 ∧ u.spRead v0 0x7FF8 4 = 7 := by decide +kernel
/-- Chapter 07: a read of 20,000 bytes from 0x1_0000_1000 has three segments. -/
theorem test_segments :
    let d := 0x100001000 + 0x8000 * 2 ^ 128 + 20000 * 2 ^ 160
    let s := (demo.spWrite v0 0x3F00 32 d).modSlot s0 (fun sl => { sl with lat := sl.lat.put .cpe ⟨0x3F00, 0, 0, 0, 0⟩ })
    (((nextOf (exec (.cpeRead 0) s)).vt v0).copies.flatMap Copy.segs).map (fun g => (g.addr, g.loc, g.len)) =
      [(0x100001000, 0x8000, 4096), (0x100002000, 0x9000, 8192), (0x100004000, 0xB000, 7712)] := by decide +kernel
/-- R119: `.s16` loads extend the sign; `.z16` loads do not. -/
theorem test_loads :
    let s := (demo.spWrite v0 8 2 0x8001).modSlot s0 (fun sl => { sl with lat := sl.lat.put .lsu ⟨8, 0, 0, 0, 0⟩ })
    answer (nextOf (exec (.lsuLd 2) s)) = some (givesQ 0xFFFFFFFFFFFF8001) ∧ answer (nextOf (exec (.lsuLd 6) s)) = some (givesQ 0x8001) := by
  decide +kernel
/-- R122: a.min of minus 1 with 1 in 8 signed bits keeps minus 1; in unsigned bits it writes 1. -/
theorem test_atomic_min :
    let s := (demo.spWrite v0 8 1 0xFF).modSlot s0 (fun sl => { sl with lat := sl.lat.put .lsu ⟨8, 1, 0, 0, 0⟩ })
    (nextOf (exec (.lsuAMin 3) s)).spRead v0 8 1 = 0xFF ∧ (nextOf (exec (.lsuAMin 7) s)).spRead v0 8 1 = 1 ∧
      answer (nextOf (exec (.lsuAMin 7) s)) = some (givesQ 0xFF) := by decide +kernel

/-- Chapter 12: the division of 100 by 7 under way, and the record of it in a trap frame, which says that it is issued again. -/
def dividing : State :=
  nextOf (exec (.mulDiv 0) ((trappable .ready).modSlot s0 (fun sl => { sl with ix := 11, lat := sl.lat.put .mul ⟨100, 7, 0, 0, 0⟩ })))
theorem test_record : (me dividing).ops.map (fun f => let b := recBytes (recOf f 0); (fld b 0 8, fld b 8 8, fld b 16 8, fld b 24 8)) =
    [(0x28042, 100, 7, 0)] := by decide +kernel

/-- Chapter 11: with AGEQ = 100 a flock of PRIO 6 is urgent after 800 µs of waiting, and not yet after 750. -/
theorem test_aging :
    let s (us : Nat) : State := { (demo.modFlock 0 0 (fun f => { f with st := .waiting, ready := true, prio := 6 })) with
      regs := { ModRegs.reset with cycle := us * 1250 } }
    (s 800).firstUrgent.isSome = true ∧ (s 750).firstUrgent.isSome = false := by
  decide +kernel

/-- Chapter 10: offset 0x0123_4A48 under the map entry 0x0063_2073 lies in bank 41 of fold 57, in line 12,813. -/
theorem test_bank_line :
    let c := ((onCtx (fun c => { c with desc := { c.desc with cmap := List.replicate 0x12 0 ++ [0x00632073] } })).ctx 0)
    c.bankOf 0x01234A48 = 57 * 256 + 41 ∧ c.bankLine 0x01234A48 = 12813 := by decide +kernel

/-- Chapter 03: 0x12345ABC splits into 0x12346 and minus 1,348; chapter 13: 76,476 into 19 and minus 1,348, and a handler entry for index 327,692. -/
theorem test_relocation : hi20 0x12345ABC = 0x12346 ∧ lo12 0x12345ABC = -1348 ∧ hi20 76476 = 19 ∧ lo12 76476 = -1348 ∧
    (match putItem 0 6 6 327692 with | .ok e => e == 0x0040000000400082 | .error _ => false) = true := by decide +kernel

/-- R128: `rep` of the next instruction, four times; R132: an arrival at a hurdle of a flock of one completes its phase. -/
theorem test_control : (me (nextOf (exec (.rep null p0 3 0 4) (onSlot (fun sl => { sl with ix := 6 }))))).rep = [⟨7, 9, 4⟩] ∧
    ((nextOf (exec (.harr null p0 3) demo)).flock 0 0).phase = 8 := by decide +kernel
/-- R203, R204: `send` to rank 0, port 3, incarnation 2, with two words. -/
theorem test_send :
    let s := sending 7 (3 * 2 ^ 24 + 2 * 2 ^ 32) 9
    ((nextOf (exec (.msgSend 0) s)).vt v0).outq.map (fun g => (g.drank, g.dport, g.dinc, g.payload)) = [(0, 3, 2, [7, 9])] := by decide +kernel
/-- R402: `halt #63` of a group that the context owns. -/
theorem test_halt : (nextOf (exec (.halt 63) { demo with crook := { demo.crook with owners := [(63, (0, false))] } })).crook.stopped = 2 ^ 63 := by
  decide +kernel

/-! ## The nodes of portable forms -/

/-- Two constants and their sum, a LOOP over c passes with a PHI, a SCALAR and FINISH. -/
def summing : Form :=
  { nodes := [⟨0, 0x0001, 0, 0, 0, 0, noVal, []⟩, ⟨1, 0x0001, 0, 0, 1, 8, noVal, []⟩,
      ⟨2, trigCode (.alu false .add) - 0x100, 0, 0, 2, 0, 1, []⟩, ⟨3, 0x0E01, 0, 0, noVal, 0, 5, []⟩,
      ⟨4, 0x0004, 0, 0, 3, 0, 3, [(1, noVal, noVal)]⟩, ⟨5, 0x0E04, 0, 0, noVal, noVal, noVal, []⟩,
      ⟨6, 0x1008, 0, 0, 4, 0, noVal, []⟩, ⟨7, 0x0002, 0, 0, 5, 9, noVal, []⟩, ⟨8, 0x0E08, 0, 0, noVal, 2, noVal, []⟩]
    count := 9, nval := 6, entry := 0, pool := toBytes 8 5 ++ toBytes 8 7 }

/-- A body of it at a node, with values and blocks. -/
def bodyAt (k : Nat) (vals : Vals := []) (blocks : List Block := []) (issued : Bool := false) : Body :=
  { Body.start summing (Vector.replicate 32 9) (Vector.replicate 16 0) with next := k, vals := vals, blocks := blocks, issued := issued }

def runOf (b : Body) (outer : List Body := []) : NodeRun := { bodies := b :: outer, copies := [] }
def noLib (_ : Nat) : Option Form := none

/-- What the next node gives: the values of the innermost body and the state. -/
def nodeNext (s : State) (run : NodeRun) : Option (Nat × Vals × State) :=
  match s.runNode s0 noLib run with
  | .next n t => n.bodies.head?.map (fun b => (b.next, b.vals, t))
  | _ => none

/-- R385: CONST reads the pool, little-endian; the operation adds 5 and 7 in ALU0; a PHI takes its third operand on a later pass. -/
theorem test_nodes : (nodeNext demo (runOf (bodyAt 1))).map (fun x => (x.1, x.2.1)) = some (2, [(1, 7)]) ∧
    ((nodeNext demo (runOf (bodyAt 2 [(0, 5), (1, 7)]))).bind (fun x => answer x.2.2)) = some (givesQ 12) ∧
    (nodeNext demo (runOf (bodyAt 4 [(0, 5), (1, 7)] [⟨3, 5, 1, 2⟩]))).map (fun x => x.2.1) = some [(0, 5), (1, 7), (3, 7)] := by
  decide +kernel
/-- R386: a tensor of 2 rows of 3 with strides 4 and 16: the element with linear index 4 is the second of the second row. -/
theorem test_tensor : (⟨0, 1, [3, 2, 1, 1], [4, 16, 0, 0], 0x100⟩ : Tensor).addr 4 = 0x114 := by decide +kernel

/-- PortableNodesAct: an operation node that fires and one whose result has landed, a CONST, a PARAM, a PHI on its first pass, and FINISH of a firing and of an
invocation. -/
theorem witness_portable_nodes :
    let s1 := demo.modSlot s0 ((bodyAt 2 [(0, 5), (1, 7)]).latches (summing.nodes.getD 2 default) .alu0)
    let k := meaningOf (.alu false .add) 0 5
    ((bodyAt 2).node = summing.nodes[2]? ∧ opTrig (summing.nodes.getD 2 default).op = some (.alu false .add) ∧ (me demo).landed .alu0 = true ∧
      demo.hasVt v0 = true ∧ s1.trigStalls s0 (.alu false .add) 0 = false ∧ k.stall s1 s0 = false ∧ k.check s1 s0 = none) ∧
    ((bodyAt 2 [] [] true).issued = true ∧ (summing.nodes.getD 2 default).dst ≠ noVal ∧ (summing.nodes.getD 2 default).dst2 = noVal) ∧
    ((bodyAt 0).node = summing.nodes[0]? ∧ (bodyAt 7).node = summing.nodes[7]? ∧ (bodyAt 4).node = summing.nodes[4]? ∧ (bodyAt 8).node = summing.nodes[8]?) ∧
    ((bodyAt 4 [] [⟨3, 5, 0, 2⟩]).blocks.map Block.head = [(summing.nodes.getD 4 default).a1]) ∧
    ((bodyAt 6).node.map Node.op = some 0x1008) := by decide +kernel
/-- PortableLoopsRunTheirPasses: a LOOP of five passes and of none. -/
theorem witness_portable_loops :
    let l := summing.nodes.getD 3 default
    let e := summing.nodes.getD 5 default
    l.op = 0x0E01 ∧ e.op = 0x0E04 ∧ l.a1 = e.idx ∧ summing.nodes.find? (fun m => m.idx == l.idx) = some l ∧
      ((Tbl.find? (bodyAt 3 [(0, 5)]).vals l.a0).getD 0).toNat = 5 ∧ ((Tbl.find? (bodyAt 3).vals l.a0).getD 0).toNat = 0 := by decide +kernel

/-- A SYS node, to fire in a user slot and in a supervisor's. -/
theorem witness_portable_privilege : opTrig (trigCode (.sys .cfgwr) - 0x100) = some (.sys .cfgwr) ∧ trigUnit (.sys .cfgwr) = .sys ∧
    ((withX 0 0 false).slot s0).sup = false ∧ ((withX 0 0 false).slot s0).landed .sys = true ∧ (demo.slot s0).sup = true := by decide +kernel

end Sys2Proof.Tests
end

section
/-!
SUPPORT. What a change of a vtile, of a slot or of an event leaves of the rest of the machine.
-/
namespace Sys2Proof.Proofs.Formats
open Sys2Proof Sys2Proof.Machine Sys2Proof.Claims

variable (s : State)

/-- Of a context, a change of a vtile touches the vtiles alone. -/
theorem ctx_modVt (v : VRef) (n : Nat) (f : Vtile → Vtile) : ∃ vts, (s.modVt v f).ctx n = { s.ctx n with vts := vts } := by
  unfold State.modVt
  by_cases hn : n = v.ctx
  · subst hn
    by_cases hs : (Tbl.find? s.ctxs v.ctx).isSome = true
    · exact ⟨_, State.ctx_inCtx_self _ _ _ hs⟩
    · have : Tbl.find? s.ctxs v.ctx = none := by simpa using hs
      exact ⟨(s.ctx v.ctx).vts, by simp [State.ctx, Tbl.getD, Tbl.find?_modify_self, this]⟩
  · exact ⟨(s.ctx n).vts, by simp [State.ctx_inCtx_ne _ hn]⟩

@[simp] theorem desc_modVt (v : VRef) (n : Nat) (f : Vtile → Vtile) : ((s.modVt v f).ctx n).desc = (s.ctx n).desc := by
  obtain ⟨vts, h⟩ := ctx_modVt s v n f; rw [h]

@[simp] theorem commons_modVt (v : VRef) (n : Nat) (f : Vtile → Vtile) :
    ((s.modVt v f).ctx n).commons = (s.ctx n).commons := by
  obtain ⟨vts, h⟩ := ctx_modVt s v n f; rw [h]

@[simp] theorem msgs_modVt (v : VRef) (n : Nat) (f : Vtile → Vtile) : ((s.modVt v f).ctx n).msgs = (s.ctx n).msgs := by
  obtain ⟨vts, h⟩ := ctx_modVt s v n f; rw [h]

@[simp] theorem image_modVt (v w : VRef) (f : Vtile → Vtile) : (s.modVt v f).image w = s.image w := by
  simp only [State.image, desc_modVt]; rfl

/-- A rank that is not populated reads as a fresh vtile, before and after. -/
theorem vt_modVt_absent {v : VRef} (f : Vtile → Vtile) (h : s.hasVt v = false) : (s.modVt v f).vt v = s.vt v := by
  have h0 : Tbl.find? (s.ctx v.ctx).vts v.rank = none := by simpa [State.hasVt] using h
  have h1 : Tbl.find? ((s.modVt v f).ctx v.ctx).vts v.rank = none := by
    simpa [State.hasVt, h0] using State.hasVt_modVt s v v f
  simp [State.vt, h0, h1]

/-- What a change keeps of every vtile, it keeps of the one that it is made to. -/
theorem vt_modVt_keeps {β : Type} (p : Vtile → β) (v w : VRef) {f : Vtile → Vtile} (hp : ∀ t, p (f t) = p t) :
    p ((s.modVt v f).vt w) = p (s.vt w) := by
  by_cases hw : w = v
  · subst hw
    cases hv : s.hasVt w with
    | false => rw [vt_modVt_absent s f hv]
    | true => rw [State.vt_modVt_self s w f hv, hp]
  · rw [State.vt_modVt_ne s f hw]

theorem slot_modVt (v : VRef) (q : SRef) {f : Vtile → Vtile} (hf : ∀ t, (f t).slots = t.slots) :
    (s.modVt v f).slot q = s.slot q := by
  unfold State.slot
  rw [vt_modVt_keeps s Vtile.slots v q.vt hf]

theorem spGet_modVt (v w : VRef) (a : Nat) {f : Vtile → Vtile} (hsp : ∀ t, (f t).sp = t.sp)
    (hout : ∀ t, (f t).spOut = t.spOut) : (s.modVt v f).spGet w a = s.spGet w a := by
  simp only [State.spGet, Vtile.unitOut, image_modVt, vt_modVt_keeps s Vtile.sp v w hsp,
    vt_modVt_keeps s Vtile.spOut v w hout, State.modVt_rim]
  rfl

theorem feGet_modVt (v w : VRef) (a : Nat) {f : Vtile → Vtile} (hfe : ∀ t, (f t).fe = t.fe)
    (hout : ∀ t, (f t).spOut = t.spOut) : (s.modVt v f).feGet w a = s.feGet w a := by
  simp only [State.feGet, Vtile.unitOut, image_modVt, vt_modVt_keeps s Vtile.fe v w hfe,
    vt_modVt_keeps s Vtile.spOut v w hout, State.modVt_rim]
  rfl

/-- What a change of a slot leaves of a vtile. -/
theorem vt_modSlot_keeps {β : Type} (p : Vtile → β) (hp : ∀ t sls, p { t with slots := sls } = p t) (r : SRef) (v : VRef)
    (f : Slot → Slot) : p ((s.modSlot r f).vt v) = p (s.vt v) :=
  vt_modVt_keeps s p r.vt v (fun t => hp t _)

@[simp] theorem desc_modSlot (r : SRef) (n : Nat) (f : Slot → Slot) : ((s.modSlot r f).ctx n).desc = (s.ctx n).desc :=
  desc_modVt s _ _ _

@[simp] theorem commons_modSlot (r : SRef) (n : Nat) (f : Slot → Slot) :
    ((s.modSlot r f).ctx n).commons = (s.ctx n).commons := commons_modVt s _ _ _

@[simp] theorem msgs_modSlot (r : SRef) (n : Nat) (f : Slot → Slot) : ((s.modSlot r f).ctx n).msgs = (s.ctx n).msgs :=
  msgs_modVt s _ _ _

/-! ## A change depends on what it is made to -/

theorem Tbl.modify_congr {α : Type} {t : Tbl α} {k : Nat} {f g : α → α} (h : ∀ a, Tbl.find? t k = some a → f a = g a) :
    Tbl.modify t k f = Tbl.modify t k g := by
  induction t with
  | nil => rfl
  | cons p t ih =>
    obtain ⟨j, a⟩ := p
    by_cases hj : j = k
    · simp [Tbl.modify, hj, h a (by simp [Tbl.find?, hj])]
    · by_cases hk : k < j
      · simp [Tbl.modify, hj, hk]
      · simp only [Tbl.find?, hj, hk, if_false] at h
        simp [Tbl.modify, hj, hk, ih h]

theorem modVt_congr {v : VRef} {f g : Vtile → Vtile} (h : f (s.vt v) = g (s.vt v)) : s.modVt v f = s.modVt v g := by
  have hctxs : Tbl.modify s.ctxs v.ctx (fun c => { c with vts := Tbl.modify c.vts v.rank f }) =
      Tbl.modify s.ctxs v.ctx (fun c => { c with vts := Tbl.modify c.vts v.rank g }) := by
    refine Tbl.modify_congr fun c hc => ?_
    have hvts : Tbl.modify c.vts v.rank f = Tbl.modify c.vts v.rank g := by
      refine Tbl.modify_congr fun t ht => ?_
      have : s.vt v = t := by simp [State.vt, State.ctx, Tbl.getD, hc, ht]
      rw [← this, h]
    rw [hvts]
  rw [State.modVt, State.modVt, State.inCtx, State.inCtx, hctxs]

/-- Two changes of a slot that make the same of it as it stands are one. -/
theorem modSlot_congr {r : SRef} {f g : Slot → Slot} (h : f (s.slot r) = g (s.slot r)) : s.modSlot r f = s.modSlot r g := by
  refine modVt_congr s ?_
  rw [show (s.vt r.vt).slots.get r.slot = s.slot r from rfl, h]

/-! ## Events -/

@[simp] theorem slot_event (v : VRef) (e : Ev) (q : SRef) : (s.event v e).slot q = s.slot q := slot_modVt s v q (fun _ => rfl)

@[simp] theorem spGet_event (v w : VRef) (e : Ev) (a : Nat) : (s.event v e).spGet w a = s.spGet w a :=
  spGet_modVt s v w a (fun _ => rfl) (fun _ => rfl)

@[simp] theorem feGet_event (v w : VRef) (e : Ev) (a : Nat) : (s.event v e).feGet w a = s.feGet w a :=
  feGet_modVt s v w a (fun _ => rfl) (fun _ => rfl)

@[simp] theorem hasVt_event (v w : VRef) (e : Ev) : (s.event v e).hasVt w = s.hasVt w := State.hasVt_modVt s v w _

@[simp] theorem commons_event (v : VRef) (e : Ev) (n : Nat) : ((s.event v e).ctx n).commons = (s.ctx n).commons :=
  commons_modVt s _ _ _

@[simp] theorem msgs_event (v : VRef) (e : Ev) (n : Nat) : ((s.event v e).ctx n).msgs = (s.ctx n).msgs := msgs_modVt s _ _ _

/-! ## Messages of the interfaces, and holds -/

theorem ctx_post (c n : Nat) (m : Msg) :
    ∃ msgs next, (s.post c m).ctx n = { s.ctx n with msgs := msgs, nextId := next } := by
  unfold State.post
  by_cases hn : n = c
  · subst hn
    by_cases hs : (Tbl.find? s.ctxs n).isSome = true
    · exact ⟨_, _, State.ctx_inCtx_self _ _ _ hs⟩
    · have : Tbl.find? s.ctxs n = none := by simpa using hs
      exact ⟨(s.ctx n).msgs, (s.ctx n).nextId, by simp [State.ctx, Tbl.getD, Tbl.find?_modify_self, this]⟩
  · exact ⟨(s.ctx n).msgs, (s.ctx n).nextId, by simp [State.ctx_inCtx_ne _ hn]⟩

@[simp] theorem desc_post (c n : Nat) (m : Msg) : ((s.post c m).ctx n).desc = (s.ctx n).desc := by
  obtain ⟨msgs, next, h⟩ := ctx_post s c n m; rw [h]

@[simp] theorem commons_post (c n : Nat) (m : Msg) : ((s.post c m).ctx n).commons = (s.ctx n).commons := by
  obtain ⟨msgs, next, h⟩ := ctx_post s c n m; rw [h]

@[simp] theorem vt_post (c : Nat) (m : Msg) (v : VRef) : (s.post c m).vt v = s.vt v := by
  obtain ⟨msgs, next, h⟩ := ctx_post s c v.ctx m; rw [State.vt, h]; rfl

@[simp] theorem hasVt_post (c : Nat) (m : Msg) (v : VRef) : (s.post c m).hasVt v = s.hasVt v := by
  obtain ⟨msgs, next, h⟩ := ctx_post s c v.ctx m; rw [State.hasVt, h]; rfl

/-- A message that is posted goes behind those of its context. -/
theorem msgs_post_self {c : Nat} (h : (Tbl.find? s.ctxs c).isSome = true) (m : Msg) :
    ((s.post c m).ctx c).msgs = (s.ctx c).msgs ++ [{ m with id := (s.ctx c).nextId }] := by
  rw [State.post, State.ctx_inCtx_self s c _ h]

section
variable (v : VRef) (fmt : Bool) (reason : Nat) (payload : List Word)

@[simp] theorem slot_holdVtile (q : SRef) : (s.holdVtile v fmt reason payload).slot q = s.slot q := by
  rw [State.holdVtile, State.postSup, State.slot, vt_post]
  exact slot_modVt s v q (fun _ => rfl)

@[simp] theorem hasVt_holdVtile (w : VRef) : (s.holdVtile v fmt reason payload).hasVt w = s.hasVt w := by
  rw [State.holdVtile, State.postSup, hasVt_post, State.hasVt_modVt]

theorem vt_holdVtile_keeps {β : Type} (p : Vtile → β) (hp : ∀ t hold, p { t with hold := hold } = p t) (w : VRef) :
    p ((s.holdVtile v fmt reason payload).vt w) = p (s.vt w) := by
  rw [State.holdVtile, State.postSup, vt_post]
  exact vt_modVt_keeps s p v w (fun t => hp t _)

@[simp] theorem desc_holdVtile (n : Nat) : ((s.holdVtile v fmt reason payload).ctx n).desc = (s.ctx n).desc := by
  rw [State.holdVtile, State.postSup, desc_post, desc_modVt]

@[simp] theorem rim_holdVtile : (s.holdVtile v fmt reason payload).rim = s.rim := rfl

@[simp] theorem spGet_holdVtile (w : VRef) (a : Nat) : (s.holdVtile v fmt reason payload).spGet w a = s.spGet w a := by
  simp only [State.spGet, State.image, Vtile.unitOut, vt_holdVtile_keeps s v fmt reason payload Vtile.spOut (fun _ _ => rfl),
    vt_holdVtile_keeps s v fmt reason payload Vtile.sp (fun _ _ => rfl), desc_holdVtile, rim_holdVtile]
  rfl

@[simp] theorem feGet_holdVtile (w : VRef) (a : Nat) : (s.holdVtile v fmt reason payload).feGet w a = s.feGet w a := by
  simp only [State.feGet, State.image, Vtile.unitOut, vt_holdVtile_keeps s v fmt reason payload Vtile.spOut (fun _ _ => rfl),
    vt_holdVtile_keeps s v fmt reason payload Vtile.fe (fun _ _ => rfl), desc_holdVtile, rim_holdVtile]
  rfl

theorem hold_holdVtile (h : s.hasVt v = true) : ((s.holdVtile v fmt reason payload).vt v).hold =
    if fmt then { (s.vt v).hold with fmt := true } else { (s.vt v).hold with trap := true } := by
  rw [State.holdVtile, State.postSup, vt_post, State.vt_modVt_self s v _ h]

/-- The message of a hold goes to the supervisor port. -/
theorem msgs_holdVtile (h : s.hasVt v = true) : ∃ m, ((s.holdVtile v fmt reason payload).ctx v.ctx).msgs =
    (s.ctx v.ctx).msgs ++ [m] ∧ m.kind = 5 ∧ m.reason = reason ∧ m.srank = v.rank ∧
    GoesTo m (s.ctx v.ctx).desc.supdest.toNat ∧ m.payload = payload := by
  obtain ⟨c, t, hc, -⟩ := State.ctx_there h
  have hthere : (Tbl.find? (s.modVt v (fun t => { t with hold := if fmt then { t.hold with fmt := true } else
      { t.hold with trap := true } })).ctxs v.ctx).isSome = true := by
    rw [State.modVt, State.ctxThere_inCtx, hc]; rfl
  refine ⟨_, (msgs_post_self _ hthere _).trans (by rw [msgs_modVt]), rfl, rfl, rfl, ?_, rfl⟩
  rw [desc_modVt]
  exact ⟨by simp [kind5, destRank, bits, Nat.shiftRight_eq_div_pow], by simp [kind5, destPort, bits, Nat.shiftRight_eq_div_pow],
    by simp [kind5, destInc, bits, Nat.shiftRight_eq_div_pow]⟩

end

end Sys2Proof.Proofs.Formats
end

section
/-!
SUPPORT. Sorting by insertion (`sortBy`): it reorders, it sorts, and a strict order leaves it one result.
-/
namespace Sys2Proof.Proofs.Formats
open Sys2Proof Sys2Proof.Machine Sys2Proof.Claims

variable {α : Type} {le : α → α → Bool}

theorem insertBy_perm (x : α) (l : List α) : (insertBy le x l).Perm (x :: l) := by
  induction l with
  | nil => exact .refl _
  | cons a l ih =>
    rw [insertBy]
    split
    · exact (ih.cons a).trans (.swap x a l)
    · exact .refl _

theorem insertBy_pairwise (total : ∀ a b, le a b = true ∨ le b a = true)
    (trans : ∀ a b c, le a b = true → le b c = true → le a c = true) (x : α) {l : List α}
    (h : l.Pairwise (fun a b => le a b = true)) : (insertBy le x l).Pairwise (fun a b => le a b = true) := by
  induction l with
  | nil => simp [insertBy]
  | cons a l ih =>
    obtain ⟨ha, hl⟩ := List.pairwise_cons.mp h
    rw [insertBy]
    split
    case isTrue hax =>
      refine List.pairwise_cons.mpr ⟨fun b hb => ?_, ih hl⟩
      rcases List.mem_cons.mp ((insertBy_perm x l).mem_iff.mp hb) with rfl | hb
      · exact hax
      · exact ha b hb
    case isFalse hax =>
      have hxa : le x a = true := (total x a).resolve_right hax
      refine List.pairwise_cons.mpr ⟨fun b hb => ?_, h⟩
      rcases List.mem_cons.mp hb with rfl | hb
      · exact hxa
      · exact trans x a b hxa (ha b hb)

theorem foldl_insertBy_perm (l acc : List α) : (l.foldl (fun acc x => insertBy le x acc) acc).Perm (l ++ acc) := by
  induction l generalizing acc with
  | nil => exact .refl _
  | cons x l ih =>
    calc (l.foldl (fun acc x => insertBy le x acc) (insertBy le x acc)).Perm (l ++ insertBy le x acc) := ih _
      _ |>.Perm (l ++ x :: acc) := (insertBy_perm x acc).append_left l
      _ |>.Perm (x :: l ++ acc) := List.perm_middle

theorem sortBy_perm (l : List α) : (sortBy le l).Perm l := by
  simpa [sortBy] using foldl_insertBy_perm (le := le) l []

theorem sortBy_pairwise (total : ∀ a b, le a b = true ∨ le b a = true)
    (trans : ∀ a b c, le a b = true → le b c = true → le a c = true) (l : List α) :
    (sortBy le l).Pairwise (fun a b => le a b = true) := by
  suffices h : ∀ acc : List α, acc.Pairwise (fun a b => le a b = true) →
      (l.foldl (fun acc x => insertBy le x acc) acc).Pairwise (fun a b => le a b = true) from h [] .nil
  induction l with
  | nil => exact fun _ h => h
  | cons x l ih => exact fun acc h => ih _ (insertBy_pairwise total trans x h)

/-- Lists with the same elements sort alike where the order tells all of them apart. -/
theorem sortBy_eq_of_perm (total : ∀ a b, le a b = true ∨ le b a = true)
    (trans : ∀ a b c, le a b = true → le b c = true → le a c = true) {l l' : List α} (hp : l.Perm l')
    (antisymm : ∀ a ∈ l, ∀ b ∈ l, le a b = true → le b a = true → a = b) : sortBy le l = sortBy le l' := by
  have hl : ∀ a, a ∈ sortBy le l → a ∈ l := fun a => (sortBy_perm l).mem_iff.mp
  have hl' : ∀ a, a ∈ sortBy le l' → a ∈ l := fun a ha => hp.mem_iff.mpr ((sortBy_perm l').mem_iff.mp ha)
  exact List.Perm.eq_of_pairwise (fun a b ha hb => antisymm a (hl a ha) b (hl' b hb))
    (sortBy_pairwise total trans l) (sortBy_pairwise total trans l') ((sortBy_perm l).trans (hp.trans (sortBy_perm l').symm))

end Sys2Proof.Proofs.Formats
end

section
/-!
SUPPORT. The holding set of a commons word (R226): what reading a line and settling do with the list of updates.
-/
namespace Sys2Proof.Proofs.Formats
open Sys2Proof Sys2Proof.Machine Sys2Proof.Claims

/-- The context with another list of held updates. -/
def withHolding (s : State) (ctx : Nat) (l : List HeldUpdate) : State := s.inCtx ctx (fun c => { c with holding := l })

theorem settleLe_total (a b : HeldUpdate) : settleLe a b = true ∨ settleLe b a = true := by
  simp only [settleLe, Bool.or_eq_true, Bool.and_eq_true, decide_eq_true_eq, beq_iff_eq]; omega

theorem settleLe_trans (a b c : HeldUpdate) (h : settleLe a b = true) (h' : settleLe b c = true) : settleLe a c = true := by
  simp only [settleLe, Bool.or_eq_true, Bool.and_eq_true, decide_eq_true_eq, beq_iff_eq] at *; omega

/-- Updates that settle at the same place have the same rank and OSEQ. -/
theorem settleLe_antisymm {a b : HeldUpdate} (h : settleLe a b = true) (h' : settleLe b a = true) :
    (a.u.rank, a.u.oseq) = (b.u.rank, b.u.oseq) := by
  simp only [settleLe, Bool.or_eq_true, Bool.and_eq_true, decide_eq_true_eq, beq_iff_eq, Prod.mk.injEq] at *; omega

theorem inCtx_inCtx (s : State) (n : Nat) (f g : Ctx → Ctx) : (s.inCtx n f).inCtx n g = s.inCtx n (fun c => g (f c)) := by
  simp [State.inCtx, Tbl.modify_modify]

theorem Tbl.modify_of_find?_none {α : Type} {t : Tbl α} {k : Nat} (h : Tbl.find? t k = none) (f : α → α) :
    Tbl.modify t k f = t := by
  induction t with
  | nil => rfl
  | cons p t ih =>
    obtain ⟨j, a⟩ := p
    by_cases hj : j = k
    · simp [Tbl.find?, hj] at h
    · by_cases hk : k < j
      · simp [Tbl.modify, hj, hk]
      · simp only [Tbl.find?, hj, hk, if_false] at h
        simp [Tbl.modify, hj, hk, ih h]

/-- A context that is not there is not changed. -/
theorem inCtx_absent (s : State) {n : Nat} (h : Tbl.find? s.ctxs n = none) (f : Ctx → Ctx) : s.inCtx n f = s := by
  simp [State.inCtx, Tbl.modify_of_find?_none h]

theorem ctx_withHolding (s : State) {ctx : Nat} (h : (Tbl.find? s.ctxs ctx).isSome = true) (l : List HeldUpdate) :
    (withHolding s ctx l).ctx ctx = { s.ctx ctx with holding := l } := State.ctx_inCtx_self s ctx _ h

/-- Where a line lies does not depend on the holding sets. -/
theorem bankOf_withHolding (s : State) (ctx ea : Nat) (l : List HeldUpdate) :
    ((withHolding s ctx l).ctx ctx).bankOf ea = (s.ctx ctx).bankOf ea := by
  cases hc : Tbl.find? s.ctxs ctx with
  | none => rw [withHolding, inCtx_absent s hc]
  | some c => rw [ctx_withHolding s (by simp [hc])]; rfl

/-- Of the machine, the error log alone takes part in a logged event. -/
theorem logError_eq (s : State) (what kind ctx place addr : Nat) :
    s.logError what kind ctx place addr = { s with croft := (s.logError what kind ctx place addr).croft } := by
  simp only [State.logError]
  split <;> rfl

@[simp] theorem logError_ctxs (s : State) (what kind ctx place addr : Nat) :
    (s.logError what kind ctx place addr).ctxs = s.ctxs := by
  rw [logError_eq]

/-- The error log does not see the contexts. -/
theorem logError_inCtx (s : State) (n : Nat) (f : Ctx → Ctx) (what kind ctx place addr : Nat) :
    (s.inCtx n f).logError what kind ctx place addr = (s.logError what kind ctx place addr).inCtx n f := by
  simp only [State.logError, State.inCtx]
  split <;> rfl

theorem bankFails_withHolding (s : State) (ctx fold : Nat) (l : List HeldUpdate) :
    (withHolding s ctx l).bankFails fold = withHolding (s.bankFails fold) ctx l := rfl

/-- Neither a line's errors nor where it lies depend on the holding sets, and reading it keeps them. -/
theorem readCommons_withHolding (s : State) {ctx : Nat} (h : (Tbl.find? s.ctxs ctx).isSome = true) (ea : Nat)
    (l : List HeldUpdate) : (withHolding s ctx l).readCommons ctx ea = withHolding (s.readCommons ctx ea) ctx l := by
  have hread : ∀ c : Ctx, ({ c with holding := l } : Ctx).readLine ea = { c.readLine ea with holding := l } := by
    intro c
    unfold Ctx.readLine
    split <;> simp_all
  have hlog : ∀ k p a, ((withHolding s ctx l).logError 2 k ctx p a).inCtx ctx (fun c => c.readLine ea) =
      withHolding ((s.logError 2 k ctx p a).inCtx ctx (fun c => c.readLine ea)) ctx l := by
    intro k p a
    simp only [withHolding, logError_inCtx, inCtx_inCtx, hread]
  unfold State.readCommons
  rw [ctx_withHolding s h]
  cases hm : Tbl.find? (s.ctx ctx).cmarks (ea / 64) with
  | none => rfl
  | some m =>
    dsimp only
    rw [show ∀ x : Ctx, ({ x with holding := l } : Ctx).bankOf ea = x.bankOf ea from fun _ => rfl, hlog]
    by_cases hp : (m == .poison) = true
    · simp only [hp, if_true, bankFails_withHolding, bankOf_withHolding]
    · simp only [hp, Bool.false_eq_true, if_false]

/-- Settling takes the word's updates out of the holding set, reads the line once, and settles them in ascending rank and OSEQ. -/
theorem settleWord_withHolding (s : State) {ctx w : Nat} {l : List HeldUpdate} (hl : ∀ h ∈ l, h.word = w) (hne : l ≠ [])
    (h : (Tbl.find? s.ctxs ctx).isSome = true) :
    (withHolding s ctx l).settleWord ctx w = (sortBy settleLe l).foldl
      (fun s' u => s'.settleNext ctx ((s.ctx ctx).lineBad (8 * w)) u) (withHolding (s.readCommons ctx (8 * w)) ctx []) := by
  have hheld : l.filter (fun h => h.word == w) = l := List.filter_eq_self.mpr (fun x hx => by simp [hl x hx])
  have hfree : l.filter (fun h => h.word != w) = [] := List.filter_eq_nil_iff.mpr (fun x hx => by simp [hl x hx])
  have hset : (sortBy settleLe l).isEmpty = false := by
    simpa [List.isEmpty_eq_false_iff] using fun e => hne (e ▸ sortBy_perm (le := settleLe) l).nil_eq.symm
  have htaken : ((withHolding s ctx l).readCommons ctx (8 * w)).inCtx ctx
      (fun c => { c with holding := c.holding.filter (fun h => h.word != w) }) =
      withHolding (s.readCommons ctx (8 * w)) ctx [] := by
    rw [readCommons_withHolding s h]
    simp only [withHolding, inCtx_inCtx, hfree]
  unfold State.settleWord
  simp only [ctx_withHolding s h, hheld, hset, htaken, Bool.false_eq_true, if_false]
  rfl

/-- Settles O41: the updates are settled in one order, whatever the order in which they were held. -/
theorem settlingForgetsTheOrderOfArrival : Obligations.SettlingForgetsTheOrderOfArrival := by
  intro s ctx w l l' hp hl hnd
  show (withHolding s ctx l).settleWord ctx w = (withHolding s ctx l').settleWord ctx w
  cases hc : Tbl.find? s.ctxs ctx with
  | none => rw [withHolding, withHolding, inCtx_absent s hc, inCtx_absent s hc]
  | some c =>
    have hthere : (Tbl.find? s.ctxs ctx).isSome = true := by simp [hc]
    have hinj := List.inj_on_of_nodup_map hnd
    have hsort : sortBy settleLe l = sortBy settleLe l' := sortBy_eq_of_perm settleLe_total settleLe_trans hp
      (fun a ha b hb hab hba => hinj ha hb (settleLe_antisymm hab hba))
    rcases eq_or_ne l [] with rfl | hne
    · rw [hp.nil_eq]
    · have hne' : l' ≠ [] := fun e => hne (by simpa [e] using hp)
      rw [settleWord_withHolding s hl hne hthere,
        settleWord_withHolding s (fun x hx => hl x (hp.mem_iff.mpr hx)) hne' hthere, hsort]

end Sys2Proof.Proofs.Formats
end

section
/-!
SUPPORT. The end of a firing (R130): what `endFiring` makes of the slot, of its buffer and of the vtile's flags.
-/
namespace Sys2Proof.Proofs.Formats
open Sys2Proof Sys2Proof.Machine Sys2Proof.Claims

/-- A control operation of the CT format whose guard holds runs as its tail, once its move has taken place. -/
theorem execCT_done {m : Move} {cg : Guard} {s t : State} {l : List Moved} (tail : Tail)
    (hdone : MovesDone s [(3, m)] (fun sl => sl) l t) (hg : (me s).guard cg = true)
    (hstall : tail.stall (s.preview s.cur l noImm) s.cur (me s) = false)
    (hcheck : tail.check (s.preview s.cur l noImm) s.cur (me s) = none) :
    execCT m cg tail s = .next (tail.run t s.cur (me s)) := by
  obtain ⟨hpriv, hread, hcrowd, hms, hmc, rfl, hfser⟩ := hdone
  have hst : s.stallsOn s.cur l noImm (guarded cg tail) = false := by
    simp only [State.stallsOn, guarded, Bool.or_eq_false_iff]
    exact ⟨⟨hcrowd, hms⟩, by rw [hstall, Bool.and_false]⟩
  have hck : (guarded cg tail).check (s.preview s.cur l noImm) s.cur (me s) = none := by
    simp only [guarded, hg, hcheck, if_true]
  rw [execCT, State.execMoves_done (guarded cg tail) hpriv hread hst hmc hck hfser]
  simp only [guarded, hg, if_true]
  rfl

theorem endCompletes : EndCompletes := by
  intro m cg s t l hdone hg
  exact execCT_done endTail hdone hg rfl rfl

/-! ## Events of a list of results -/

theorem foldl_evAnd (l : List Ev) (e : Ev) :
    l.foldl evAnd e = ⟨l.foldl (fun w x => w ||| x.flags) e.flags, e.sat + (l.map Ev.sat).sum⟩ := by
  induction l generalizing e with
  | nil => rfl
  | cons x l ih => simp [ih, evAnd, Nat.add_assoc]

theorem evAll_eq (l : List Ev) : evAll l = ⟨l.foldl (fun w x => w ||| x.flags) 0, (l.map Ev.sat).sum⟩ := by
  rw [evAll, foldl_evAnd]; simp [evNone]

theorem foldl_or_acc (l : List Landing) (w : BitVec 8) :
    l.foldl (fun w x => w ||| x.ev.flags) w = w ||| l.foldl (fun w x => w ||| x.ev.flags) 0 := by
  induction l generalizing w with
  | nil => simp
  | cons x l ih => rw [List.foldl_cons, List.foldl_cons, ih, ih (0 ||| x.ev.flags)]; simp [BitVec.or_assoc]

/-! ## The slot after its firing -/

theorem trigAbandoned_eq (t : Trig) : trigAbandoned t = discarded t := by
  cases t with
  | mul op => cases op <;> rfl
  | fpu op rm => cases op <;> rfl
  | vec op rm => cases op <;> rfl
  | _ => rfl

theorem wWidth_eq (m : BitVec 3) : wWidth m = wOf m := by
  revert m; decide

/-- The atomics, fe.clr and seals that a firing leaves behind. -/
def leftBehind (sl : Slot) : List SbEntry :=
  (sl.ops.filter (fun f => !f.performed)).filterMap (fun f => f.asRmw sl.fser)

/-- The slot as the end of its firing leaves it. -/
def endedSlot (sl : Slot) : Slot :=
  { Slot.blank with sb := sortBy (fun a b => decide (a.id ≤ b.id)) (sl.sb ++ leftBehind sl), nextId := sl.nextId,
                    fser := sl.fser + 1, stopId := sl.stopId }

/-- The results that count at the end of a firing. -/
def counted (sl : Slot) : List Landing := sl.ops.filterMap (fun f => if discarded f.trig then none else f.res)

theorem endEvents_eq (ops : List Flight) :
    (ops.filter (fun f => f.res.isSome && !trigAbandoned f.trig)).filterMap (fun f => f.res.map Landing.ev) =
      (ops.filterMap (fun f => if discarded f.trig then none else f.res)).map Landing.ev := by
  induction ops with
  | nil => rfl
  | cons f ops ih => cases hr : f.res <;> cases hd : discarded f.trig <;> simp_all [trigAbandoned_eq]

theorem slot_endFiring_self {s : State} {r : SRef} (h : s.hasVt r.vt = true) :
    (s.endFiring r).slot r = endedSlot (s.slot r) := by
  rw [State.endFiring, slot_event, State.slot_modSlot_self s r _ h]
  rfl

theorem slot_endFiring_ne (s : State) {r q : SRef} (h : q ≠ r) : (s.endFiring r).slot q = s.slot q := by
  rw [State.endFiring, slot_event, State.slot_modSlot_ne s _ h]

theorem vt_endFiring_ne (s : State) {r : SRef} {v : VRef} (h : v ≠ r.vt) : (s.endFiring r).vt v = s.vt v := by
  rw [State.endFiring, State.event, State.vt_modVt_ne _ _ h, State.modSlot, State.vt_modVt_ne _ _ h]

/-- The vtile takes the events of the results that count, once. -/
theorem vt_endFiring_self {s : State} {r : SRef} (h : s.hasVt r.vt = true) :
    ∃ sls, (s.endFiring r).vt r.vt =
      ({ s.vt r.vt with slots := sls } : Vtile).event (evAll ((counted (s.slot r)).map Landing.ev)) := by
  refine ⟨?_, ?_⟩
  rotate_left
  · rw [State.endFiring, State.event, State.vt_modVt_self _ _ _ (by simpa using h), State.modSlot,
      State.vt_modVt_self _ _ _ h, endEvents_eq]
    rfl

@[simp] theorem spGet_endFiring (s : State) (r : SRef) (v : VRef) (a : Nat) : (s.endFiring r).spGet v a = s.spGet v a := by
  rw [State.endFiring, spGet_event, State.spGet_modSlot]

@[simp] theorem feGet_endFiring (s : State) (r : SRef) (v : VRef) (a : Nat) : (s.endFiring r).feGet v a = s.feGet v a := by
  rw [State.endFiring, feGet_event, State.feGet_modSlot]

@[simp] theorem rim_endFiring (s : State) (r : SRef) : (s.endFiring r).rim = s.rim := rfl

@[simp] theorem commons_endFiring (s : State) (r : SRef) (n : Nat) : ((s.endFiring r).ctx n).commons = (s.ctx n).commons := by
  rw [State.endFiring, commons_event, commons_modSlot]

@[simp] theorem msgs_endFiring (s : State) (r : SRef) (n : Nat) : ((s.endFiring r).ctx n).msgs = (s.ctx n).msgs := by
  rw [State.endFiring, msgs_event, msgs_modSlot]

/-! ## What stays buffered -/

theorem mem_endedSlot_sb {sl : Slot} {e : SbEntry} : e ∈ (endedSlot sl).sb ↔ e ∈ sl.sb ∨ e ∈ leftBehind sl := by
  rw [show (endedSlot sl).sb = sortBy (fun a b => decide (a.id ≤ b.id)) (sl.sb ++ leftBehind sl) from rfl,
    (sortBy_perm _).mem_iff, List.mem_append]

theorem endedSlot_sb_pairwise (sl : Slot) : (endedSlot sl).sb.Pairwise (fun a b => a.id ≤ b.id) := by
  refine (sortBy_pairwise (le := fun a b : SbEntry => decide (a.id ≤ b.id)) (fun a b => ?_) (fun a b c => ?_) _).imp
    of_decide_eq_true
  · simpa using Nat.le_total a.id b.id
  · simpa using Nat.le_trans

/-- An operation that was accepted and not performed goes behind the stores as what it becomes there. -/
theorem mem_endedSlot_of_asRmw {sl : Slot} {f : Flight} {e : SbEntry} (hf : f ∈ sl.ops) (hp : f.performed = false)
    (he : f.asRmw sl.fser = some e) : e ∈ (endedSlot sl).sb :=
  mem_endedSlot_sb.mpr (.inr (List.mem_filterMap.mpr ⟨f, by simp [hf, hp], he⟩))

theorem asRmw_of_atomicInstr {f : Flight} {op : LsuOp} {i : Instr} (fser : Nat) (ht : f.trig = .lsu op)
    (hi : atomicInstr op f.mod = some i) :
    f.asRmw fser = some { id := f.id, kind := .rmw op f.mod (f.c.setWidth 64) f.ix fser, addr := f.ea, n := f.bytes,
                          data := f.b, tag := f.tag } := by
  unfold atomicInstr at hi
  split at hi <;> simp_all [Flight.asRmw]

/-- Of the accesses of an atomic: its word (R107). -/
theorem bytes_of_atomicInstr {f : Flight} {op : LsuOp} {i : Instr} (ht : f.trig = .lsu op)
    (hi : atomicInstr op f.mod = some i) : f.bytes = wOf f.mod / 8 := by
  unfold atomicInstr at hi
  split at hi <;> simp_all [Flight.bytes, wWidth_eq]

/-- What an ended firing has accepted stays in the buffer (R94, R130). -/
theorem endedSlot_keeps_accepted (sl : Slot) :
    (∀ f op i, f ∈ sl.ops → f.performed = false → f.trig = .lsu op → atomicInstr op f.mod = some i →
      ∃ e ∈ (endedSlot sl).sb, e.id = f.id ∧ e.kind = .rmw op f.mod (f.c.setWidth 64) f.ix sl.fser ∧
        e.addr = f.a.toNat % 2 ^ 64 ∧ e.n = wOf f.mod / 8 ∧ e.data = f.b) ∧
    (∀ f, f ∈ sl.ops → f.performed = false → f.trig = .lsu .feClr →
      ∃ e ∈ (endedSlot sl).sb, e.id = f.id ∧ e.kind = .feClr ∧ e.addr = f.a.toNat % 2 ^ 64) ∧
    (∀ f ∈ sl.ops, f.performed = false → f.trig = .cpe .seal →
      ∃ e ∈ (endedSlot sl).sb, e.id = f.id ∧ e.kind = .seal) := by
  refine ⟨fun f op i hf hp ht hi => ?_, fun f hf hp ht => ?_, fun f hf hp ht => ?_⟩
  · exact ⟨_, mem_endedSlot_of_asRmw hf hp (asRmw_of_atomicInstr _ ht hi), rfl, rfl, rfl, bytes_of_atomicInstr ht hi, rfl⟩
  · exact ⟨_, mem_endedSlot_of_asRmw hf hp (by rw [Flight.asRmw, ht]), rfl, rfl, rfl⟩
  · exact ⟨_, mem_endedSlot_of_asRmw hf hp (by rw [Flight.asRmw, ht]), rfl, rfl⟩

theorem vector_get_replicate {β : Type} (n : Nat) (b : β) (k : Fin n) : (Vector.replicate n b).get k = b :=
  Vector.getElem_replicate k.isLt

/-- The registers, latches, handles, repeat stack and operations of an ended firing are gone. -/
theorem endedSlot_blank (sl : Slot) :
    (endedSlot sl).status = .free ∧ (endedSlot sl).ops = [] ∧ (endedSlot sl).saved = [] ∧ (endedSlot sl).rep = [] ∧
    (endedSlot sl).lat = .zero ∧ (∀ k, (endedSlot sl).xGet k = 0) ∧ (∀ k, (endedSlot sl).v.get k = 0) ∧
    (∀ k, (endedSlot sl).pGet k = (k == 0)) ∧ ∀ k, (endedSlot sl).h.get k = 0 := by
  refine ⟨rfl, rfl, rfl, rfl, rfl, fun k => ?_, fun k => ?_, fun k => ?_, fun k => ?_⟩
  · show (if k.val = 0 then 0 else (Vector.replicate 32 (0 : Word)).get k) = 0
    rw [vector_get_replicate, ite_self]
  · exact vector_get_replicate 16 0 k
  · show (k.val == 0 || (0 : BitVec 8).getLsbD k.val) = (k == 0)
    revert k; decide
  · exact vector_get_replicate 8 0 k

theorem endingAFiringFreesItsSlot : EndingAFiringFreesItsSlot := by
  intro s r hv
  obtain ⟨sls, hvt⟩ := vt_endFiring_self hv
  have hslot := slot_endFiring_self hv
  obtain ⟨hrmw, hfe, hseal⟩ := endedSlot_keeps_accepted (s.slot r)
  dsimp only
  rw [hslot, hvt]
  refine ⟨endedSlot_blank _, ⟨fun e he => mem_endedSlot_sb.mpr (.inl he), endedSlot_sb_pairwise _, ?_, ?_, hseal⟩, ?_, ?_,
    fun q hq => slot_endFiring_ne s hq, fun v hv => vt_endFiring_ne s hv, ⟨?_, rfl, ?_⟩, ?_⟩
  · exact fun f op i ⟨hf, hp, ht⟩ => hrmw f op i hf hp ht
  · exact fun f ⟨hf, hp, ht⟩ => hfe f hf hp ht
  · simp only [Vtile.event, evAll_eq, List.foldl_map, counted]
    exact (foldl_or_acc _ _).symm
  · simp only [Vtile.event, evAll_eq, List.map_map]
    rfl
  · exact fun v a => spGet_endFiring s r v a
  · exact fun n => commons_endFiring s r n
  · exact fun v a => feGet_endFiring s r v a

/-- Settles O13: `end` runs as the end of its firing, of which one equation gives the slot and one the vtile. -/
theorem endFreesTheSlot : Obligations.EndFreesTheSlot := ⟨endCompletes, endingAFiringFreesItsSlot⟩

end Sys2Proof.Proofs.Formats
end

section
/-!
SUPPORT. A trigger that computes its result at once (R24): when it fires, and when it traps instead (R340).
-/
namespace Sys2Proof.Proofs.Formats
open Sys2Proof Sys2Proof.Machine Sys2Proof.Claims

/-! ## The entry into a trap (R284, R343) -/

theorem spOutRange_iff (s : State) (v : VRef) (a n : Nat) :
    s.spOutRange v a n = true ↔ n ≠ 0 ∧ ∃ k ∈ (s.vt v).spOut, 8192 * k < a + n ∧ a < 8192 * k + 8192 := by
  simp [State.spOutRange]

theorem fieldSends_iff (s : State) (r : SRef) (id : Nat) : s.fieldSends r id = true ↔ Undelivered s r id true := by
  simp only [State.fieldSends, State.sendsBefore, Undelivered, List.any_eq_true, Bool.and_eq_true]
  refine exists_congr fun m => and_congr_right fun _ => ?_
  rcases m.after with _ | ⟨k, n⟩
  · simp
  · simp [and_comm, and_assoc]

theorem entryWaits_iff (s : State) (r : SRef) (e : SbEntry) (n : Nat) :
    s.entryWaits r e n = true ↔
      (e.kind ≠ .cSt ∧ n ≠ 0 ∧ ∃ k ∈ (s.vt r.vt).spOut, 8192 * k < e.addr + n ∧ e.addr < 8192 * k + 8192) ∨
      (e.kind ≠ .seal ∧
        (e.kind = .cSt → fieldOfSite (bankSite ((s.ctx r.vt.ctx).bankOf e.addr)) = fieldOfSite (s.vt r.vt).site) ∧
        Undelivered s r e.id true) ∨
      (e.kind = .seal ∧ (∃ c ∈ (s.vt r.vt).copies, c.batch = (s.vt r.vt).bopen ∧ c.finished = false) ∧
        (s.vt r.vt).sealed.length = 63) := by
  have hfield : s.entryInField r e = true ↔ e.kind ≠ .seal ∧
      (e.kind = .cSt → fieldOfSite (bankSite ((s.ctx r.vt.ctx).bankOf e.addr)) = fieldOfSite (s.vt r.vt).site) := by
    unfold State.entryInField
    split <;> simp_all [State.bankInField]
  simp only [State.entryWaits, Bool.or_eq_true, Bool.and_eq_true, bne_iff_ne, beq_iff_eq, spOutRange_iff, hfield,
    fieldSends_iff, Vtile.sealFull, Vtile.openUnfinished, Vtile.unfin, List.any_eq_true, Bool.not_eq_true', and_assoc, or_assoc]

theorem trapWaits_iff (s : State) (r : SRef) : s.trapWaits r = true ↔ ¬EntersAtOnce s r := by
  simp only [State.trapWaits, Bool.or_eq_true, List.any_eq_true, entryWaits_iff, spOutRange_iff, EntersAtOnce, frameOf,
    Vtile.frameAddr]
  constructor
  · rintro (⟨-, h⟩ | ⟨e, he, h⟩) ⟨hframe, hsb⟩
    · exact hframe h
    · obtain ⟨h1, h2, h3⟩ := hsb e he
      rcases h with ⟨hk, hn, h⟩ | ⟨hk, hf, h⟩ | ⟨hk, h⟩
      · exact h1 hk (Nat.pos_of_ne_zero hn) h
      · exact h2 hk hf h
      · exact h3 hk h
  · intro h
    by_contra hc
    rw [not_or] at hc
    refine h ⟨fun hf => hc.1 ⟨by decide, hf⟩, fun e he => ⟨fun hk hn ha => ?_, fun hk hf hu => ?_, fun hk hs => ?_⟩⟩
    · exact hc.2 ⟨e, he, .inl ⟨hk, Nat.pos_iff_ne_zero.mp hn, ha⟩⟩
    · exact hc.2 ⟨e, he, .inr (.inl ⟨hk, hf, hu⟩)⟩
    · exact hc.2 ⟨e, he, .inr (.inr ⟨hk, hs⟩)⟩

/-- An instruction that ends in `trapHere` takes that trap, or stalls until its entry may go on. -/
theorem trapsWith_of_exec {i : Instr} {s : State} {code move : Nat} {tval : Word}
    (h : exec i s = .next (s.trapHere s.cur code tval move)) : TrapsWith i s code tval move := by
  refine ⟨fun he => ?_, fun he => ?_⟩
  · have hw : s.trapWaits s.cur = false := by simpa [he] using mt (trapWaits_iff s s.cur).mp
    rw [h, State.trapHere, hw]
    rfl
  · rw [h, State.trapHere, (trapWaits_iff s s.cur).mpr he]
    rfl

/-! ## Triggers that compute their result at once -/

/-- A trigger that accesses nothing, waits for no store, reaches no scratchpad, belongs to no engine and is none of VEC's long
operations: it waits for nothing but room. -/
structure ComputesAtOnce (t : Trig) : Prop where
  notLong : trigVecLong t = false
  noAccess : trigIsAccess t = false
  noCommand : trigIsCommand t = false
  noStore : trigIsStore t = false
  noDrain : trigWantsDrain t = false
  noReach : ∀ s r m, State.trigReach s r t m = []
  notCpe : (trigUnit t == .cpe) = false

theorem trigStalls_of_room {s : State} (hroom : Room s) {t : Trig} (ht : ComputesAtOnce t) (m : BitVec 3) :
    s.trigStalls s.cur t m = false := by
  have hops : ¬32 ≤ (s.slot s.cur).ops.length := by unfold Room me at hroom; omega
  simp [State.trigStalls, hops, ht.notLong, ht.noAccess, ht.noCommand, ht.noStore, ht.noDrain, ht.noReach, ht.notCpe]

theorem computesAtOnce_fpu (op : FpuOp) (rm : BitVec 2) : ComputesAtOnce (.fpu op rm) :=
  ⟨rfl, rfl, rfl, rfl, rfl, fun _ _ _ => rfl, rfl⟩

/-- A computing trigger whose check passes issues with its result. -/
theorem issues_of_computeMeaning {i : Instr} {s : State} {t : Trig} {m : BitVec 3}
    {check : Latches 1024 → Option (Nat × Word)} {f : (a b c : VWord) → Word → Landing} (ht : ComputesAtOnce t)
    (hroom : Room s) (hexec : exec i s = runTrigger (computeMeaning t m check f) m s)
    (hcheck : check ((me s).lat.get (trigUnit t)) = none) :
    Issues i s t m (f ((me s).lat.get (trigUnit t)).a ((me s).lat.get (trigUnit t)).b ((me s).lat.get (trigUnit t)).c
      ((me s).qPrev (trigUnit t))) := by
  rw [Issues, hexec, runTrigger_fires (k := computeMeaning t m check f) (trigStalls_of_room hroom ht m) rfl hcheck]
  refine congrArg Host.Outcome.next ?_
  simp only [computeMeaning]
  exact modSlot_congr s rfl

/-- One whose check fails takes the trap. -/
theorem trapsWith_of_computeMeaning {i : Instr} {s : State} {t : Trig} {m : BitVec 3}
    {check : Latches 1024 → Option (Nat × Word)} {f : (a b c : VWord) → Word → Landing} (ht : ComputesAtOnce t)
    (hroom : Room s) (hexec : exec i s = runTrigger (computeMeaning t m check f) m s) {code : Nat} {tval : Word}
    (hcheck : check ((me s).lat.get (trigUnit t)) = some (code, tval)) : TrapsWith i s code tval 0 := by
  refine trapsWith_of_exec ?_
  have hst : (s.trigStalls s.cur t m || noStall s s.cur) = false := by
    rw [trigStalls_of_room hroom ht m]; rfl
  rw [hexec]
  simp only [runTrigger, computeMeaning, hst, hcheck, Bool.false_eq_true, if_false]

end Sys2Proof.Proofs.Formats
end

section
/-!
SUPPORT. Operand widths, format records and results, as the model computes them and as the statements write them.
-/
namespace Sys2Proof.Proofs.Formats
open Sys2Proof Sys2Proof.Machine Sys2Proof.Claims

theorem bits_eq (x hi lo : Nat) : bits x hi lo = x / 2 ^ lo % 2 ^ (hi + 1 - lo) := by
  rw [bits, Nat.shiftRight_eq_div_pow]

theorem bits_zero (x hi : Nat) : bits x hi 0 = x % 2 ^ (hi + 1) := by simp [bits_eq]

theorem bit_eq (x i : Nat) : bit x i = decide (x / 2 ^ i % 2 = 1) := by
  rw [bit, Nat.testBit_eq_decide_div_mod_eq]

/-- `Wrap` gives the bits of the integer (R45). -/
theorem ofNat_wrap (v : Int) (n : Nat) : BitVec.ofNat n (wrap v n) = BitVec.ofInt n v := by
  rw [wrap, ← BitVec.ofInt_natCast, Int.toNat_of_nonneg (Int.emod_nonneg _ (by positivity))]
  have hmod : (v % 2 ^ n).bmod (2 ^ n) = v.bmod (2 ^ n) := by exact_mod_cast Int.emod_bmod (x := v) (n := 2 ^ n)
  exact BitVec.eq_of_toInt_eq (by simp [BitVec.toInt_ofInt, hmod])

theorem wrap_eq (v : Int) (n : Nat) : wrap v n = (BitVec.ofInt n v).toNat := by
  rw [← ofNat_wrap, BitVec.toNat_ofNat, Nat.mod_eq_of_lt]
  rw [wrap, Int.toNat_lt (Int.emod_nonneg _ (by positivity))]
  exact_mod_cast Int.emod_lt_of_pos v (by positivity)

theorem wSigned_eq (m : BitVec 3) : wSigned m = signedOf m := rfl

theorem lo64_setWidth (w : Word) : lo64 (w.setWidth 1024) = w.toNat := by
  rw [lo64, BitVec.toNat_setWidth]
  omega

/-- The formats that a conversion may name are the floats and the tapered ones (R151). -/
theorem convFmtOk_iff (rec : Nat) : convFmtOk (recordFmt rec) = true ↔ rec % 2 ^ 4 ∈ [1, 2, 3, 4, 5] := by
  rw [recordFmt, bits_zero]
  have hlt : rec % 2 ^ (3 + 1) < 16 := Nat.mod_lt _ (by norm_num)
  revert hlt
  generalize rec % 2 ^ (3 + 1) = k
  intro hlt
  interval_cases k <;> decide

/-- What a conversion refuses in a record is what R61, R62 and R151 say. -/
theorem convRecordBad_iff {rec : Nat} (h : rec < 2 ^ 32) (plain : Bool) :
    convRecordBad rec plain = true ↔ RecordRefused rec plain := by
  have hfmt : (¬convFmtOk (recordFmt rec) = true) ↔ rec % 2 ^ 4 ∉ [1, 2, 3, 4, 5] := not_congr (convFmtOk_iff rec)
  simp only [convRecordBad, recordIllFormed, RecordRefused, bits_eq, bit_eq, Bool.or_eq_true, Bool.and_eq_true,
    decide_eq_true_eq, bne_iff_ne, ne_eq, Bool.not_eq_eq_eq_not, Bool.not_true] at *
  rw [Bool.not_eq_true] at hfmt
  rw [hfmt]
  simp only [List.mem_cons, List.not_mem_nil, or_false, decide_eq_false_iff_not]
  cases plain <;> simp <;> omega

end Sys2Proof.Proofs.Formats
end
section
/-!
The triggers of FPU (R142, R147 to R151).
-/
namespace Sys2Proof.Proofs.Formats
open Sys2Proof Sys2Proof.Machine Sys2Proof.Claims

variable {i : Instr} {s : State} {m : BitVec 3} {rm : BitVec 2} {op : FpuOp}

theorem issues_fpuElem {f : ElemOp} (hroom : Room s) (hexec : exec i s = runTrigger (fpuElem op m rm f) m s) :
    Issues i s (.fpu op rm) m
      (givesQ (BitVec.ofNat 64 (f (fmtOfF m) (rmOf rm) (me s).lat.fpu.a.toNat (me s).lat.fpu.b.toNat (me s).lat.fpu.c.toNat).1)
        (f (fmtOfF m) (rmOf rm) (me s).lat.fpu.a.toNat (me s).lat.fpu.b.toNat (me s).lat.fpu.c.toNat).2) := by
  have h := issues_of_computeMeaning (computesAtOnce_fpu op rm) hroom hexec rfl
  simp only [trigUnit, LatchFile.get, widen, lo64_setWidth] at h
  exact h

theorem issues_fpuCmp {f : Fmt → (a b : Nat) → Bool × Ev} (hroom : Room s) (hexec : exec i s = runTrigger (fpuCmp op m f) m s) :
    Issues i s (.fpu op 0) m
      (givesQ (if (f (fmtOfF m) (me s).lat.fpu.a.toNat (me s).lat.fpu.b.toNat).1 then 1 else 0)
        (f (fmtOfF m) (me s).lat.fpu.a.toNat (me s).lat.fpu.b.toNat).2) := by
  have h := issues_of_computeMeaning (computesAtOnce_fpu op 0) hroom hexec rfl
  simp only [trigUnit, LatchFile.get, widen, lo64_setWidth] at h
  exact h

theorem fpuTriggersComplete : FpuTriggersComplete := by
  intro op m rm s hroom hop hwf
  cases op
  case cvt | cvti | cvtf => simp at hop
  case add => exact issues_fpuElem (f := elemAdd) hroom rfl
  case sub => exact issues_fpuElem (f := elemSub) hroom rfl
  case mul => exact issues_fpuElem (f := elemMul) hroom rfl
  case fma => exact issues_fpuElem (f := elemFma) hroom rfl
  case div => exact issues_fpuElem (f := elemDiv) hroom rfl
  case sqrt => exact issues_fpuElem (f := elemSqrt) hroom rfl
  case min => exact issues_fpuElem (rm := 0) (f := elemMin) hroom rfl
  case max => exact issues_fpuElem (rm := 0) (f := elemMax) hroom rfl
  case abs => exact issues_fpuElem (rm := 0) (f := elemAbs) hroom rfl
  case neg => exact issues_fpuElem (rm := 0) (f := elemNeg) hroom rfl
  case cls => exact issues_fpuElem (rm := 0) (f := elemClass) hroom rfl
  case eq => exact issues_fpuCmp (f := cmpEq) hroom rfl
  case lt => exact issues_fpuCmp (f := cmpLt) hroom rfl
  case le => exact issues_fpuCmp (f := cmpLe) hroom rfl
  case un => exact issues_fpuCmp (f := cmpUn) hroom rfl

/-- The latch of FPU's operand `.b` holds the record of a conversion in its low half (R151). -/
theorem fpu_record (l : Latches 64) : bits (l.b.setWidth 1024).toNat 31 0 = l.b.toNat % 2 ^ 32 := by
  rw [bits_zero, BitVec.toNat_setWidth]
  omega

theorem issues_fpuConv {plain : Bool} {f : (rec x scale : Nat) → Word × Ev} (hroom : Room s)
    (hexec : exec i s = runTrigger (fpuConv op m rm plain f) m s)
    (hrec : ¬RecordRefused ((me s).lat.fpu.b.toNat % 2 ^ 32) plain) :
    Issues i s (.fpu op rm) m
      (givesQ (f ((me s).lat.fpu.b.toNat % 2 ^ 32) (me s).lat.fpu.a.toNat ((me s).lat.fpu.c.toNat % 2 ^ 8)).1
        (f ((me s).lat.fpu.b.toNat % 2 ^ 32) (me s).lat.fpu.a.toNat ((me s).lat.fpu.c.toNat % 2 ^ 8)).2) := by
  have hok : convRecordBad ((me s).lat.fpu.b.toNat % 2 ^ 32) plain = false :=
    Bool.eq_false_iff.mpr (mt (convRecordBad_iff (Nat.mod_lt _ (by norm_num)) plain).mp hrec)
  have h := issues_of_computeMeaning (computesAtOnce_fpu op rm) hroom hexec
    (by simp only [trigUnit, LatchFile.get, widen, fpu_record, hok]; rfl)
  simp only [trigUnit, LatchFile.get, widen, fpu_record, lo64_setWidth] at h
  have hc : bits ((me s).lat.fpu.c.setWidth 1024).toNat 7 0 = (me s).lat.fpu.c.toNat % 2 ^ 8 := by
    rw [bits_zero, BitVec.toNat_setWidth]; omega
  rw [hc] at h
  exact h

theorem trapsWith_fpuConv {plain : Bool} {f : (rec x scale : Nat) → Word × Ev} (hroom : Room s)
    (hexec : exec i s = runTrigger (fpuConv op m rm plain f) m s)
    (hrec : RecordRefused ((me s).lat.fpu.b.toNat % 2 ^ 32) plain) :
    TrapsWith i s 0x08 (BitVec.ofNat 64 ((me s).lat.fpu.b.toNat % 2 ^ 32)) 0 := by
  have hbad : convRecordBad ((me s).lat.fpu.b.toNat % 2 ^ 32) plain = true :=
    (convRecordBad_iff (Nat.mod_lt _ (by norm_num)) plain).mpr hrec
  refine trapsWith_of_computeMeaning (computesAtOnce_fpu op rm) hroom hexec ?_
  simp only [trigUnit, LatchFile.get, widen, fpu_record, hbad, if_true]
  rfl

theorem fpuConversionsComplete : FpuConversionsComplete := by
  intro op m rm s hroom hop hwf
  cases op
  case cvt =>
    exact ⟨issues_fpuConv (f := fun rec x scale => (word (convCvt (fmtOfF m) (rmOf rm) rec x scale).1,
      (convCvt (fmtOfF m) (rmOf rm) rec x scale).2)) hroom rfl, trapsWith_fpuConv hroom rfl⟩
  case cvti =>
    refine ⟨fun h => ?_, trapsWith_fpuConv hroom rfl⟩
    have hi := issues_fpuConv (i := .fpuCvti m rm) (f := fun rec x scale =>
      (word (wrap (convCvti m (rmOf rm) rec x scale).1 (wWidth m)), (convCvti m (rmOf rm) rec x scale).2)) hroom rfl h
    simp only [wrap_eq, wWidth_eq] at hi
    exact hi
  case cvtf =>
    exact ⟨issues_fpuConv (f := fun rec x _ => (word (convCvtf m (rmOf rm) rec x).1, (convCvtf m (rmOf rm) rec x).2))
      hroom rfl, trapsWith_fpuConv hroom rfl⟩
  all_goals simp at hop

/-- Settles O27: the triggers of FPU compute their result at once; a conversion first checks its record. -/
theorem fpuTriggersGiveTheirResults : Obligations.FpuTriggersGiveTheirResults :=
  ⟨fpuTriggersComplete, fpuConversionsComplete⟩

end Sys2Proof.Proofs.Formats
end

section
/-!
SUPPORT. Lanes packed into a register (R143), and the events of many lanes.
-/
namespace Sys2Proof.Proofs.Formats
open Sys2Proof Sys2Proof.Machine Sys2Proof.Claims

theorem lane_eq (b x i : Nat) : lane b x i = laneOf b x i := by
  rw [lane, laneOf, Nat.shiftRight_eq_div_pow]

theorem packLanes_lt (b : Nat) (l : List Nat) : packLanes b l < 2 ^ (b * l.length) := by
  induction l with
  | nil => simp [packLanes]
  | cons x l ih =>
    have hx : x % 2 ^ b < 2 ^ b := Nat.mod_lt _ (by positivity)
    calc packLanes b (x :: l) = x % 2 ^ b + 2 ^ b * packLanes b l := rfl
      _ < 2 ^ b * (packLanes b l + 1) := by rw [Nat.mul_add]; omega
      _ ≤ 2 ^ b * 2 ^ (b * l.length) := Nat.mul_le_mul_left _ ih
      _ = 2 ^ (b * (x :: l).length) := by rw [← pow_add, List.length_cons]; congr 1; ring

/-- Lane k of packed lanes is element k, or zero past the last. -/
theorem laneOf_packLanes (b : Nat) (l : List Nat) (k : Nat) : laneOf b (packLanes b l) k = l.getD k 0 % 2 ^ b := by
  induction l generalizing k with
  | nil => simp [packLanes, laneOf]
  | cons x l ih =>
    have hx : x % 2 ^ b < 2 ^ b := Nat.mod_lt _ (by positivity)
    cases k with
    | zero => simp [packLanes, laneOf]
    | succ k =>
      rw [List.getD_cons_succ, ← ih, packLanes, laneOf, laneOf, Nat.mul_succ, Nat.add_comm (b * k), pow_add,
        ← Nat.div_div_eq_div_mul, Nat.add_mul_div_left _ _ (by positivity), Nat.div_eq_of_lt hx, Nat.zero_add]

/-- A register keeps the lanes that fit into it. -/
theorem laneOf_ofNat {b : Nat} {l : List Nat} (h : b * l.length ≤ 1024) (k : Nat) :
    laneOf b (BitVec.ofNat 1024 (packLanes b l)).toNat k = l.getD k 0 % 2 ^ b := by
  rw [BitVec.toNat_ofNat, Nat.mod_eq_of_lt ((packLanes_lt b l).trans_le (Nat.pow_le_pow_right (by norm_num) h)),
    laneOf_packLanes]

end Sys2Proof.Proofs.Formats
end
section
/-!
The conversions of VEC (R151 to R153).
-/
namespace Sys2Proof.Proofs.Formats
open Sys2Proof Sys2Proof.Machine Sys2Proof.Claims

theorem computesAtOnce_vec {op : VecOp} {rm : BitVec 2}
    (h : op ∉ [VecOp.exp, .log, .rcp, .rsqrt, .tanh, .sigm, .vld, .vst, .vldWf]) : ComputesAtOnce (.vec op rm) := by
  cases op
  case exp | log | rcp | rsqrt | tanh | sigm | vld | vst | vldWf => simp at h
  all_goals exact ⟨rfl, rfl, rfl, rfl, rfl, fun _ _ _ => rfl, rfl⟩

@[simp] theorem evAnd_evNone (e : Ev) : evAnd e evNone = e := by simp [evAnd, evNone]

/-- Lanes that are left zero raise nothing. -/
theorem evAll_replicate_append (k : Nat) (l : List Ev) : evAll (List.replicate k evNone ++ l) = evAll l := by
  have h : (List.replicate k evNone).foldl evAnd evNone = evNone := by
    induction k with
    | zero => rfl
    | succ k ih => rw [List.replicate_succ, List.foldl_cons, evAnd_evNone, ih]
  rw [evAll, List.foldl_append, h, evAll]

/-- A register of lanes, the first `skip` of them zero. -/
theorem landLanes_eq (b skip n : Nat) (g : Nat → Nat × Ev) (hfit : b * (skip + n) ≤ 1024) :
    ∃ (q : VWord) (e : Ev), landLanes b (List.replicate skip (0, evNone) ++ (List.range n).map g) = ⟨some q, none, e⟩ ∧
      (∀ i < n, laneOf b q.toNat (skip + i) = (g i).1 % 2 ^ b) ∧
      (∀ k, k < skip ∨ skip + n ≤ k → laneOf b q.toNat k = 0) ∧
      e.flags = (List.range n).foldl (fun f i => f ||| (g i).2.flags) 0 ∧
      e.sat = (List.range n).foldl (fun c i => c + (g i).2.sat) 0 := by
  have hlanes : ∀ k, laneOf b (BitVec.ofNat 1024 (packLanes b (List.replicate skip 0 ++ (List.range n).map fun i => (g i).1))).toNat k =
      (List.replicate skip 0 ++ (List.range n).map fun i => (g i).1).getD k 0 % 2 ^ b :=
    laneOf_ofNat (by simpa using hfit)
  refine ⟨_, evAll ((List.range n).map fun i => (g i).2), ?_, fun i hi => (hlanes _).trans ?_, fun k hk => (hlanes _).trans ?_, ?_, ?_⟩
  · simp [landLanes, landV, Function.comp_def, evAll_replicate_append]
  · rw [List.getD_append_right _ _ _ _ (by simp)]
    simp [hi]
  · have hzero : (List.replicate skip 0 ++ (List.range n).map fun i => (g i).1).getD k 0 = 0 := by
      rcases hk with hk | hk
      · rw [List.getD_append _ _ _ _ (by simpa using hk)]
        simp [hk]
      · exact List.getD_eq_default _ _ (by simpa using hk)
    rw [hzero, Nat.zero_mod]
  · rw [evAll_eq, List.foldl_map]
  · simp only [evAll_eq, List.map_map, List.sum_eq_foldl, List.foldl_map, Function.comp_apply]

/-- What a conversion of VEC lands: the elements of one part, or the elements of one register into one part. -/
theorem convLanes_eq (bs ls bd ld p src : Nat) (f : (x e : Nat) → Nat × Ev) (hfit : bd * ld ≤ 1024) (hp : p < max ls ld / min ls ld) :
    let n := min ls ld
    let from_ (i : Nat) : Nat := if n < ls then p * n + i else i
    let to_ (i : Nat) : Nat := if n < ld then p * n + i else i
    let elem (i : Nat) : Nat × Ev := f (laneOf bs src (from_ i)) (from_ i)
    ∃ (q : VWord) (e : Ev), convLanes bs ls bd ld p src f = ⟨some q, none, e⟩ ∧
      (∀ i < n, laneOf bd q.toNat (to_ i) = (elem i).1 % 2 ^ bd) ∧
      (∀ k < ld, (∀ i < n, k ≠ to_ i) → laneOf bd q.toNat k = 0) ∧
      e.flags = (List.range n).foldl (fun f i => f ||| (elem i).2.flags) 0 ∧
      e.sat = (List.range n).foldl (fun c i => c + (elem i).2.sat) 0 := by
  intro n from_ to_ elem
  have hpart : p * n + n ≤ max ls ld := by
    calc p * n + n = (p + 1) * n := by ring
      _ ≤ max ls ld / n * n := Nat.mul_le_mul_right _ hp
      _ ≤ max ls ld := Nat.div_mul_le_self _ _
  have hto : ∀ i, to_ i = (if n < ld then p * n else 0) + i := fun i => by simp only [to_]; split <;> omega
  have hfrom : ∀ i, from_ i = (if n < ls then p * n else 0) + i := fun i => by simp only [from_]; split <;> omega
  have hroom : (if n < ld then p * n else 0) + n ≤ ld := by
    split <;> omega
  obtain ⟨q, e, hq, hin, hout, hflags, hsat⟩ := landLanes_eq bd (if n < ld then p * n else 0) n elem
    (le_trans (Nat.mul_le_mul_left bd hroom) hfit)
  refine ⟨q, e, ?_, fun i hi => hto i ▸ hin i hi, fun k _ hk => hout k ?_, hflags, hsat⟩
  · rw [← hq, convLanes]
    simp only [lane_eq, elem, hfrom]
    rfl
  · by_contra hc
    rw [not_or, not_lt, not_le] at hc
    exact hk (k - if n < ld then p * n else 0) (by omega) (by rw [hto]; omega)

theorem fmtBits_mul_laneCount_le (f : Fmt) : fmtBits f * laneCount f ≤ 1024 := by
  cases f <;> decide

/-! ## The triggers -/

variable {i : Instr} {s : State} {m : BitVec 3} {rm : BitVec 2} {op : VecOp}

/-- The part that a conversion names is out of range (R152), or is not. -/
theorem vecConv_cases {plain : Bool} {counts : (rec : Nat) → Nat × Nat} {f : (rec a b c : Nat) → Landing}
    (hop : op ∉ [VecOp.exp, .log, .rcp, .rsqrt, .tanh, .sigm, .vld, .vst, .vldWf]) (hroom : Room s)
    (hexec : exec i s = runTrigger (vecConv op m rm plain counts f) m s) :
    let l := (me s).lat.vec
    let record := l.b.toNat % 2 ^ 32
    let part := l.b.toNat / 2 ^ 32 % 4
    let ls := (counts record).1
    let ld := (counts record).2
    (RecordRefused record plain → TrapsWith i s 0x08 (BitVec.ofNat 64 record) 0) ∧
    (¬RecordRefused record plain → max ls ld / min ls ld ≤ part → TrapsWith i s 0x11 (l.b.setWidth 64) 0) ∧
    (¬RecordRefused record plain → part < max ls ld / min ls ld →
      Issues i s (.vec op rm) m (f record l.a.toNat l.b.toNat l.c.toNat)) := by
  intro l record part ls ld
  have hrec : bits l.b.toNat 31 0 = record := bits_zero _ _
  have hpart : bits l.b.toNat 33 32 = part := bits_eq _ _ _
  have hbad : convRecordBad record plain = true ↔ RecordRefused record plain :=
    convRecordBad_iff (Nat.mod_lt _ (by norm_num)) plain
  have hc := computesAtOnce_vec (rm := rm) hop
  have hl : (me s).lat.get (trigUnit (.vec op rm)) = l := rfl
  refine ⟨fun h => ?_, fun h hp => ?_, fun h hp => ?_⟩
  · refine trapsWith_of_computeMeaning hc hroom hexec ?_
    rw [hl]
    simp only [hrec, hbad.mpr h, if_true]
    rfl
  · refine trapsWith_of_computeMeaning hc hroom hexec ?_
    rw [hl]
    simp only [hrec, hpart, mt hbad.mp h, Bool.false_eq_true, if_false]
    exact if_pos hp
  · have hi := issues_of_computeMeaning hc hroom hexec (by
      rw [hl]
      simp only [hrec, hpart, mt hbad.mp h, Bool.false_eq_true, if_false]
      exact if_neg (Nat.not_le.mpr hp))
    rw [hl, hrec] at hi
    exact hi

theorem vecScale_eq (rec c e : Nat) : vecScale rec c e = laneOf 8 c (e / 2 ^ (rec / 2 ^ 8 % 8)) := by
  rw [vecScale, lane_eq, bits_eq]; rfl

/-- A conversion between the lanes of two formats: what it refuses, and the elements that it handles (R151 to R153). -/
theorem vecConv_part {plain : Bool} {fop : FpuOp} {bs bd : (rec : Nat) → Nat} {counts : (rec : Nat) → Nat × Nat}
    {g : (rec c x e : Nat) → Nat × Ev}
    (hop : op ∉ [VecOp.exp, .log, .rcp, .rsqrt, .tanh, .sigm, .vld, .vst, .vldWf]) (hroom : Room s)
    (hexec : exec i s = runTrigger (vecConv op m rm plain counts (fun rec a b c =>
      convLanes (bs rec) (counts rec).1 (bd rec) (counts rec).2 (bits b 33 32) a (g rec c))) m s)
    (hfit : ∀ rec, bd rec * (counts rec).2 ≤ 1024)
    (hg : ∀ rec c x e, g rec c x e = convElement fop m rm rec x (laneOf 8 c (e / 2 ^ (rec / 2 ^ 8 % 8)))) :
    let l := (me s).lat.vec
    let record := l.b.toNat % 2 ^ 32
    let part := l.b.toNat / 2 ^ 32 % 4
    let (ls, ld) := counts record
    let n := min ls ld
    let src (i : Nat) : Nat := if n < ls then part * n + i else i
    let dst (i : Nat) : Nat := if n < ld then part * n + i else i
    let elem (i : Nat) : Nat × Ev := convElement fop m rm record (laneOf (bs record) l.a.toNat (src i))
      (laneOf 8 l.c.toNat (src i / 2 ^ (record / 2 ^ 8 % 8)))
    (RecordRefused record plain → TrapsWith i s 0x08 (BitVec.ofNat 64 record) 0) ∧
    (¬RecordRefused record plain → max ls ld / n ≤ part → TrapsWith i s 0x11 (l.b.setWidth 64) 0) ∧
    (¬RecordRefused record plain → part < max ls ld / n →
      ∃ (q : VWord) (e : Ev), Issues i s (.vec op rm) m ⟨some q, none, e⟩ ∧
        (∀ i < n, laneOf (bd record) q.toNat (dst i) = (elem i).1 % 2 ^ bd record) ∧
        (∀ k < ld, (∀ i < n, k ≠ dst i) → laneOf (bd record) q.toNat k = 0) ∧
        e.flags = (List.range n).foldl (fun f i => f ||| (elem i).2.flags) 0 ∧
        e.sat = (List.range n).foldl (fun c i => c + (elem i).2.sat) 0) := by
  intro l record part
  obtain ⟨hformat, hpart, hissue⟩ := vecConv_cases hop hroom hexec
  refine ⟨hformat, hpart, fun h hp => ?_⟩
  obtain ⟨q, e, hq, hrest⟩ := convLanes_eq (bs record) _ (bd record) _ part l.a.toNat (g record l.c.toNat) (hfit record) hp
  simp only [hg] at hrest
  refine ⟨q, e, ?_, hrest⟩
  have hi := hissue h hp
  rw [show bits l.b.toNat 33 32 = part from bits_eq _ _ _, hq] at hi
  exact hi

/-- Settles O32: a conversion checks its record, then its part, and handles the elements of the part. -/
theorem vecConversionsHandleOnePart : Obligations.VecConversionsHandleOnePart := by
  intro op fop m rm s hroom hop hwf
  have hint : wOf m * (1024 / wOf m) ≤ 1024 := Nat.mul_div_le _ _
  simp only [List.mem_cons, List.not_mem_nil, or_false, Prod.mk.injEq] at hop
  rcases hop with ⟨rfl, rfl⟩ | ⟨rfl, rfl⟩ | ⟨rfl, rfl⟩
  case inl =>
    exact vecConv_part (i := .vecCvt m rm) (op := .cvt) (plain := false) (bs := fun rec => fmtBits (recordFmt rec))
      (bd := fun _ => fmtBits (fmtOfF m)) (counts := fun rec => (laneCount (recordFmt rec), laneCount (fmtOfF m)))
      (g := fun rec c x e => convCvt (fmtOfF m) (rmOf rm) rec x (vecScale rec c e)) (by decide) hroom rfl
      (fun _ => fmtBits_mul_laneCount_le _) (fun rec c x e => by rw [vecScale_eq]; rfl)
  case inr.inl =>
    exact vecConv_part (i := .vecCvti m rm) (op := .cvti) (plain := false) (bs := fun rec => fmtBits (recordFmt rec))
      (bd := fun _ => wOf m) (counts := fun rec => (laneCount (recordFmt rec), 1024 / wOf m))
      (g := fun rec c x e => (wrap (convCvti m (rmOf rm) rec x (vecScale rec c e)).1 (wOf m),
        (convCvti m (rmOf rm) rec x (vecScale rec c e)).2)) (by decide) hroom (by rw [← wWidth_eq]; rfl)
      (fun _ => hint) (fun rec c x e => by rw [vecScale_eq, wrap_eq]; rfl)
  case inr.inr =>
    exact vecConv_part (i := .vecCvtf m rm) (op := .cvtf) (plain := true) (bs := fun _ => wOf m)
      (bd := fun rec => fmtBits (recordFmt rec)) (counts := fun rec => (1024 / wOf m, laneCount (recordFmt rec)))
      (g := fun rec _ x _ => convCvtf m (rmOf rm) rec x) (by decide) hroom (by rw [← wWidth_eq]; rfl)
      (fun _ => fmtBits_mul_laneCount_le _) (fun rec c x e => rfl)

end Sys2Proof.Proofs.Formats
end

section
/-!
SUPPORT. Writes to a scratchpad (R45): what they leave alone, and what they leave to be read.
-/
namespace Sys2Proof.Proofs.Formats
open Sys2Proof Sys2Proof.Machine Sys2Proof.Claims

/-! ## Changes of a vtile, one after the other -/

theorem Tbl.modify_id {α : Type} (t : Tbl α) (k : Nat) {f : α → α} (hf : ∀ a, f a = a) : Tbl.modify t k f = t := by
  induction t with
  | nil => rfl
  | cons p t ih =>
    obtain ⟨j, a⟩ := p
    simp [Tbl.modify, hf, ih]

theorem modVt_id (s : State) (v : VRef) {f : Vtile → Vtile} (hf : ∀ t, f t = t) : s.modVt v f = s := by
  simp [State.modVt, State.inCtx, Tbl.modify_id _ _ hf, Tbl.modify_id s.ctxs v.ctx (fun c => rfl)]

theorem modVt_modVt (s : State) (v : VRef) (f g : Vtile → Vtile) :
    (s.modVt v f).modVt v g = s.modVt v (fun t => g (f t)) := by
  simp [State.modVt, State.inCtx, Tbl.modify_modify]

/-! ## What a write of bytes leaves alone -/

/-- The second state differs from the first in the bytes and marks of one scratchpad and in rim memory alone. -/
def OnlyBytes (v : VRef) (s u : State) : Prop :=
  ∃ (f : Vtile → Vtile) (rim : Rim), (∀ t, ∃ sp marks, f t = { t with sp := sp, marks := marks }) ∧
    u = { s.modVt v f with rim := rim }

variable {s u w : State} {v : VRef}

theorem OnlyBytes.refl (v : VRef) (s : State) : OnlyBytes v s s :=
  ⟨fun t => t, s.rim, fun t => ⟨t.sp, t.marks, rfl⟩, by rw [modVt_id s v (fun _ => rfl)]⟩

theorem OnlyBytes.trans (h : OnlyBytes v s u) (h' : OnlyBytes v u w) : OnlyBytes v s w := by
  obtain ⟨f, rim, hf, rfl⟩ := h
  obtain ⟨g, rim', hg, rfl⟩ := h'
  refine ⟨fun t => g (f t), rim', fun t => ?_, ?_⟩
  · obtain ⟨sp, marks, ht⟩ := hf t
    obtain ⟨sp', marks', ht'⟩ := hg (f t)
    exact ⟨sp', marks', ht'.trans (by rw [ht])⟩
  · show ({ (s.modVt v f).modVt v g with rim := rim' } : State) = _
    rw [modVt_modVt]

theorem onlyBytes_modRim (f : Memory → Memory) : OnlyBytes v s (s.modRim f) :=
  ⟨fun t => t, _, fun t => ⟨t.sp, t.marks, rfl⟩, by rw [modVt_id s v (fun _ => rfl)]; rfl⟩

theorem onlyBytes_cleanBursts (a n : Nat) : OnlyBytes v s (s.cleanBursts a n) :=
  ⟨fun t => t, _, fun t => ⟨t.sp, t.marks, rfl⟩, by rw [modVt_id s v (fun _ => rfl)]; rfl⟩

theorem onlyBytes_modVt {f : Vtile → Vtile} (hf : ∀ t, ∃ sp marks, f t = { t with sp := sp, marks := marks }) :
    OnlyBytes v s (s.modVt v f) := ⟨f, s.rim, hf, rfl⟩

theorem onlyBytes_spPutBytes (s : State) (v : VRef) (a : Nat) (bs : List Byte) : OnlyBytes v s (s.spPutBytes v a bs) := by
  induction bs generalizing s a with
  | nil => exact .refl v s
  | cons b bs ih =>
    refine .trans ?_ (ih _ (a + 1))
    unfold State.spPut
    split
    · exact onlyBytes_modRim _
    · exact onlyBytes_modVt (fun _ => ⟨_, _, rfl⟩)

theorem onlyBytes_cleanImage (s : State) (v : VRef) (a n : Nat) : OnlyBytes v s (s.cleanImage v a n) := by
  unfold State.cleanImage
  generalize (s.vt v).spOut.filter _ = l
  induction l generalizing s with
  | nil => exact .refl v s
  | cons k l ih => exact .trans (onlyBytes_cleanBursts _ _) (ih _)

theorem onlyBytes_spWriteBytes (s : State) (v : VRef) (a : Nat) (bs : List Byte) : OnlyBytes v s (s.spWriteBytes v a bs) :=
  ((onlyBytes_spPutBytes s v a bs).trans (onlyBytes_cleanImage _ v a _)).trans (onlyBytes_modVt (fun _ => ⟨_, _, rfl⟩))

/-- A part of a vtile that is neither its bytes nor its marks stays. -/
theorem OnlyBytes.vt_keeps {β : Type} (h : OnlyBytes v s u) (p : Vtile → β)
    (hp : ∀ t sp marks, p { t with sp := sp, marks := marks } = p t) (x : VRef) : p (u.vt x) = p (s.vt x) := by
  obtain ⟨f, rim, hf, rfl⟩ := h
  exact vt_modVt_keeps s p v x (fun t => by obtain ⟨sp, marks, ht⟩ := hf t; rw [ht, hp])

theorem OnlyBytes.slot (h : OnlyBytes v s u) (q : SRef) : u.slot q = s.slot q := by
  rw [State.slot, State.slot, h.vt_keeps Vtile.slots (fun _ _ _ => rfl)]

theorem OnlyBytes.hasVt (h : OnlyBytes v s u) (x : VRef) : u.hasVt x = s.hasVt x := by
  obtain ⟨f, rim, hf, rfl⟩ := h
  exact State.hasVt_modVt s v x f

theorem OnlyBytes.ctx (h : OnlyBytes v s u) (n : Nat) : ∃ vts, u.ctx n = { s.ctx n with vts := vts } := by
  obtain ⟨f, rim, hf, rfl⟩ := h
  exact ctx_modVt s v n f

theorem OnlyBytes.msgs (h : OnlyBytes v s u) (n : Nat) : (u.ctx n).msgs = (s.ctx n).msgs := by
  obtain ⟨vts, e⟩ := h.ctx n; rw [e]

theorem OnlyBytes.commons (h : OnlyBytes v s u) (n : Nat) : (u.ctx n).commons = (s.ctx n).commons := by
  obtain ⟨vts, e⟩ := h.ctx n; rw [e]

/-! ## A scratchpad that is all in the tile -/

theorem unitOut_false (h : (s.vt v).spOut = []) (a : Nat) : (s.vt v).unitOut a = false := by
  rw [Vtile.unitOut, h]; rfl

theorem spGet_in (h : (s.vt v).spOut = []) (a : Nat) : s.spGet v a = memGet (s.vt v).sp a := by
  rw [State.spGet]; simp [unitOut_false h]

theorem spRead_in (h : (s.vt v).spOut = []) (a n : Nat) : s.spRead v a n = memRead (s.vt v).sp a n := by
  induction n generalizing a with
  | zero => rfl
  | succ n ih => rw [State.spRead, memRead, spGet_in h, ih]

theorem feGet_in (h : (s.vt v).spOut = []) (a : Nat) : s.feGet v a = setHas (s.vt v).fe (a / 8) := by
  rw [State.feGet]; simp [unitOut_false h]

theorem spPutBytes_in (hv : s.hasVt v = true) (h : (s.vt v).spOut = []) (a : Nat) (bs : List Byte) :
    s.spPutBytes v a bs = s.modVt v (fun t => { t with sp := memWriteBytes t.sp a bs }) := by
  induction bs generalizing s a with
  | nil => exact (modVt_id s v (fun _ => rfl)).symm
  | cons b bs ih =>
    have hput : s.spPut v a b = s.modVt v (fun t => { t with sp := memPut t.sp a b }) := by
      rw [State.spPut]; simp [unitOut_false h]
    rw [State.spPutBytes, hput, ih (by rw [State.hasVt_modVt, hv]) (by rw [State.vt_modVt_self s v _ hv]; exact h), modVt_modVt]
    rfl

/-- The bytes of a scratchpad that is all in the tile, after a write. -/
theorem sp_spWriteBytes (hv : s.hasVt v = true) (h : (s.vt v).spOut = []) (a : Nat) (bs : List Byte) :
    ((s.spWriteBytes v a bs).vt v).sp = memWriteBytes (s.vt v).sp a bs := by
  have hput : ((s.spPutBytes v a bs).vt v).spOut = [] := by
    rw [(onlyBytes_spPutBytes s v a bs).vt_keeps Vtile.spOut (fun _ _ _ => rfl), h]
  have hclean : (s.spPutBytes v a bs).cleanImage v a bs.length = s.spPutBytes v a bs := by
    rw [State.cleanImage, hput]; rfl
  rw [State.spWriteBytes, hclean, spPutBytes_in hv h, modVt_modVt, State.vt_modVt_self s v _ hv]

theorem spOut_spWriteBytes (s : State) (v x : VRef) (a : Nat) (bs : List Byte) :
    ((s.spWriteBytes v a bs).vt x).spOut = (s.vt x).spOut :=
  (onlyBytes_spWriteBytes s v a bs).vt_keeps Vtile.spOut (fun _ _ _ => rfl) x

/-! ## Fields of a run of bytes -/

/-- The number that n bytes of a run hold, from an offset on (R3). -/
def fieldAt (bs : List Byte) (off n : Nat) : Nat := ofBytes ((bs.drop off).take n)

theorem fieldAt_append_left {as bs : List Byte} {off n : Nat} (h : off + n ≤ as.length) :
    fieldAt (as ++ bs) off n = fieldAt as off n := by
  rw [fieldAt, fieldAt, List.drop_append_of_le_length (by omega), List.take_append_of_le_length (by simp; omega)]

theorem fieldAt_append_right {as bs : List Byte} {off n : Nat} (h : as.length ≤ off) :
    fieldAt (as ++ bs) off n = fieldAt bs (off - as.length) n := by
  rw [fieldAt, fieldAt, List.drop_append, List.drop_eq_nil_of_le h, List.nil_append]

theorem fieldAt_toBytes (n x : Nat) : fieldAt (toBytes n x) 0 n = x % 256 ^ n := by
  rw [fieldAt, List.drop_zero, List.take_of_length_le (by simp), ofBytes_toBytes]

theorem ofBytes_replicate_zero (n : Nat) : ofBytes (List.replicate n 0) = 0 := by
  induction n with
  | zero => rfl
  | succ n ih => rw [List.replicate_succ, ofBytes, ih]; rfl

theorem fieldAt_replicate_zero (k off n : Nat) : fieldAt (List.replicate k 0) off n = 0 := by
  rw [fieldAt, List.drop_replicate, List.take_replicate, ofBytes_replicate_zero]

/-- Elements of one size side by side: each stands at its multiple of the size. -/
theorem fieldAt_flatMap {α : Type} {c : Nat} (g : α → List Byte) (hg : ∀ x, (g x).length = c) (l : List α) {k : Nat}
    (hk : k < l.length) {off n : Nat} (h : off + n ≤ c) : fieldAt (l.flatMap g) (c * k + off) n = fieldAt (g l[k]) off n := by
  induction l generalizing k with
  | nil => simp at hk
  | cons x l ih =>
    rw [List.flatMap_cons]
    cases k with
    | zero => rw [Nat.mul_zero, Nat.zero_add, fieldAt_append_left (by rw [hg]; exact h)]; rfl
    | succ k =>
      rw [fieldAt_append_right (by rw [hg, Nat.mul_succ]; omega), hg,
        show c * (k + 1) + off - c = c * k + off by rw [Nat.mul_succ]; omega, ih (by simpa using hk)]
      rfl

theorem memRead_memWriteBytes_field {m : Memory} (h : m.wf = true) (a : Nat) (bs : List Byte) {off n : Nat}
    (hn : off + n ≤ bs.length) : memRead (memWriteBytes m a bs) (a + off) n = fieldAt bs off n := by
  induction n generalizing off with
  | zero => simp [memRead, fieldAt, ofBytes]
  | succ n ih =>
    have hlt : off < bs.length := by omega
    rw [memRead, memGet_memWriteBytes_in h a bs off hlt, Nat.add_assoc, ih (by omega), fieldAt, fieldAt,
      List.drop_eq_getElem_cons hlt, List.take_succ_cons, ofBytes]

theorem memRead_memWriteBytes_out {m : Memory} (h : m.wf = true) (a : Nat) (bs : List Byte) {b n : Nat}
    (hb : b + n ≤ a ∨ a + bs.length ≤ b) : memRead (memWriteBytes m a bs) b n = memRead m b n := by
  induction n generalizing b with
  | zero => rfl
  | succ n ih => rw [memRead, memRead, memGet_memWriteBytes_out h a bs (by omega), ih (by omega)]

/-- What is read of a write, of a scratchpad that is all in the tile. -/
theorem spRead_spWriteBytes (hv : s.hasVt v = true) (h : (s.vt v).spOut = []) (hwf : (s.vt v).sp.wf = true) (a : Nat)
    (bs : List Byte) {off n : Nat} (hn : off + n ≤ bs.length) :
    (s.spWriteBytes v a bs).spRead v (a + off) n = fieldAt bs off n := by
  rw [spRead_in (by rw [spOut_spWriteBytes, h]), sp_spWriteBytes hv h, memRead_memWriteBytes_field hwf a bs hn]

theorem spGet_spWriteBytes_out (hv : s.hasVt v = true) (h : (s.vt v).spOut = []) (hwf : (s.vt v).sp.wf = true) (a : Nat)
    (bs : List Byte) {b : Nat} (hb : b < a ∨ a + bs.length ≤ b) : (s.spWriteBytes v a bs).spGet v b = s.spGet v b := by
  rw [spGet_in (by rw [spOut_spWriteBytes, h]), spGet_in h, sp_spWriteBytes hv h, memGet_memWriteBytes_out hwf a bs hb]

end Sys2Proof.Proofs.Formats
end

section
/-!
SUPPORT. Taking a trap (R343 to R346): the way into the handler of a slot in which nothing can be performed or landed first.
-/
namespace Sys2Proof.Proofs.Formats
open Sys2Proof Sys2Proof.Machine Sys2Proof.Claims

/-! ## Conditions of trap entry -/

theorem b2n_mul (b : Bool) (n : Nat) : b2n b * n = if b then n else 0 := by cases b <;> simp [b2n]

theorem tcauseWord_eq {t : TrapReq} (hcode : t.code < 2 ^ 8) (hmove : t.move < 8) (held more : Bool) :
    tcauseWord t held more = causeWord t held more := by
  rw [tcauseWord, causeWord, word, Nat.mod_eq_of_lt hcode, Nat.mod_eq_of_lt hmove, b2n_mul, b2n_mul, b2n_mul]

/-- The vector that control takes is the handler of the table's last entry. -/
theorem vector?_eq_some_iff (t : Vtile) (ix : Nat) : t.vector? = some ix ↔ TrapHandlerAt t ix := by
  have hget : vget t.hnds 31 0 = t.hnds.get 31 := rfl
  rw [Vtile.vector?, TrapHandlerAt, hget, bit, bit, BitVec.testBit_toNat, BitVec.testBit_toNat, bits_eq, bits_zero]
  cases (t.hnds.get 31).getLsbD 54 <;> cases (t.hnds.get 31).getLsbD 55 <;> simp [eq_comm]

theorem vector?_eq_none_iff (t : Vtile) : t.vector? = none ↔ ∀ ix, ¬TrapHandlerAt t ix := by
  rw [Option.eq_none_iff_forall_not_mem]
  exact forall_congr' fun ix => not_congr (vector?_eq_some_iff t ix)

theorem frameArea_fits (t : Vtile) :
    (decide (spSize < t.tfbase + 0x8000) || t.overlapsPorts t.tfbase 0x8000) = false ↔ FrameAreaOk t := by
  have hn : (0x8000 != 0) = true := rfl
  rw [FrameAreaOk, Vtile.overlapsPorts, spSize, hn, Bool.or_eq_false_iff, decide_eq_false_iff_not, Nat.not_lt, Bool.and_true,
    Bool.and_eq_false_iff, Bool.and_eq_false_iff, bne_eq_false_iff_eq, decide_eq_false_iff_not, decide_eq_false_iff_not]
  omega

/-! ## The steps before the frame -/

/-- The hold and the message of a FORMAT trap, before anything else (R63). -/
def formatHold (s : State) (r : SRef) (t : TrapReq) (held : Bool) : State :=
  if t.code = 0x08 then
    s.holdVtile r.vt true 0x22 [tcauseWord t held (s.moreHeld r), t.tval, t.tinst, word r.slot.val, 0]
  else s

/-- An operation that trap entry neither performs nor lands: it goes into a record as it stands. -/
def StaysUnderWay (s : State) (r : SRef) (f : Flight) : Prop :=
  (f.res = none ∨ trigAbandoned f.trig = true) ∧ (f.trig = .cpe .seal → f.performed = true) ∧
  (trigIsMemory f.trig = true → f.performed = false → trigIsCommons f.trig = true ∨ s.waitsForFill r f = true)

/-- The operations that trap entry records, and their records (R345). -/
def keptOps (ops : List Flight) (replay : Option Flight) : List Flight :=
  (ops ++ replay.toList.map (fun (f : Flight) => ({ f with performed := false, res := none } : Flight))).take 32

def keptRecs (ops : List Flight) (replay : Option Flight) : List (Rec × Option VWord) :=
  (recsOf 0 (keptOps ops replay)).map (fun p =>
    if replay.any (fun f => p.1.tseq == f.tseq && p.1.unit == unitNum f.unit) then ({ p.1 with reissue := true }, p.2) else p)

/-- The frame of a slot (R344). -/
def frameOfSlot (s : State) (r : SRef) (t : TrapReq) (resume : Nat) (held : Bool) (replay : Option Flight) : List Byte :=
  frameBytes (s.slot r) (tcauseWord t held (s.moreHeld r)) t.tval t.tinst resume (keptRecs (s.slot r).ops replay)

/-- The state once the frame is written. -/
def framed (s : State) (r : SRef) (t : TrapReq) (resume : Nat) (held : Bool) (replay : Option Flight) : State :=
  (formatHold s r t held).spWriteBytes r.vt (frameOf (s.vt r.vt) r.slot) (frameOfSlot s r t resume held replay)

/-- The slot in its handler (R343). -/
def inHandler (t : TrapReq) (tcause : Word) (frame ix : Nat) (kept : List Flight) (sl : Slot) : Slot :=
  { sl with
    status := .trapped, sup := true, supBefore := sl.sup, ix := ix, entry := .fallthrough, alone := true,
    pair2 := false, park := none, tcause := tcause, tval := t.tval, tinst := t.tinst, tframe := word frame, rep := [],
    ops := [], saved := (List.range kept.length).zip kept, savedSeq := some (sl.tseq, sl.landedQ, sl.landedQ2) }

variable {s : State} {r : SRef} {t : TrapReq} {held : Bool}

section
variable (s r t held)

@[simp] theorem slot_formatHold (q : SRef) : (formatHold s r t held).slot q = s.slot q := by
  unfold formatHold; split <;> simp

@[simp] theorem hasVt_formatHold (w : VRef) : (formatHold s r t held).hasVt w = s.hasVt w := by
  unfold formatHold; split <;> simp

@[simp] theorem desc_formatHold (n : Nat) : ((formatHold s r t held).ctx n).desc = (s.ctx n).desc := by
  unfold formatHold; split <;> simp

@[simp] theorem spGet_formatHold (w : VRef) (a : Nat) : (formatHold s r t held).spGet w a = s.spGet w a := by
  unfold formatHold; split <;> simp

@[simp] theorem feGet_formatHold (w : VRef) (a : Nat) : (formatHold s r t held).feGet w a = s.feGet w a := by
  unfold formatHold; split <;> simp

theorem vt_formatHold_keeps {β : Type} (p : Vtile → β) (hp : ∀ t hold, p { t with hold := hold } = p t) (w : VRef) :
    p ((formatHold s r t held).vt w) = p (s.vt w) := by
  unfold formatHold
  split
  · exact vt_holdVtile_keeps s _ _ _ _ p hp w
  · rfl

end

/-- A fold over elements that each leave the value as it is. -/
theorem foldl_eq_self {α β : Type} {g : β → α → β} {b : β} {l : List α} (h : ∀ a ∈ l, g b a = b) : l.foldl g b = b := by
  induction l with
  | nil => rfl
  | cons a l ih => rw [List.foldl_cons, h a (by simp), ih fun a ha => h a (by simp [ha])]

theorem drainStores_of_empty (h : (s.slot r).sb = []) : s.drainStores r = s := by
  rw [State.drainStores, h]; rfl

theorem performDrained_stays (h : ∀ f ∈ (s.slot r).ops, StaysUnderWay s r f) :
    s.performDrained r (s.slot r).unperformed = s := by
  have hmemory : (((s.slot r).unperformed.filter (fun f => !trigIsCommons f.trig)).foldl (fun s f =>
      if s.spReady r f then s.performSp r f else s) s) = s := by
    refine foldl_eq_self fun f hf => if_neg ?_
    obtain ⟨hun, hcommons⟩ := List.mem_filter.mp hf
    obtain ⟨hops, hopen⟩ := List.mem_filter.mp hun
    obtain ⟨-, -, hwaits⟩ := h f hops
    obtain ⟨hperf, hmem⟩ := Bool.and_eq_true_iff.mp hopen
    obtain hc | hw := hwaits hmem (by simpa using hperf)
    · simp [hc] at hcommons
    · simp [State.spReady, hw]
  rw [State.performDrained, hmemory]
  refine foldl_eq_self fun f hf => ?_
  obtain ⟨hops, hseal⟩ := List.mem_filter.mp hf
  obtain ⟨-, hperformed, -⟩ := h f hops
  simp only [Bool.and_eq_true, beq_iff_eq] at hseal
  simp [hperformed hseal.1] at hseal

theorem landAll_stays (h : ∀ f ∈ (s.slot r).ops, StaysUnderWay s r f) :
    s.landAll r ((s.slot r).ops.filter (fun f => f.res.isSome && !trigAbandoned f.trig)) = s := by
  have hnone : (s.slot r).ops.filter (fun f => f.res.isSome && !trigAbandoned f.trig) = [] := by
    refine List.filter_eq_nil_iff.mpr fun f hf => ?_
    obtain ⟨hres | habandoned, -, -⟩ := h f hf
    · simp [hres]
    · simp [habandoned]
  rw [hnone]; rfl

theorem staysUnderWay_formatHold {f : Flight} (h : StaysUnderWay s r f) : StaysUnderWay (formatHold s r t held) r f := by
  simpa only [StaysUnderWay, State.waitsForFill, State.feAll, feGet_formatHold] using h

/-- Trap entry of a slot of which everything under way goes into records: up to the vector it writes the frame, and no more. -/
theorem takeTrap_of_stays (hstatus : (s.slot r).status ≠ .trapped) (harea : FrameAreaOk (s.vt r.vt))
    (hsb : (s.slot r).sb = []) (hops : ∀ f ∈ (s.slot r).ops, StaysUnderWay s r f) (resume : Nat) (replay : Option Flight) :
    s.takeTrap r t resume held replay = ((s.vt r.vt).vector?).elim
      ((framed s r t resume held replay).fatalTrap r 0x20 (tcauseWord t held (s.moreHeld r)) t.tval t.tinst)
      (fun ix => (framed s r t resume held replay).modSlot r (inHandler t (tcauseWord t held (s.moreHeld r))
        (frameOf (s.vt r.vt) r.slot) ix (keptOps (s.slot r).ops replay))) := by
  have hstatus' : ((s.slot r).status == SlotStatus.trapped) = false := by simpa using hstatus
  have hplace : ∀ u : Vtile, u.tfbase = (s.vt r.vt).tfbase → u.psBase = (s.vt r.vt).psBase → u.psSize = (s.vt r.vt).psSize →
      (decide (spSize < u.tfbase + 0x8000) || u.overlapsPorts u.tfbase 0x8000) = false := by
    intro u h1 h2 h3
    refine (frameArea_fits u).mpr ?_
    rwa [FrameAreaOk, h1, h2, h3]
  have hdrain : (formatHold s r t held).drainStores r = formatHold s r t held := drainStores_of_empty (by simpa using hsb)
  have hstays : ∀ f ∈ ((formatHold s r t held).slot r).ops, StaysUnderWay (formatHold s r t held) r f := by
    simpa using fun f hf => staysUnderWay_formatHold (hops f hf)
  have hplace' := hplace ((formatHold s r t held).vt r.vt) (vt_formatHold_keeps s r t held Vtile.tfbase (fun _ _ => rfl) r.vt)
    (vt_formatHold_keeps s r t held Vtile.psBase (fun _ _ => rfl) r.vt)
    (vt_formatHold_keeps s r t held Vtile.psSize (fun _ _ => rfl) r.vt)
  have hvector : ((formatHold s r t held).vt r.vt).vector? = (s.vt r.vt).vector? :=
    vt_formatHold_keeps s r t held Vtile.vector? (fun _ _ => rfl) r.vt
  have hframe : ((formatHold s r t held).vt r.vt).frameAddr r = frameOf (s.vt r.vt) r.slot :=
    vt_formatHold_keeps s r t held (fun v => v.frameAddr r) (fun _ _ => rfl) r.vt
  have hhold : (if t.code = 0x08 then
      s.holdVtile r.vt true 0x22 [tcauseWord t held (s.moreHeld r), t.tval, t.tinst, word r.slot.val, 0] else s) =
      formatHold s r t held := rfl
  have hslot : (formatHold s r t held).slot r = s.slot r := slot_formatHold s r t held r
  have hperform := performDrained_stays hstays
  have hland := landAll_stays hstays
  rw [hslot] at hperform hland
  rw [framed]
  generalize formatHold s r t held = w at *
  simp only [State.takeTrap, hhold, hslot, hstatus', hplace', hdrain, hperform, hland, hvector, hframe, Bool.false_eq_true,
    if_false]
  cases (s.vt r.vt).vector? with
  | none => rfl
  | some ix => rfl

end Sys2Proof.Proofs.Formats
end

section
/-!
SUPPORT. The frame of a slot (R344, R345): its parts, their lengths, and what stands at each offset.
-/
namespace Sys2Proof.Proofs.Formats
open Sys2Proof Sys2Proof.Machine Sys2Proof.Claims

/-! ## The parts of a frame -/

def frameHead (tcause tval tinst : Word) (resume : Nat) (csel : Word) (nrec : Nat) : List Byte :=
  toBytes 8 tcause.toNat ++ (toBytes 8 tval.toNat ++ (toBytes 8 tinst.toNat ++ (toBytes 8 resume ++ (toBytes 8 csel.toNat ++
    (toBytes 8 nrec ++ List.replicate 16 0)))))

def frameRep (rep : List RepEntry) (i : Nat) : List Byte :=
  match rep[i]? with
  | some e => toBytes 8 e.first ++ toBytes 8 e.last ++ toBytes 8 e.remaining
  | none => List.replicate 24 0

def frameReps (rep : List RepEntry) : List Byte :=
  toBytes 8 rep.length ++ (frameRep rep 0 ++ (frameRep rep 1 ++ (frameRep rep 2 ++ (frameRep rep 3 ++ List.replicate 24 0))))

def frameRegs (sl : Slot) : List Byte :=
  ((sl.x.toList.drop 1).take 15).flatMap (fun x => toBytes 8 x.toNat) ++ (toBytes 8 (sl.p.toNat / 2 * 2) ++
    sl.h.toList.flatMap (fun h => toBytes 8 h.toNat))

def frameWide (l : List VWord) : List Byte := l.flatMap (fun v => toBytes 128 v.toNat)

def frameLats (l : LatchFile) : List Byte :=
  (frameLatches l).flatMap (fun x => toBytes 8 x.toNat) ++ (List.replicate 24 0 ++
    (frameWide [l.vec.a, l.vec.b, l.vec.c, l.vec.q, l.vec.q2] ++ frameWide [l.rng.a, l.rng.b, l.rng.q]))

def frameRecs (recs : List Rec) : List Byte := recs.flatMap recBytes ++ List.replicate (32 * (32 - recs.length)) 0

def frameBlocks (blocks : List VWord) : List Byte := frameWide blocks ++ List.replicate (128 * (4 - blocks.length)) 0

theorem frameBytes_eq (sl : Slot) (tcause tval tinst : Word) (resume : Nat) (recs : List (Rec × Option VWord)) :
    frameBytes sl tcause tval tinst resume recs = frameHead tcause tval tinst resume sl.csel recs.length ++
      (frameReps sl.rep ++ (frameRegs sl ++ (frameLats sl.lat ++ (frameRecs (recs.map Prod.fst) ++
        frameBlocks (recs.filterMap Prod.snd))))) := by
  simp only [frameBytes, frameHead, frameReps, frameRep, frameRegs, frameLats, frameRecs, frameBlocks, frameWide,
    List.append_assoc, List.flatMap_map, List.length_map] <;> rfl

@[simp] theorem length_frameHead (tcause tval tinst : Word) (resume : Nat) (csel : Word) (nrec : Nat) :
    (frameHead tcause tval tinst resume csel nrec).length = 64 := by simp [frameHead]

@[simp] theorem length_frameRep (rep : List RepEntry) (i : Nat) : (frameRep rep i).length = 24 := by
  unfold frameRep; split <;> simp

@[simp] theorem length_frameReps (rep : List RepEntry) : (frameReps rep).length = 128 := by simp [frameReps]

theorem length_flatMap_of_length {α β : Type} {c : Nat} (g : α → List β) (hg : ∀ x, (g x).length = c) (l : List α) :
    (l.flatMap g).length = c * l.length := by
  simp [List.length_flatMap, hg, Nat.mul_comm]

@[simp] theorem length_flatMap_toBytes {α : Type} (n : Nat) (g : α → Nat) (l : List α) :
    (l.flatMap (fun x => toBytes n (g x))).length = n * l.length := length_flatMap_of_length _ (fun _ => by simp) l

@[simp] theorem length_frameRegs (sl : Slot) : (frameRegs sl).length = 192 := by simp [frameRegs]

@[simp] theorem length_frameLats (l : LatchFile) : (frameLats l).length = 1344 := by
  simp [frameLats, frameWide, frameLatches]

@[simp] theorem length_recBytes (r : Rec) : (recBytes r).length = 32 := by simp [recBytes]

theorem length_frameRecs {recs : List Rec} (h : recs.length ≤ 32) : (frameRecs recs).length = 1024 := by
  rw [frameRecs, List.length_append, length_flatMap_of_length recBytes length_recBytes, List.length_replicate]
  omega

theorem length_frameBlocks {blocks : List VWord} (h : blocks.length ≤ 4) : (frameBlocks blocks).length = 512 := by
  rw [frameBlocks, frameWide, List.length_append, length_flatMap_toBytes, List.length_replicate]
  omega

theorem length_frameBytes (sl : Slot) (tcause tval tinst : Word) (resume : Nat) {recs : List (Rec × Option VWord)}
    (hrecs : recs.length ≤ 32) (hblocks : (recs.filterMap Prod.snd).length ≤ 4) :
    (frameBytes sl tcause tval tinst resume recs).length = 0xCC0 := by
  simp [frameBytes_eq, length_frameRecs (recs := recs.map Prod.fst) (by simpa using hrecs), length_frameBlocks hblocks]

/-! ## What stands at the offsets of a frame -/

theorem fieldAt_toBytes_of_lt {n x : Nat} (h : x < 256 ^ n) : fieldAt (toBytes n x) 0 n = x := by
  rw [fieldAt_toBytes, Nat.mod_eq_of_lt h]

/-- A word at the front of a run, and what comes after it. -/
theorem fieldAt_word_append (x : Word) (bs : List Byte) : fieldAt (toBytes 8 x.toNat ++ bs) 0 8 = x.toNat := by
  rw [fieldAt_append_left (by simp), fieldAt_toBytes_of_lt (by have := x.isLt; omega)]

theorem fieldAt_nat_append {x : Nat} (h : x < 2 ^ 64) (bs : List Byte) : fieldAt (toBytes 8 x ++ bs) 0 8 = x := by
  rw [fieldAt_append_left (by simp), fieldAt_toBytes_of_lt (by omega)]

theorem fieldAt_past {as bs : List Byte} {k off n : Nat} (h : as.length = k) : fieldAt (as ++ bs) (k + off) n = fieldAt bs off n := by
  rw [fieldAt_append_right (by omega), h, Nat.add_sub_cancel_left]

section
variable (sl : Slot) (tcause tval tinst : Word) (resume : Nat) (recs : List (Rec × Option VWord))

theorem fieldAt_frame_head {off n : Nat} (h : off + n ≤ 64) : fieldAt (frameBytes sl tcause tval tinst resume recs) off n =
    fieldAt (frameHead tcause tval tinst resume sl.csel recs.length) off n := by
  rw [frameBytes_eq, fieldAt_append_left (by simpa using h)]

theorem frame_tcause : fieldAt (frameBytes sl tcause tval tinst resume recs) 0 8 = tcause.toNat := by
  rw [fieldAt_frame_head _ _ _ _ _ _ (by decide), frameHead, fieldAt_word_append]

theorem frame_tval : fieldAt (frameBytes sl tcause tval tinst resume recs) 0x008 8 = tval.toNat := by
  rw [fieldAt_frame_head _ _ _ _ _ _ (by decide), frameHead, fieldAt_past (k := 8) (off := 0) (by simp), fieldAt_word_append]

theorem frame_tinst : fieldAt (frameBytes sl tcause tval tinst resume recs) 0x010 8 = tinst.toNat := by
  rw [fieldAt_frame_head _ _ _ _ _ _ (by decide), frameHead, fieldAt_past (k := 8) (off := 8) (by simp),
    fieldAt_past (k := 8) (off := 0) (by simp), fieldAt_word_append]

theorem frame_resume (h : resume < 2 ^ 64) : fieldAt (frameBytes sl tcause tval tinst resume recs) 0x018 8 = resume := by
  rw [fieldAt_frame_head _ _ _ _ _ _ (by decide), frameHead, fieldAt_past (k := 8) (off := 16) (by simp),
    fieldAt_past (k := 8) (off := 8) (by simp), fieldAt_past (k := 8) (off := 0) (by simp), fieldAt_nat_append h]

theorem frame_csel : fieldAt (frameBytes sl tcause tval tinst resume recs) 0x020 8 = sl.csel.toNat := by
  rw [fieldAt_frame_head _ _ _ _ _ _ (by decide), frameHead, fieldAt_past (k := 8) (off := 24) (by simp),
    fieldAt_past (k := 8) (off := 16) (by simp), fieldAt_past (k := 8) (off := 8) (by simp),
    fieldAt_past (k := 8) (off := 0) (by simp), fieldAt_word_append]

theorem frame_nrec (h : recs.length < 2 ^ 64) :
    fieldAt (frameBytes sl tcause tval tinst resume recs) 0x028 8 = recs.length := by
  rw [fieldAt_frame_head _ _ _ _ _ _ (by decide), frameHead, fieldAt_past (k := 8) (off := 32) (by simp),
    fieldAt_past (k := 8) (off := 24) (by simp), fieldAt_past (k := 8) (off := 16) (by simp),
    fieldAt_past (k := 8) (off := 8) (by simp), fieldAt_past (k := 8) (off := 0) (by simp), fieldAt_nat_append h]

theorem frame_repCount (h : sl.rep.length < 2 ^ 64) :
    fieldAt (frameBytes sl tcause tval tinst resume recs) 0x040 8 = sl.rep.length := by
  rw [frameBytes_eq, fieldAt_past (k := 64) (off := 0) (by simp), fieldAt_append_left (by simp), frameReps, fieldAt_nat_append h]

theorem fieldAt_frame_regs {off n : Nat} (h : off + n ≤ 192) :
    fieldAt (frameBytes sl tcause tval tinst resume recs) (0x0C0 + off) n = fieldAt (frameRegs sl) off n := by
  rw [frameBytes_eq, show 0x0C0 + off = 64 + (128 + off) by omega, fieldAt_past (by simp), fieldAt_past (by simp),
    fieldAt_append_left (by simpa using h)]

/-- x1 to x15. -/
theorem frame_x {k : Fin 32} (hlow : 1 ≤ k.val) (hhigh : k.val ≤ 15) :
    fieldAt (frameBytes sl tcause tval tinst resume recs) (0x0B8 + 8 * k.val) 8 = (sl.x.get k).toNat := by
  have hlen : k.val - 1 < ((sl.x.toList.drop 1).take 15).length := by simp; omega
  have hget : ((sl.x.toList.drop 1).take 15)[k.val - 1] = sl.x.get k := by
    rw [List.getElem_take, List.getElem_drop, Vector.getElem_toList]
    simp [Vector.get, show 1 + (k.val - 1) = k.val by omega]
  rw [show 0x0B8 + 8 * k.val = 0x0C0 + (8 * (k.val - 1) + 0) by omega, fieldAt_frame_regs _ _ _ _ _ _ (by omega), frameRegs,
    fieldAt_append_left (by simp; omega), fieldAt_flatMap (c := 8) _ (fun _ => by simp) _ hlen (by omega), hget,
    fieldAt_toBytes_of_lt (by have := (sl.x.get k).isLt; omega)]

theorem frame_h (k : Fin 8) :
    fieldAt (frameBytes sl tcause tval tinst resume recs) (0x140 + 8 * k.val) 8 = (sl.h.get k).toNat := by
  have hlen : k.val < sl.h.toList.length := by simp
  have hget : sl.h.toList[k.val] = sl.h.get k := by rw [Vector.getElem_toList]; rfl
  rw [show 0x140 + 8 * k.val = 0x0C0 + (120 + (8 + (8 * k.val + 0))) by omega, fieldAt_frame_regs _ _ _ _ _ _ (by omega),
    frameRegs, fieldAt_past (by simp), fieldAt_past (by simp), fieldAt_flatMap (c := 8) _ (fun _ => by simp) _ hlen (by omega),
    hget, fieldAt_toBytes_of_lt (by have := (sl.h.get k).isLt; omega)]

theorem fieldAt_frame_recs (hrecs : recs.length ≤ 32) {off n : Nat} (h : off + n ≤ 1024) :
    fieldAt (frameBytes sl tcause tval tinst resume recs) (0x6C0 + off) n = fieldAt (frameRecs (recs.map Prod.fst)) off n := by
  rw [frameBytes_eq, show 0x6C0 + off = 64 + (128 + (192 + (1344 + off))) by omega, fieldAt_past (by simp),
    fieldAt_past (by simp), fieldAt_past (by simp), fieldAt_past (by simp),
    fieldAt_append_left (by rw [length_frameRecs (by simpa using hrecs)]; exact h)]

/-- A field of a record. -/
theorem frame_record (hrecs : recs.length ≤ 32) {k : Nat} (hk : k < recs.length) {off n : Nat} (h : off + n ≤ 32) :
    fieldAt (frameBytes sl tcause tval tinst resume recs) (0x6C0 + 32 * k + off) n = fieldAt (recBytes recs[k].1) off n := by
  have hk' : k < (recs.map Prod.fst).length := by simpa using hk
  rw [Nat.add_assoc, fieldAt_frame_recs _ _ _ _ _ _ hrecs (by omega), frameRecs,
    fieldAt_append_left (by rw [length_flatMap_of_length recBytes length_recBytes]; omega),
    fieldAt_flatMap recBytes length_recBytes _ hk' h, List.getElem_map]

theorem frame_noRecord (hrecs : recs.length ≤ 32) {k : Nat} (hk : recs.length ≤ k) {off n : Nat} (h : 32 * k + off + n ≤ 1024) :
    fieldAt (frameBytes sl tcause tval tinst resume recs) (0x6C0 + 32 * k + off) n = 0 := by
  rw [Nat.add_assoc, fieldAt_frame_recs _ _ _ _ _ _ hrecs h, frameRecs,
    fieldAt_append_right (by rw [length_flatMap_of_length recBytes length_recBytes, List.length_map]; omega),
    fieldAt_replicate_zero]

/-- The wide operand of a record. -/
theorem frame_block (hrecs : recs.length ≤ 32) {b : Nat} {x : VWord} (hb : (recs.filterMap Prod.snd)[b]? = some x) :
    fieldAt (frameBytes sl tcause tval tinst resume recs) (0xAC0 + 128 * b) 128 = x.toNat := by
  obtain ⟨hlt, hget⟩ := List.getElem?_eq_some_iff.mp hb
  rw [frameBytes_eq, show 0xAC0 + 128 * b = 64 + (128 + (192 + (1344 + (1024 + (128 * b + 0))))) by omega,
    fieldAt_past (by simp), fieldAt_past (by simp), fieldAt_past (by simp), fieldAt_past (by simp),
    fieldAt_past (length_frameRecs (by simpa using hrecs)), frameBlocks, frameWide,
    fieldAt_append_left (by rw [length_flatMap_toBytes]; omega),
    fieldAt_flatMap (c := 128) _ (fun _ => by simp) _ hlt (by omega), hget,
    fieldAt_toBytes_of_lt (by rw [show 256 = 2 ^ 8 from rfl, ← pow_mul]; exact x.isLt)]

end

end Sys2Proof.Proofs.Formats
end

section
/-!
CORRECTNESS. O20: taking a trap (R63, R342 to R346, R354).
-/
namespace Sys2Proof.Proofs.Formats
open Sys2Proof Sys2Proof.Machine Sys2Proof.Claims

variable {s : State} {r : SRef} {t : TrapReq} {held : Bool}

/-! ## The state once the frame is written -/

theorem onlyBytes_framed (s : State) (r : SRef) (t : TrapReq) (resume : Nat) (held : Bool) (replay : Option Flight) :
    OnlyBytes r.vt (formatHold s r t held) (framed s r t resume held replay) := onlyBytes_spWriteBytes _ _ _ _

theorem slot_framed (resume : Nat) (replay : Option Flight) (q : SRef) : (framed s r t resume held replay).slot q = s.slot q := by
  rw [(onlyBytes_framed s r t resume held replay).slot, slot_formatHold]

theorem hasVt_framed (resume : Nat) (replay : Option Flight) (v : VRef) :
    (framed s r t resume held replay).hasVt v = s.hasVt v := by
  rw [(onlyBytes_framed s r t resume held replay).hasVt, hasVt_formatHold]

theorem hold_framed (resume : Nat) (replay : Option Flight) (v : VRef) :
    ((framed s r t resume held replay).vt v).hold = ((formatHold s r t held).vt v).hold :=
  (onlyBytes_framed s r t resume held replay).vt_keeps Vtile.hold (fun _ _ _ => rfl) v

theorem fe_framed (resume : Nat) (replay : Option Flight) (v : VRef) :
    ((framed s r t resume held replay).vt v).fe = (s.vt v).fe := by
  rw [(onlyBytes_framed s r t resume held replay).vt_keeps Vtile.fe (fun _ _ _ => rfl) v,
    vt_formatHold_keeps s r t held Vtile.fe (fun _ _ => rfl) v]

theorem spOut_framed (resume : Nat) (replay : Option Flight) (v : VRef) :
    ((framed s r t resume held replay).vt v).spOut = (s.vt v).spOut := by
  rw [(onlyBytes_framed s r t resume held replay).vt_keeps Vtile.spOut (fun _ _ _ => rfl) v,
    vt_formatHold_keeps s r t held Vtile.spOut (fun _ _ => rfl) v]

section
variable (hv : s.hasVt r.vt = true) (hout : (s.vt r.vt).spOut = []) (hwf : (s.vt r.vt).sp.wf = true)
  (resume : Nat) (replay : Option Flight)
include hv hout hwf

/-- A field of the frame. -/
theorem spRead_framed {off n : Nat} (h : off + n ≤ (frameOfSlot s r t resume held replay).length) :
    (framed s r t resume held replay).spRead r.vt (frameOf (s.vt r.vt) r.slot + off) n =
      fieldAt (frameOfSlot s r t resume held replay) off n :=
  spRead_spWriteBytes (by simpa using hv) (by rwa [vt_formatHold_keeps s r t held Vtile.spOut (fun _ _ => rfl)])
    (by rwa [vt_formatHold_keeps s r t held Vtile.sp (fun _ _ => rfl)]) _ _ h

theorem spGet_framed_out {a : Nat} (h : a < frameOf (s.vt r.vt) r.slot ∨
    frameOf (s.vt r.vt) r.slot + (frameOfSlot s r t resume held replay).length ≤ a) :
    (framed s r t resume held replay).spGet r.vt a = s.spGet r.vt a := by
  rw [framed, spGet_spWriteBytes_out (by simpa using hv) (by rwa [vt_formatHold_keeps s r t held Vtile.spOut (fun _ _ => rfl)])
    (by rwa [vt_formatHold_keeps s r t held Vtile.sp (fun _ _ => rfl)]) _ _ h, spGet_formatHold]

end

theorem feGet_framed (hout : (s.vt r.vt).spOut = []) (resume : Nat) (replay : Option Flight) (a : Nat) :
    (framed s r t resume held replay).feGet r.vt a = s.feGet r.vt a := by
  rw [feGet_in (by rw [spOut_framed, hout]), feGet_in hout, fe_framed]

theorem spRead_congr {u w : State} {v : VRef} (h : ∀ a, u.spGet v a = w.spGet v a) (a n : Nat) : u.spRead v a n = w.spRead v a n := by
  induction n generalizing a with
  | zero => rfl
  | succ n ih => rw [State.spRead, State.spRead, h, ih]

theorem spRead_modSlot (s : State) (q : SRef) (f : Slot → Slot) (v : VRef) (a n : Nat) :
    (s.modSlot q f).spRead v a n = s.spRead v a n := spRead_congr (fun a => State.spGet_modSlot s q f v a) a n

/-- Trap entry with a handler. -/
theorem takeTrap_handler {ix : Nat} (hstatus : (s.slot r).status ≠ .trapped) (harea : FrameAreaOk (s.vt r.vt))
    (hhandler : TrapHandlerAt (s.vt r.vt) ix) (hsb : (s.slot r).sb = [])
    (hops : ∀ f ∈ (s.slot r).ops, StaysUnderWay s r f) (resume : Nat) (replay : Option Flight) :
    s.takeTrap r t resume held replay = (framed s r t resume held replay).modSlot r (inHandler t
      (tcauseWord t held (s.moreHeld r)) (frameOf (s.vt r.vt) r.slot) ix (keptOps (s.slot r).ops replay)) := by
  rw [takeTrap_of_stays hstatus harea hsb hops, (vector?_eq_some_iff _ _).mpr hhandler]; rfl

theorem slot_takeTrap {ix : Nat} (hv : s.hasVt r.vt = true) (hstatus : (s.slot r).status ≠ .trapped)
    (harea : FrameAreaOk (s.vt r.vt)) (hhandler : TrapHandlerAt (s.vt r.vt) ix) (hsb : (s.slot r).sb = [])
    (hops : ∀ f ∈ (s.slot r).ops, StaysUnderWay s r f) (resume : Nat) (replay : Option Flight) :
    (s.takeTrap r t resume held replay).slot r = inHandler t (tcauseWord t held (s.moreHeld r))
      (frameOf (s.vt r.vt) r.slot) ix (keptOps (s.slot r).ops replay) (s.slot r) := by
  rw [takeTrap_handler hstatus harea hhandler hsb hops, State.slot_modSlot_self _ _ _ (by rw [hasVt_framed, hv]), slot_framed]

/-! ## Control, the trap registers and the frame -/

theorem trapEntryGoesToTheHandler : TrapEntryGoesToTheHandler := by
  intro s r t resume ix hv hquiet hstatus hcode hmove harea hhandler u
  obtain ⟨hops, hsb⟩ := hquiet
  have hu : u = _ := takeTrap_handler hstatus harea hhandler hsb (by simp [hops]) resume none
  have hslot : u.slot r = _ := slot_takeTrap hv hstatus harea hhandler hsb (by simp [hops]) resume none
  have hhold : (u.vt r.vt).hold = ((formatHold s r t false).vt r.vt).hold := by
    rw [hu, vt_modSlot_keeps _ Vtile.hold (fun _ _ => rfl), hold_framed]
  have hmsgs : (u.ctx r.vt.ctx).msgs = ((formatHold s r t false).ctx r.vt.ctx).msgs := by
    rw [hu, msgs_modSlot, (onlyBytes_framed s r t resume false none).msgs]
  refine ⟨fun h8 => ?_, fun h8 => ?_, ?_⟩
  · rw [formatHold, if_pos h8, hold_holdVtile _ _ _ _ _ hv] at hhold
    rw [formatHold, if_pos h8] at hmsgs
    obtain ⟨m, hsent, hkind, hreason, hrank, hdest, hpayload⟩ := msgs_holdVtile s r.vt true 0x22
      [tcauseWord t false (s.moreHeld r), t.tval, t.tinst, word r.slot.val, 0] hv
    rw [tcauseWord_eq hcode hmove] at hpayload
    exact ⟨by rw [hhold]; rfl, by rw [Vtile.isHeld, hhold]; rfl, m, hmsgs.trans hsent, hkind, hreason, hrank, hdest, hpayload⟩
  · rw [formatHold, if_neg h8] at hhold hmsgs
    exact ⟨hhold, hmsgs⟩
  · rw [hslot, tcauseWord_eq hcode hmove]
    refine ⟨rfl, rfl, rfl, rfl, rfl, rfl, rfl, rfl, rfl, rfl, rfl, rfl, rfl, fun q hq => ?_⟩
    rw [hu, State.slot_modSlot_ne _ _ hq, slot_framed]

theorem length_keptOps_le (ops : List Flight) (replay : Option Flight) : (keptOps ops replay).length ≤ 32 := by
  rw [keptOps, List.length_take]; exact Nat.min_le_left _ _

theorem length_recsOf (l : List Flight) (b : Nat) : (recsOf b l).length = l.length := by
  induction l generalizing b with
  | nil => rfl
  | cons f l ih => rw [recsOf]; split <;> simp [ih]

theorem length_keptRecs (ops : List Flight) (replay : Option Flight) :
    (keptRecs ops replay).length = (keptOps ops replay).length := by
  rw [keptRecs, List.length_map, length_recsOf]

theorem trapEntryWritesTheFrame : TrapEntryWritesTheFrame := by
  intro s r t resume ix hv hquiet hstatus hcode hmove harea hhandler hout hwf hrep hresume u f
  obtain ⟨hops, hsb⟩ := hquiet
  have hu : u = _ := takeTrap_handler hstatus harea hhandler hsb (by simp [hops]) resume none
  have hrecs : keptRecs (s.slot r).ops none = [] := by rw [hops]; rfl
  have hlen : (frameOfSlot s r t resume false none).length = 0xCC0 := by
    rw [frameOfSlot, hrecs]; exact length_frameBytes _ _ _ _ _ (by simp) (by simp)
  have hread : ∀ off n, off + n ≤ 0xCC0 → u.spRead r.vt (f + off) n = fieldAt (frameOfSlot s r t resume false none) off n := by
    intro off n h
    rw [hu, spRead_modSlot, spRead_framed hv hout hwf resume none (by rw [hlen]; exact h)]
  have hcause : tcauseWord t false (s.moreHeld r) = causeWord t false (s.moreHeld r) := tcauseWord_eq hcode hmove _ _
  rw [frameOfSlot, hrecs, hcause] at hread
  refine ⟨?_, ?_, ?_, ?_, ?_, ?_, ?_, fun k hlow hhigh => ?_, fun k => ?_, fun a ha => ?_, fun a => ?_⟩
  · exact (hread 0 8 (by decide)).trans (frame_tcause _ _ _ _ _ _)
  · rw [hread _ _ (by decide), frame_tval]
  · rw [hread _ _ (by decide), frame_tinst]
  · rw [hread _ _ (by decide), frame_resume _ _ _ _ _ _ hresume]
  · rw [hread _ _ (by decide), frame_csel]
  · rw [hread _ _ (by decide), frame_nrec _ _ _ _ _ _ (by simp)]; rfl
  · rw [hread _ _ (by decide), frame_repCount _ _ _ _ _ _ (by omega)]
  · rw [Nat.add_assoc, hread _ _ (by omega), frame_x _ _ _ _ _ _ hlow hhigh]
  · rw [Nat.add_assoc, hread _ _ (by omega), frame_h]
  · rw [hu, State.spGet_modSlot, spGet_framed_out hv hout hwf resume none (by rw [hlen]; exact ha)]
  · rw [hu, State.feGet_modSlot, feGet_framed hout]

/-! ## Records -/

theorem trigAbandoned_of_vecLong {t : Trig} (h : trigVecLong t = true) : trigAbandoned t = true := by
  unfold trigVecLong at h
  split at h <;> simp_all [trigAbandoned]

/-- The records of a list of operations, with the blocks numbered from b on. -/
theorem recsOf_getElem? (l : List Flight) (b : Nat) {k : Nat} {o : Flight} (h : l[k]? = some o) :
    (recsOf b l)[k]? = some (if trigVecLong o.trig then
      (recOf o ((b + ((l.take k).filter (fun o => trigVecLong o.trig)).length) % 4), some o.a) else (recOf o 0, none)) := by
  induction l generalizing b k with
  | nil => simp at h
  | cons f l ih =>
    cases k with
    | zero =>
      obtain rfl : f = o := by simpa using h
      rw [recsOf]; split <;> simp
    | succ k =>
      rw [recsOf]
      split
      next hlong => simp [ih (b + 1) (k := k) (by simpa using h), hlong, Nat.add_assoc, Nat.add_comm 1]
      next hlong => simp [ih b (k := k) (by simpa using h), hlong]

/-- The blocks of a list of operations. -/
theorem recsOf_blocks (l : List Flight) (b : Nat) :
    (recsOf b l).filterMap Prod.snd = (l.filter (fun o => trigVecLong o.trig)).map Flight.a := by
  induction l generalizing b with
  | nil => rfl
  | cons f l ih =>
    rw [recsOf]
    split
    next hlong => simp [hlong, ih]
    next hlong => simp [hlong, ih]

/-- An operation that a filter keeps is, in the filtered list, behind those kept before it. -/
theorem filter_getElem?_of_take {α : Type} {p : α → Bool} {l : List α} {k : Nat} {o : α} (h : l[k]? = some o) (hp : p o = true) :
    (l.filter p)[((l.take k).filter p).length]? = some o := by
  induction l generalizing k with
  | nil => simp at h
  | cons x l ih =>
    cases k with
    | zero =>
      obtain rfl : x = o := by simpa using h
      simp [hp]
    | succ k =>
      have hk := ih (by simpa using h)
      by_cases hx : p x = true
      · simpa [hx] using hk
      · simpa [hx] using hk

theorem unitNum_lt (u : FUnit) : unitNum u < 16 := by cases u <;> decide

theorem trigOffset_lt (t : Trig) : trigOffset t < 256 := by
  have hrm : ∀ (base : Nat × Bool) (rm : Nat), base.1 < 252 → rm < 4 → base.1 + (if base.2 then rm else 0) < 256 := by
    intro base rm hbase hlt; split <;> omega
  cases t with
  | alu n op => show aluOffset op < 256; cases op <;> decide
  | fpu op rm => exact hrm _ _ (by cases op <;> decide) (by omega)
  | vec op rm => exact hrm _ _ (by cases op <;> decide) (by omega)
  | mul op | agu op | lsu op | rng op | mxq op | cpe op | msg op | pat op | sys op => cases op <;> decide

/-- Word 0 of a record of an operation. -/
theorem recBytes_word (f : Flight) {opb : Nat} (hopb : opb < 4) (reissue pend : Bool) :
    fieldAt (recBytes { recOf f opb with reissue := reissue, pend := pend }) 0 8 = recordWord f reissue pend opb := by
  have hunit := unitNum_lt f.unit
  have hoff := trigOffset_lt f.trig
  have hmod := f.mod.isLt
  have hword : unitNum f.unit + trigOffset f.trig * 2 ^ 4 + f.mod.toNat * 2 ^ 12 + b2n true * 2 ^ 15 + b2n false * 2 ^ 16 +
      b2n reissue * 2 ^ 17 + b2n pend * 2 ^ 18 + opb * 2 ^ 19 + f.tseq % 2 ^ 32 * 2 ^ 32 = recordWord f reissue pend opb := by
    rw [recordWord, b2n_mul, b2n_mul, b2n_mul, b2n_mul]; rfl
  have hlt : recordWord f reissue pend opb < 2 ^ 64 := by
    rw [recordWord]; split <;> split <;> omega
  simp only [recBytes, recOf, List.append_assoc]
  rw [hword, fieldAt_nat_append hlt]

/-- The operands of a record. -/
theorem recBytes_operands (c : Rec) : fieldAt (recBytes c) 8 8 = c.a.toNat ∧ fieldAt (recBytes c) 16 8 = c.b.toNat ∧
    fieldAt (recBytes c) 24 8 = c.c.toNat := by
  simp only [recBytes, List.append_assoc]
  refine ⟨?_, ?_, ?_⟩
  · rw [fieldAt_past (k := 8) (off := 0) (by simp), fieldAt_word_append]
  · rw [fieldAt_past (k := 8) (off := 8) (by simp), fieldAt_past (k := 8) (off := 0) (by simp), fieldAt_word_append]
  · rw [fieldAt_past (k := 8) (off := 16) (by simp), fieldAt_past (k := 8) (off := 8) (by simp),
      fieldAt_past (k := 8) (off := 0) (by simp), fieldAt_toBytes_of_lt (by have := c.c.isLt; omega)]

/-! ## What is under way -/

theorem feGet_word (s : State) (v : VRef) (a : Nat) : s.feGet v (8 * (a / 8)) = s.feGet v a := by
  have hunit : 8 * (a / 8) / 8192 = a / 8192 := by omega
  have hburst : 8 * (a / 8) / 64 = a / 64 := by omega
  have hword : 8 * (a / 8) / 8 = a / 8 := by omega
  simp only [State.feGet, Vtile.unitOut, hunit, hburst, hword]
  rfl

theorem feAll_of_empty {v : VRef} {a n x : Nat} (hlow : a ≤ x) (hhigh : x < a + n) (h : s.feGet v x = false) :
    s.feAll v a n = false := by
  rw [State.feAll, List.all_eq_false]
  refine ⟨x / 8 - a / 8, List.mem_range.mpr ?_, ?_⟩
  · rw [wordsOf, if_neg (by omega)]; omega
  · rw [show a / 8 + (x / 8 - a / 8) = x / 8 by omega, feGet_word, h]; decide

theorem bytes_eq_reachOf (f : Flight) (h : f.trig = .lsu .ldWf ∨ f.trig = .lsu .ldTake ∨ ∃ rm, f.trig = .vec .vldWf rm) :
    f.bytes = reachOf f := by
  rcases h with h | h | ⟨rm, h⟩
  · simp [Flight.bytes, reachOf, h, wWidth_eq]
  · simp [Flight.bytes, reachOf, h, wWidth_eq]
  · simp [Flight.bytes, reachOf, h, vecNB, bits_zero]

theorem discarded_of_awaitsWord {v : VRef} {f : Flight} (h : AwaitsWord s v f) : discarded f.trig = false := by
  obtain ⟨htrig, -⟩ := h
  rcases htrig with h | h | ⟨rm, h⟩ <;> rw [h] <;> rfl

theorem waitsForFill_of_awaitsWord {f : Flight} (h : AwaitsWord s r.vt f) : s.waitsForFill r f = true := by
  obtain ⟨htrig, -, -, x, hlow, hhigh, hempty⟩ := h
  have hwaits : trigWaitsFull f.trig = true := by rcases htrig with h | h | ⟨rm, h⟩ <;> rw [h] <;> rfl
  rw [State.waitsForFill, hwaits, bytes_eq_reachOf f htrig, Flight.ea, feAll_of_empty hlow hhigh hempty]; rfl

theorem staysUnderWay_of_recorded {f : Flight} (h : Recorded s r.vt f) : StaysUnderWay s r f := by
  rcases h with habandoned | hawaits | ⟨hunit, hperformed, hres⟩ | ⟨op, htrig, hcommons, hopen, hres⟩
  · rw [← trigAbandoned_eq] at habandoned
    have hkind : trigIsMemory f.trig = false ∧ f.trig ≠ .cpe .seal := by
      unfold trigAbandoned at habandoned
      split at habandoned <;> simp_all [trigIsMemory]
    exact ⟨.inr habandoned, fun h => absurd h hkind.2, fun h => absurd h (by simp [hkind.1])⟩
  · have hwaits := waitsForFill_of_awaitsWord hawaits
    obtain ⟨htrig, -, hres, -⟩ := hawaits
    exact ⟨.inl hres, fun h => by rcases htrig with h' | h' | ⟨rm, h'⟩ <;> simp [h] at h', fun _ _ => .inr hwaits⟩
  · exact ⟨.inl hres, fun _ => hperformed, fun _ h => by simp [hperformed] at h⟩
  · exact ⟨.inl hres, fun h => by simp [htrig] at h, fun _ _ => .inl hcommons⟩

/-- Which records are to be reissued, and which wait for a word. -/
theorem recOf_flags {f : Flight} (h : Recorded s r.vt f) (opb : Nat) :
    (recOf f opb).reissue = discarded f.trig ∧ ((recOf f opb).pend = true ↔ AwaitsWord s r.vt f) := by
  refine ⟨trigAbandoned_eq f.trig, fun hpend => ?_, fun hawaits => ?_⟩
  · simp only [recOf, Bool.and_eq_true, Bool.not_eq_true', Bool.or_eq_false_iff, trigAbandoned_eq] at hpend
    obtain ⟨hkept, hopen, hcommons⟩ := hpend
    rcases h with habandoned | hawaits | ⟨-, hperformed, -⟩ | ⟨op, -, hc, -⟩
    · simp [habandoned] at hkept
    · exact hawaits
    · simp [hperformed] at hopen
    · simp [hc] at hcommons
  · obtain ⟨htrig, hopen, -⟩ := hawaits
    rcases htrig with h | h | ⟨rm, h⟩ <;> simp [recOf, h, hopen, trigAbandoned, trigIsCommons]

theorem keptOps_none {ops : List Flight} (h : ops.length ≤ 32) : keptOps ops none = ops := by
  rw [keptOps, Option.toList_none, List.map_nil, List.append_nil, List.take_of_length_le h]

theorem keptRecs_none {ops : List Flight} (h : ops.length ≤ 32) : keptRecs ops none = recsOf 0 ops := by
  rw [keptRecs, keptOps_none h]
  simp

/-- The record of an operation, as the frame holds it. -/
theorem recBytes_recOf {f : Flight} (h : Recorded s r.vt f) {opb : Nat} (hopb : opb < 4) :
    (discarded f.trig = true → fieldAt (recBytes (recOf f opb)) 0 8 = recordWord f true false opb) ∧
    (AwaitsWord s r.vt f → fieldAt (recBytes (recOf f opb)) 0 8 = recordWord f false true opb) ∧
    (discarded f.trig = false → ¬AwaitsWord s r.vt f → fieldAt (recBytes (recOf f opb)) 0 8 = recordWord f false false opb) := by
  obtain ⟨hreissue, hpend⟩ := recOf_flags h opb
  have hword : fieldAt (recBytes (recOf f opb)) 0 8 = recordWord f (recOf f opb).reissue (recOf f opb).pend opb :=
    recBytes_word f hopb _ _
  rw [hword, hreissue]
  have hexcl : discarded f.trig = true → (recOf f opb).pend = false := by
    intro hd
    simp [recOf, trigAbandoned_eq, hd]
  refine ⟨fun hd => by rw [hd, hexcl hd], fun hawaits => ?_, fun hd hawaits => ?_⟩
  · have hp := hpend.mpr hawaits
    cases hd : discarded f.trig with
    | true => simp [hexcl hd] at hp
    | false => rw [hp]
  · rw [hd, Bool.eq_false_iff.mpr (mt hpend.mp hawaits)]

section
variable (hv : s.hasVt r.vt = true) (hstatus : (s.slot r).status ≠ .trapped) (harea : FrameAreaOk (s.vt r.vt)) {ix : Nat}
  (hhandler : TrapHandlerAt (s.vt r.vt) ix) (hout : (s.vt r.vt).spOut = []) (hwf : (s.vt r.vt).sp.wf = true)
  (hsb : (s.slot r).sb = []) (hops : ∀ f ∈ (s.slot r).ops, StaysUnderWay s r f) (resume : Nat) (replay : Option Flight)
  (hblocks : ((keptRecs (s.slot r).ops replay).filterMap Prod.snd).length ≤ 4)
include hv hstatus harea hhandler hout hwf hsb hops hblocks

/-- What is read of the frame after trap entry. -/
theorem spRead_takeTrap {off n : Nat} (h : off + n ≤ 0xCC0) :
    (s.takeTrap r t resume held replay).spRead r.vt (frameOf (s.vt r.vt) r.slot + off) n =
      fieldAt (frameBytes (s.slot r) (tcauseWord t held (s.moreHeld r)) t.tval t.tinst resume (keptRecs (s.slot r).ops replay))
        off n := by
  have hlen : (frameOfSlot s r t resume held replay).length = 0xCC0 :=
    length_frameBytes _ _ _ _ _ (by rw [length_keptRecs]; exact length_keptOps_le _ _) hblocks
  rw [takeTrap_handler hstatus harea hhandler hsb hops, spRead_modSlot,
    spRead_framed hv hout hwf resume replay (by rw [hlen]; exact h), frameOfSlot]

end

theorem trapEntryRecordsWhatIsUnderWay : TrapEntryRecordsWhatIsUnderWay := by
  intro s r t resume ix hv hstatus harea hhandler hout hwf hsb hrep hresume f ops read operands
  constructor
  · intro hlen hlong hrecorded u
    have hlen' : (s.slot r).ops.length ≤ 32 := hlen
    have hstays : ∀ o ∈ (s.slot r).ops, StaysUnderWay s r o := fun o ho => staysUnderWay_of_recorded (hrecorded o ho)
    have hrecs : keptRecs (s.slot r).ops none = recsOf 0 (s.slot r).ops := keptRecs_none hlen
    have hcount : (recsOf 0 (s.slot r).ops).length = (s.slot r).ops.length := length_recsOf _ _
    have hblocks := recsOf_blocks (s.slot r).ops 0
    have hread : ∀ off n, off + n ≤ 0xCC0 → u.spRead r.vt (f + off) n = _ := fun off n h =>
      spRead_takeTrap (t := t) (held := false) hv hstatus harea hhandler hout hwf hsb hstays resume none
        (by rw [hrecs, hblocks, List.length_map]; exact hlong) h
    rw [hrecs] at hread
    have hslot : u.slot r = _ := slot_takeTrap hv hstatus harea hhandler hsb hstays resume none
    refine ⟨?_, fun k o hk => ?_, fun k hlow hhigh => ?_, by rw [hslot]; rfl, by rw [hslot]; rfl⟩
    · rw [hread _ _ (by decide), frame_nrec _ _ _ _ _ _ (by omega), hcount]
    · intro block
      have ho := hrecorded o (List.mem_of_getElem? hk)
      have hblock : trigVecLong o.trig = true → block < 4 := fun hl => by
        have := (List.getElem?_eq_some_iff.mp (filter_getElem?_of_take (p := fun o => trigVecLong o.trig) hk hl)).1
        exact Nat.lt_of_lt_of_le this hlong
      have hrec := recsOf_getElem? (s.slot r).ops 0 hk
      have hfield : ∀ off, off + 8 ≤ 32 → read u k off =
          fieldAt (recBytes (recOf o (if trigVecLong o.trig then block else 0))) off 8 := by
        intro off h
        obtain ⟨hlt, hget⟩ := List.getElem?_eq_some_iff.mp hrec
        rw [show read u k off = u.spRead r.vt (f + (0x6C0 + 32 * k + off)) 8 by simp only [read, Nat.add_assoc],
          hread _ _ (by omega), frame_record _ _ _ _ _ _ (by omega) hlt h, hget]
        split
        next hl => rw [Nat.zero_add, Nat.mod_eq_of_lt (hblock hl)]
        next => rfl
      have hopb : (if trigVecLong o.trig then block else 0) < 4 := by split <;> simp_all
      obtain ⟨habandoned, hawaits, hengine⟩ := recBytes_recOf ho hopb
      obtain ⟨ha, hb, hc⟩ := recBytes_operands (recOf o (if trigVecLong o.trig then block else 0))
      have hshort : discarded o.trig = false → (if trigVecLong o.trig then block else 0) = 0 := fun hd => by
        rw [if_neg]; intro hl; simp [← trigAbandoned_eq, trigAbandoned_of_vecLong hl] at hd
      refine ⟨fun hd => (hfield 0 (by decide)).trans (habandoned hd), fun hw => ?_, fun hd hw => ?_, fun _ => ⟨?_, ?_, ?_⟩, fun hl => ?_⟩
      · rw [hfield 0 (by decide), hawaits hw, hshort (discarded_of_awaitsWord hw)]
      · rw [hfield 0 (by decide), hengine hd hw, hshort hd]
      · rw [hfield 8 (by decide), ha]; rfl
      · rw [hfield 16 (by decide), hb]; rfl
      · rw [hfield 24 (by decide), hc]; rfl
      · have hb : ((recsOf 0 (s.slot r).ops).filterMap Prod.snd)[block]? = some o.a := by
          rw [hblocks, List.getElem?_map, filter_getElem?_of_take (p := fun o => trigVecLong o.trig) hk hl]; rfl
        have := hblock hl
        rw [Nat.add_assoc, hread _ _ (by omega), frame_block _ _ _ _ _ _ (by omega) hb]
    · rw [show read u k 0 = u.spRead r.vt (f + (0x6C0 + 32 * k + 0)) 8 by simp only [read, Nat.add_assoc],
        hread _ _ (by omega), frame_noRecord _ _ _ _ _ _ (by omega) (hcount.trans_le hlow) (by omega)]
  · intro g op hnone htrig hcommons u
    have hcommons' : trigIsCommons (.lsu op) = true := htrig ▸ hcommons
    have hrecs : keptRecs (s.slot r).ops (some g) = [({ recOf g 0 with reissue := true, pend := false }, none)] := by
      rw [show (s.slot r).ops = [] from hnone]
      simp [keptRecs, keptOps, recsOf, recOf, htrig, hcommons', trigVecLong, trigAbandoned, Flight.unit]
    have hread : ∀ off n, off + n ≤ 0xCC0 → u.spRead r.vt (f + off) n = _ := fun off n h =>
      spRead_takeTrap (t := t) (held := true) hv hstatus harea hhandler hout hwf hsb
        (by rw [show (s.slot r).ops = [] from hnone]; simp) resume (some g) (by rw [hrecs]; simp) h
    rw [hrecs] at hread
    have hfield : ∀ off, off + 8 ≤ 32 → read u 0 off =
        fieldAt (recBytes { recOf g 0 with reissue := true, pend := false }) off 8 := by
      intro off h
      rw [show read u 0 off = u.spRead r.vt (f + (0x6C0 + 32 * 0 + off)) 8 by simp only [read, Nat.add_assoc],
        hread _ _ (by omega), frame_record _ _ _ _ _ _ (by simp) (by simp) h]
      rfl
    obtain ⟨ha, hb, hc⟩ := recBytes_operands { recOf g 0 with reissue := true, pend := false }
    refine ⟨?_, (hfield 0 (by decide)).trans (recBytes_word g (by decide) true false), ?_, ?_, ?_⟩
    · rw [hread _ _ (by decide), frame_nrec _ _ _ _ _ _ (by simp)]; rfl
    · rw [hfield 8 (by decide), ha]; rfl
    · rw [hfield 16 (by decide), hb]; rfl
    · rw [hfield 24 (by decide), hc]; rfl

end Sys2Proof.Proofs.Formats
end

section
/-!
SUPPORT. A result that lands in a record of the frame (R345), and a load that its bank performs (R224).
-/
namespace Sys2Proof.Proofs.Formats
open Sys2Proof Sys2Proof.Machine Sys2Proof.Claims

/-! ## Operands and results of a width -/

theorem sext_eq (x n : Nat) : sext x n = (BitVec.ofNat n x).toInt := by
  rw [sext, BitVec.toInt_eq_toNat_cond, BitVec.toNat_ofNat]
  push_cast
  split <;> split <;> omega

theorem opVal_eq (m : BitVec 3) (x : Nat) : opVal m x = opOf m x := by
  rw [opVal, opOf, wWidth_eq, wSigned_eq, sext_eq, BitVec.toNat_ofNat]

theorem resVal_eq (m : BitVec 3) (v : Int) : resVal m v = resOf m v := by
  rw [resVal, resOf, extOf, wWidth_eq, wSigned_eq, sext_eq, ofNat_wrap, word, word, ofNat_wrap, wrap_eq v (wOf m),
    BitVec.ofNat_toNat]
  rfl

/-! ## A load at its bank -/

variable {s : State} {ctx : Nat} {u : BankOp}

theorem forward_of_empty {sl : Slot} (h : sl.sb = []) (commons : Bool) (before a : Nat) : sl.forward commons before a = none := by
  rw [Slot.forward, h]; rfl

theorem commonsFwd_of_empty (h : (s.slot ⟨⟨ctx, u.rank⟩, Fin.ofNat 8 u.slot⟩).sb = []) (n a : Nat) :
    s.commonsFwd ctx u n a = memRead (s.ctx ctx).commons a n := by
  induction n generalizing a with
  | zero => rfl
  | succ n ih => rw [State.commonsFwd, memRead, ih, forward_of_empty h]; rfl

theorem settleWord_of_empty (h : (s.ctx ctx).holding = []) (w : Nat) : s.settleWord ctx w = s := by
  rw [State.settleWord, h]; rfl

/-- A load of a sound line with no tag gives the word of commons. -/
theorem performBank_cLd (hop : u.op = .cLd) (hheld : (s.ctx ctx).holding = [])
    (hcondemned : setHas (s.ctx ctx).condemned (u.ea / 64) = false) (hmark : Tbl.find? (s.ctx ctx).cmarks (u.ea / 64) = none)
    (htag : Tbl.find? (s.ctx ctx).wtags (u.ea / 8) = none) (hsb : (s.slot ⟨⟨ctx, u.rank⟩, Fin.ofNat 8 u.slot⟩).sb = []) :
    s.performBank ctx u = s.engineResult ⟨ctx, u.rank⟩ u.slot u.fser u.fid
      (landQ (resOf u.mod (opOf u.mod (memRead (s.ctx ctx).commons u.ea (wOf u.mod / 8))))) := by
  have hgood : (s.ctx ctx).lineBad u.ea = false := by simp [Ctx.lineBad, hcondemned, hmark]
  have hread : s.readCommons ctx u.ea = s := by rw [State.readCommons, hmark]
  have hcheck : ∀ rank inc site, s.checkRead ctx u.ea rank inc site = s := fun _ _ _ => by rw [State.checkRead, htag]
  have hbytes : commonsBytes .cLd u.mod = wOf u.mod / 8 := by rw [commonsBytes, wWidth_eq]
  have hkind : (u.op == LsuOp.cDecq) = false ∧ commonsOrdered u.op = false ∧ (u.op == LsuOp.cSt) = false := by simp [hop, commonsOrdered]
  rw [State.performBank]
  simp only [hkind, settleWord_of_empty hheld, hgood, hread, hcheck, Bool.and_false, Bool.false_eq_true, if_false, ite_self]
  simp only [hop, commonsApply, hbytes, commonsFwd_of_empty hsb, opVal_eq, resVal_eq]
  rfl

/-! ## Landing in a record -/

/-- The three words of a record that a result writes. -/
def recordWritten (s : State) (v : VRef) (at_ : Nat) (a b : Nat) : State :=
  ((s.spWrite v at_ 8 (setBits (s.spRead v at_ 8) 16 16 1)).spWrite v (at_ + 8) 8 a).spWrite v (at_ + 16) 8 b

variable {v : VRef}

theorem onlyBytes_recordWritten (s : State) (v : VRef) (at_ a b : Nat) : OnlyBytes v s (recordWritten s v at_ a b) :=
  ((onlyBytes_spWriteBytes s v _ _).trans (onlyBytes_spWriteBytes _ v _ _)).trans (onlyBytes_spWriteBytes _ v _ _)

theorem setBits_flag (w i : Nat) : setBits w i i 1 = w ||| 2 ^ i := by
  have hlow : w % 2 ^ i < 2 ^ i := Nat.mod_lt _ (by positivity)
  have hflag : 2 ^ i * 1 + w % 2 ^ i < 2 ^ (i + 1) := by rw [pow_succ]; omega
  have hsplit : setBits w i i 1 = 2 ^ (i + 1) * (w >>> (i + 1)) + (2 ^ i * 1 + w % 2 ^ i) := by
    rw [setBits, Nat.add_sub_cancel_left, Nat.mul_comm (w >>> (i + 1))]; norm_num; omega
  refine Nat.eq_of_testBit_eq fun j => ?_
  rw [hsplit, Nat.testBit_two_pow_mul_add _ hflag, Nat.testBit_two_pow_mul_add _ hlow, Nat.testBit_or, Nat.testBit_two_pow,
    Nat.testBit_mod_two_pow, Nat.testBit_shiftRight]
  rcases Nat.lt_trichotomy j i with h | rfl | h
  · simp [h, Nat.lt_succ_of_lt h, Nat.ne_of_gt h]
  · simp
  · rw [if_neg (by omega), show i + 1 + (j - (i + 1)) = j by omega]
    simp [Nat.ne_of_lt h]

theorem sp_recordWritten (hv : s.hasVt v = true) (hout : (s.vt v).spOut = []) (at_ a b : Nat) :
    ((recordWritten s v at_ a b).vt v).sp =
      memWriteBytes (memWriteBytes (memWriteBytes (s.vt v).sp at_ (toBytes 8 (setBits (s.spRead v at_ 8) 16 16 1)))
        (at_ + 8) (toBytes 8 a)) (at_ + 16) (toBytes 8 b) := by
  rw [recordWritten, State.spWrite, State.spWrite, State.spWrite, sp_spWriteBytes, sp_spWriteBytes, sp_spWriteBytes hv hout]
  · rwa [(onlyBytes_spWriteBytes s v _ _).hasVt]
  · rwa [spOut_spWriteBytes]
  · rwa [(onlyBytes_spWriteBytes _ v _ _).hasVt, (onlyBytes_spWriteBytes s v _ _).hasVt]
  · rwa [spOut_spWriteBytes, spOut_spWriteBytes]

theorem spOut_recordWritten (hout : (s.vt v).spOut = []) (at_ a b : Nat) : ((recordWritten s v at_ a b).vt v).spOut = [] := by
  rw [(onlyBytes_recordWritten s v at_ a b).vt_keeps Vtile.spOut (fun _ _ _ => rfl), hout]

theorem memRead_lt (m : Memory) (a n : Nat) : memRead m a n < 256 ^ n := by
  induction n generalizing a with
  | zero => simp [memRead]
  | succ n ih =>
    have hbyte := (memGet m a).isLt
    have hrest := ih (a + 1)
    rw [memRead, pow_succ]
    omega

section
variable (hv : s.hasVt v = true) (hout : (s.vt v).spOut = []) (hwf : (s.vt v).sp.wf = true)
include hv hout hwf

/-- The word of the record gains LANDED. -/
theorem spRead_recordWritten_word (at_ a b : Nat) :
    (recordWritten s v at_ a b).spRead v at_ 8 = s.spRead v at_ 8 ||| 2 ^ 16 := by
  have hlt : s.spRead v at_ 8 ||| 2 ^ 16 < 2 ^ 64 :=
    Nat.or_lt_two_pow (by rw [spRead_in hout]; exact (memRead_lt _ _ 8).trans_eq (by norm_num)) (by norm_num)
  rw [spRead_in (spOut_recordWritten hout at_ a b), sp_recordWritten hv hout,
    memRead_memWriteBytes_out (memWriteBytes_wf (memWriteBytes_wf hwf _ _) _ _) _ _ (by simp),
    memRead_memWriteBytes_out (memWriteBytes_wf hwf _ _) _ _ (by simp), setBits_flag]
  exact (memRead_memWriteBytes_field hwf at_ _ (off := 0) (by simp)).trans (fieldAt_toBytes_of_lt hlt)

theorem spRead_recordWritten_value (at_ b : Nat) {a : Nat} (ha : a < 2 ^ 64) :
    (recordWritten s v at_ a b).spRead v (at_ + 8) 8 = a := by
  rw [spRead_in (spOut_recordWritten hout at_ a b), sp_recordWritten hv hout,
    memRead_memWriteBytes_out (memWriteBytes_wf (memWriteBytes_wf hwf _ _) _ _) _ _ (by simp)]
  exact (memRead_memWriteBytes_field (memWriteBytes_wf hwf _ _) (at_ + 8) _ (off := 0) (by simp)).trans
    (fieldAt_toBytes_of_lt ha)

theorem spGet_recordWritten_out (at_ a b : Nat) {x : Nat} (hx : x < at_ ∨ at_ + 24 ≤ x) :
    (recordWritten s v at_ a b).spGet v x = s.spGet v x := by
  rw [spGet_in (spOut_recordWritten hout at_ a b), spGet_in hout, sp_recordWritten hv hout,
    memGet_memWriteBytes_out (memWriteBytes_wf (memWriteBytes_wf hwf _ _) _ _) _ _ (by simp; omega),
    memGet_memWriteBytes_out (memWriteBytes_wf hwf _ _) _ _ (by simp; omega),
    memGet_memWriteBytes_out hwf _ _ (by simp; omega)]

end

variable {r : SRef} {k : Nat} {f : Flight}

/-- What a slot knows of its one recorded operation when the result has come. -/
def answeredRecord (k : Nat) (f : Flight) (l : Landing) (sl : Slot) : Slot :=
  { sl with saved := [(k, { f with res := some l, performed := true, due := true })] }

theorem landWaits_in (hout : (s.vt v).spOut = []) (a n : Nat) : s.landWaits v a n = false := by
  simp [State.landWaits, State.spOutRange, hout]

theorem landRecord_eq (s : State) (v : VRef) (r : SRef) (k : Nat) (l : Landing) : ∃ b, s.landRecord v r k l =
    ((recordWritten s v (recordAddr (s.slot r) k) ((l.q.getD 0).toNat % 2 ^ 64) b).modSlot r (fun sl => sl.forget k)).event v l.ev :=
  ⟨_, rfl⟩

/-- The one record that a slot still waits for is written when its result comes. -/
theorem recordDone_only (hv : s.hasVt r.vt = true) (hout : (s.vt r.vt).spOut = []) (hsaved : (s.slot r).saved = [(k, f)])
    (l : Landing) : ∃ b, s.recordDone r.vt r k (some l) =
      ((recordWritten (s.modSlot r (answeredRecord k f l)) r.vt (recordAddr (s.slot r) k) ((l.q.getD 0).toNat % 2 ^ 64) b).modSlot r
        (fun sl => sl.forget k)).event r.vt l.ev := by
  have hmark : s.modSlot r (fun sl => { sl with
      saved := sl.saved.map (fun p => if p.1 = k then (k, { p.2 with res := some l, performed := true, due := true }) else p) }) =
      s.modSlot r (answeredRecord k f l) := modSlot_congr s (by rw [hsaved]; simp [answeredRecord])
  have hslot : (s.modSlot r (answeredRecord k f l)).slot r = answeredRecord k f l (s.slot r) := State.slot_modSlot_self s r _ hv
  have hout' : ((s.modSlot r (answeredRecord k f l)).vt r.vt).spOut = [] := by
    rw [vt_modSlot_keeps s Vtile.spOut (fun _ _ => rfl), hout]
  obtain ⟨b, hland⟩ := landRecord_eq (s.modSlot r (answeredRecord k f l)) r.vt r k l
  rw [hslot] at hland
  refine ⟨b, ?_⟩
  have hnext : (s.modSlot r (answeredRecord k f l)).savedNext r =
      some (k, { f with res := some l, performed := true, due := true }) := by
    simp [State.savedNext, hslot, answeredRecord, Slot.recordDue, landWaits_in hout']
  have hlast : ∀ t : State, (t.slot r).saved = [] → ∀ n, t.landSaved r.vt r n = t := by
    intro t h n
    cases n with
    | zero => rfl
    | succ n => rw [State.landSaved, State.savedNext, h]; rfl
  rw [State.recordDone, hmark, State.landSaved, hnext]
  show (State.landRecord _ r.vt r k l).landSaved r.vt r 31 = _
  rw [hlast _ _ 31, hland]
  · rfl
  · rw [hland, slot_event, State.slot_modSlot_self]
    · rw [(onlyBytes_recordWritten _ _ _ _ _).slot, hslot]
      simp [answeredRecord, Slot.forget]
    · rw [(onlyBytes_recordWritten _ _ _ _ _).hasVt, State.hasVt_modSlot, hv]

/-- A result for the one recorded operation of a slot in its handler goes into the record. -/
theorem engineResult_record (hr : r = ⟨v, Fin.ofNat 8 u.slot⟩) (hruns : (s.slot r).runs u.fser = true)
    (hops : (s.slot r).ops = []) (hsaved : (s.slot r).saved = [(k, f)]) (hid : f.id = u.fid) (l : Landing) :
    s.engineResult v u.slot u.fser u.fid l = s.recordDone v r k (some l) := by
  rw [State.engineResult]
  simp only [← hr]
  simp [hruns, hops, hsaved, hid]

/-! ## The operation leaves the bank -/

/-- What a change keeps of every context, it keeps of the one that it is made to. -/
theorem ctx_inCtx_keeps {β : Type} (s : State) (p : Ctx → β) (n m : Nat) {f : Ctx → Ctx} (hp : ∀ c, p (f c) = p c) :
    p ((s.inCtx n f).ctx m) = p (s.ctx m) := by
  by_cases hm : m = n
  · subst hm
    cases hc : Tbl.find? s.ctxs m with
    | none => rw [inCtx_absent s hc]
    | some c => rw [State.ctx_inCtx_self s m f (by simp [hc]), hp]
  · rw [State.ctx_inCtx_ne s hm]

theorem vt_inCtx (s : State) (n : Nat) (v : VRef) {f : Ctx → Ctx} (hf : ∀ c, (f c).vts = c.vts) : (s.inCtx n f).vt v = s.vt v := by
  rw [State.vt, State.vt, ctx_inCtx_keeps s Ctx.vts n v.ctx hf]

theorem hasVt_inCtx (s : State) (n : Nat) (v : VRef) {f : Ctx → Ctx} (hf : ∀ c, (f c).vts = c.vts) :
    (s.inCtx n f).hasVt v = s.hasVt v := by
  rw [State.hasVt, State.hasVt, ctx_inCtx_keeps s Ctx.vts n v.ctx hf]

theorem slot_inCtx (s : State) (n : Nat) (q : SRef) {f : Ctx → Ctx} (hf : ∀ c, (f c).vts = c.vts) :
    (s.inCtx n f).slot q = s.slot q := by
  rw [State.slot, State.slot, vt_inCtx s n q.vt hf]

theorem spGet_inCtx (s : State) (n : Nat) (v : VRef) (a : Nat) {f : Ctx → Ctx} (hf : ∀ c, (f c).vts = c.vts)
    (hdesc : ∀ c, (f c).desc = c.desc) : (s.inCtx n f).spGet v a = s.spGet v a := by
  simp only [State.spGet, State.image, vt_inCtx s n v hf, ctx_inCtx_keeps s Ctx.desc n v.ctx hdesc, State.inCtx_rim]
  rfl

/-- The operations on their way of a context, without one. -/
def withoutBankOp (id : Nat) (c : Ctx) : Ctx := { c with bankOps := removeFirst (fun o => o.id == id) c.bankOps }

theorem takeBankOp_eq (s : State) (ctx : Nat) (u : BankOp) :
    s.takeBankOp ctx u = (s.inCtx ctx (withoutBankOp u.id)).performBank ctx u := rfl

/-- What stays when the one record of a slot is written, and what the record then holds. -/
theorem recordDone_reads (hv : s.hasVt r.vt = true) (hout : (s.vt r.vt).spOut = []) (hwf : (s.vt r.vt).sp.wf = true)
    (hsaved : (s.slot r).saved = [(k, f)]) (value : Word) :
    let t := s.recordDone r.vt r k (some (landQ value))
    let at_ := recordAddr (s.slot r) k
    (t.slot r).saved = [] ∧ t.spRead r.vt at_ 8 = s.spRead r.vt at_ 8 ||| 2 ^ 16 ∧ t.spRead r.vt (at_ + 8) 8 = value.toNat ∧
      (∀ a, a < at_ ∨ at_ + 24 ≤ a → t.spGet r.vt a = s.spGet r.vt a) ∧ (t.slot r).lat = (s.slot r).lat ∧
      ∀ n, (t.ctx n).commons = (s.ctx n).commons := by
  obtain ⟨b, hdone⟩ := recordDone_only hv hout hsaved (landQ value)
  intro t at_
  have hvalue : ((landQ value).q.getD 0).toNat % 2 ^ 64 = value.toNat := by
    show (value.setWidth 1024).toNat % 2 ^ 64 = _
    exact lo64_setWidth value
  rw [hvalue] at hdone
  let w := s.modSlot r (answeredRecord k f (landQ value))
  have hvw : w.hasVt r.vt = true := by rw [State.hasVt_modSlot, hv]
  have houtw : (w.vt r.vt).spOut = [] := by rw [vt_modSlot_keeps s Vtile.spOut (fun _ _ => rfl), hout]
  have hwfw : (w.vt r.vt).sp.wf = true := by rw [vt_modSlot_keeps s Vtile.sp (fun _ _ => rfl), hwf]
  have hslot : t.slot r = (answeredRecord k f (landQ value) (s.slot r)).forget k := by
    rw [show t = _ from hdone, slot_event, State.slot_modSlot_self, (onlyBytes_recordWritten _ _ _ _ _).slot,
      State.slot_modSlot_self s r _ hv]
    rwa [(onlyBytes_recordWritten _ _ _ _ _).hasVt]
  have hget : ∀ a, t.spGet r.vt a = (recordWritten w r.vt at_ value.toNat b).spGet r.vt a := fun a => by
    rw [show t = _ from hdone, spGet_event, State.spGet_modSlot]
  refine ⟨?_, ?_, ?_, fun a ha => ?_, ?_, fun n => ?_⟩
  · rw [hslot]; simp [Slot.forget, answeredRecord]
  · rw [spRead_congr hget, spRead_recordWritten_word hvw houtw hwfw, spRead_modSlot]
  · rw [spRead_congr hget, spRead_recordWritten_value hvw houtw hwfw _ _ value.isLt]
  · rw [hget, spGet_recordWritten_out hvw houtw hwfw _ _ _ ha, State.spGet_modSlot]
  · rw [hslot]; rfl
  · rw [show t = _ from hdone, commons_event, commons_modSlot, (onlyBytes_recordWritten _ _ _ _ _).commons, commons_modSlot]

theorem recordedOperationsLandInTheirRecords : RecordedOperationsLandInTheirRecords := by
  intro s ctx id k u f v r at_ hfind hready hv hop hstatus hfser hops hsb hsaved hid htrig hdue hk hfits hout hwf hline htag hheld
  obtain ⟨hcondemned, hmark, -, -⟩ := hline
  have hvts : ∀ c, (withoutBankOp u.id c).vts = c.vts := fun _ => rfl
  have hkeeps : ∀ {β : Type} (p : Ctx → β), (∀ c, p (withoutBankOp u.id c) = p c) →
      p ((s.inCtx ctx (withoutBankOp u.id)).ctx ctx) = p (s.ctx ctx) := fun p hp => ctx_inCtx_keeps s p ctx ctx hp
  have hslot := slot_inCtx s ctx r hvts
  have hvt := vt_inCtx s ctx v hvts
  have hhas := (hasVt_inCtx s ctx v hvts).trans hv
  have hsp := fun a => spGet_inCtx s ctx v a hvts (fun _ => rfl)
  have hcommons := hkeeps Ctx.commons (fun _ => rfl)
  have hstep : exec (.commonsBankPerform ctx id) s = .next ((s.inCtx ctx (withoutBankOp u.id)).performBank ctx u) := by
    show execCommonsBankPerform ctx id s = _
    simp only [execCommonsBankPerform, hfind, hready, if_true, takeBankOp_eq]
  rw [performBank_cLd hop ((hkeeps Ctx.holding (fun _ => rfl)).trans hheld)
    (by rw [hkeeps Ctx.condemned (fun _ => rfl), hcondemned]) (by rw [hkeeps Ctx.cmarks (fun _ => rfl), hmark])
    (by rw [hkeeps Ctx.wtags (fun _ => rfl), htag]) ((congrArg Slot.sb hslot).trans hsb), hcommons,
    engineResult_record (r := r) rfl (by rw [hslot, Slot.runs, hfser, hstatus]; simp) (by rw [hslot, hops])
      (by rw [hslot, hsaved]) hid] at hstep
  generalize s.inCtx ctx (withoutBankOp u.id) = w at *
  obtain ⟨hsaved', hword, hvalue, hget, hlat, hcommons'⟩ := recordDone_reads (r := r) hhas (by rw [hvt, hout]) (by rw [hvt, hwf])
    ((congrArg Slot.saved hslot).trans hsaved) (resOf u.mod (opOf u.mod (memRead (s.ctx ctx).commons u.ea (wOf u.mod / 8))))
  rw [hslot] at hword hvalue hget hlat
  rw [spRead_congr hsp] at hword
  exact ⟨_, hstep, hsaved', hword, hvalue, fun a ha => (hget a ha).trans (hsp a), hlat, (hcommons' ctx).trans hcommons⟩

/-- Settles O20: trap entry is the write of the frame and the step to the handler; a bank's result is a write to its record. -/
theorem takingATrapSavesTheSlotAndEntersTheHandler : Obligations.TakingATrapSavesTheSlotAndEntersTheHandler :=
  ⟨trapEntryGoesToTheHandler, trapEntryWritesTheFrame, trapEntryRecordsWhatIsUnderWay, recordedOperationsLandInTheirRecords⟩

end Sys2Proof.Proofs.Formats
end

section
/-!
CORRECTNESS. O21: a trap that cannot be taken (R349). Its clause on the bytes outside the frame does not ask for a scratchpad in
canonical form, and fails without it.
-/
namespace Sys2Proof.Proofs.Formats
open Sys2Proof Sys2Proof.Machine Sys2Proof.Claims

variable {s : State} {r : SRef} {t : TrapReq} {held : Bool}

/-- Trap entry without a handler: the frame is written, and the firing ends with its message. -/
theorem takeTrap_noHandler (hstatus : (s.slot r).status ≠ .trapped) (harea : FrameAreaOk (s.vt r.vt))
    (hhandler : ∀ ix, ¬TrapHandlerAt (s.vt r.vt) ix) (hquiet : Quiet (s.slot r)) (resume : Nat) (replay : Option Flight) :
    s.takeTrap r t resume held replay = (framed s r t resume held replay).fatalTrap r 0x20
      (tcauseWord t held (s.moreHeld r)) t.tval t.tinst := by
  obtain ⟨hops, hsb⟩ := hquiet
  rw [takeTrap_of_stays hstatus harea hsb (by simp [hops]), (vector?_eq_none_iff _).mpr hhandler]; rfl

theorem spGet_fatalTrap (s : State) (r : SRef) (reason : Nat) (tcause tval tinst : Word) (v : VRef) (a : Nat) :
    (s.fatalTrap r reason tcause tval tinst).spGet v a = s.spGet v a := by
  rw [State.fatalTrap, spGet_endFiring, spGet_holdVtile]

/-- The first byte of a frame is that of `%tcause`. -/
theorem frameOfSlot_cons (s : State) (r : SRef) (t : TrapReq) (resume : Nat) (held : Bool) (replay : Option Flight) :
    ∃ rest, frameOfSlot s r t resume held replay = BitVec.ofNat 8 (tcauseWord t held (s.moreHeld r)).toNat :: rest := by
  rw [frameOfSlot, frameBytes_eq, frameHead]
  exact ⟨_, rfl⟩

/-- A vtile with READY slots and no handlers, whose scratchpad is out of canonical form: the cell of the lower address stands
behind that of the higher, and does not read. -/
def unsortedPad : Vtile :=
  { Vtile.fresh with
    slots := Vector.replicate 8 { Slot.blank with status := .ready }, sp := [(0x3F8000, 1), (0x3F7FFF, 7)] }

/-- The one vtile of the one context, and its slot 0. -/
def loneSlot : SRef := ⟨⟨0, 0⟩, 0⟩

def unsortedState : State := { State.reset with ctxs := [(0, { Ctx.blank with vts := [(0, unsortedPad)] })] }

/-- A trap whose `%tcause` begins with a byte 0, so that the frame's first byte takes the cell at its address away. -/
def zeroCause : TrapReq := { code := 0, tval := 0, tinst := 0, move := 0, pair2 := false }

theorem vt_unsortedState : unsortedState.vt loneSlot.vt = unsortedPad := rfl

theorem slot_unsortedState : unsortedState.slot loneSlot = { Slot.blank with status := .ready } := rfl

theorem unsortedState_ready : (unsortedState.slot loneSlot).status ≠ .trapped ∧ FrameAreaOk (unsortedState.vt loneSlot.vt) ∧
    (∀ ix, ¬TrapHandlerAt (unsortedState.vt loneSlot.vt) ix) ∧ Quiet (unsortedState.slot loneSlot) := by
  rw [vt_unsortedState, slot_unsortedState]
  refine ⟨by decide, ⟨by decide, .inl rfl⟩, fun ix h => ?_, rfl, rfl⟩
  obtain ⟨hvalid, -⟩ := h
  exact absurd hvalid (by decide)

/-- The byte below the frame reads 0 before the trap. -/
theorem spGet_unsortedState : unsortedState.spGet loneSlot.vt 0x3F7FFF = 0 := by
  rw [spGet_in (by rw [vt_unsortedState]; rfl), vt_unsortedState]
  decide

/-- It reads 7 after the trap. -/
theorem spGet_takeTrap_unsortedState :
    (unsortedState.takeTrap loneSlot zeroCause 0 false none).spGet loneSlot.vt 0x3F7FFF = 7 := by
  obtain ⟨hstatus, harea, hhandler, hquiet⟩ := unsortedState_ready
  obtain ⟨rest, hframe⟩ := frameOfSlot_cons unsortedState loneSlot zeroCause 0 false none
  have hout : (unsortedState.vt loneSlot.vt).spOut = [] := by rw [vt_unsortedState]; rfl
  have hcause : BitVec.ofNat 8 (tcauseWord zeroCause false (unsortedState.moreHeld loneSlot)).toNat = 0 := by
    cases unsortedState.moreHeld loneSlot <;> decide
  have hfirst : memPut unsortedPad.sp 0x3F8000 0 = [(0x3F7FFF, 7)] := by decide
  have hframed : ((framed unsortedState loneSlot zeroCause 0 false none).vt loneSlot.vt).sp =
      memWriteBytes [(0x3F7FFF, 7)] (0x3F8000 + 1) rest := by
    rw [framed, show formatHold unsortedState loneSlot zeroCause false = unsortedState from rfl, sp_spWriteBytes rfl hout,
      vt_unsortedState, hframe, hcause, show frameOf unsortedPad loneSlot.slot = 0x3F8000 from rfl, memWriteBytes, hfirst]
  rw [takeTrap_noHandler hstatus harea hhandler hquiet, spGet_fatalTrap, spGet_in (by rw [spOut_framed, hout]), hframed,
    memGet_memWriteBytes_out (by decide) _ _ (by omega)]
  decide

/-- Refutes O21: where no handler takes the trap, the write of the frame brings to light a byte outside it that a scratchpad out
of canonical form hides. -/
theorem not_fatalTrapsEndTheFiringAndHoldTheVtile : ¬ Obligations.FatalTrapsEndTheFiringAndHoldTheVtile := by
  intro h
  obtain ⟨hstatus, harea, hhandler, hquiet⟩ := unsortedState_ready
  obtain ⟨-, -, hunhandled⟩ := h unsortedState loneSlot zeroCause 0 false rfl (by decide) (by decide)
  obtain ⟨-, houtside, -⟩ := hunhandled hstatus harea hhandler hquiet
  have hbyte := houtside 0x3F7FFF (.inl (by rw [vt_unsortedState]; decide))
  rw [spGet_takeTrap_unsortedState, spGet_unsortedState] at hbyte
  exact absurd hbyte (by decide)

end Sys2Proof.Proofs.Formats
end

section
/-!
SUPPORT. Rounding at a quantum (R56, R60): the integer below, and when the next one is taken.
-/
namespace Sys2Proof.Proofs.Formats
open Sys2Proof Sys2Proof.Machine Sys2Proof.Claims

/-- What m, e and the sticky flag say of a magnitude: it is m * 2^e, or lies strictly between that and the next. -/
def IsMagnitude (m : Nat) (e : Int) (st : Bool) (a : ℝ) : Prop :=
  if st then (m : ℝ) * 2 ^ e < a ∧ a < (m + 1 : ℝ) * 2 ^ e else a = m * 2 ^ e

/-- Does a mode take the integer above s for a magnitude x between s and s + 1? -/
def GoesUp (rm : RM) (neg : Bool) (x : ℝ) (s : Nat) : Prop :=
  match rm with
  | .rn => s + 1 / 2 < x ∨ (x = s + 1 / 2 ∧ s % 2 = 1)
  | .rz => False
  | .ru => x ≠ s ∧ neg = false
  | .rd => x ≠ s ∧ neg = true

/-- n is what a mode makes of x. -/
def RoundsAt (rm : RM) (neg : Bool) (x : ℝ) (s n : Nat) : Prop :=
  (s : ℝ) ≤ x ∧ x < s + 1 ∧ (GoesUp rm neg x s ∧ n = s + 1 ∨ ¬GoesUp rm neg x s ∧ n = s)

theorem not_goesUp_self (rm : RM) (neg : Bool) (s : Nat) : ¬GoesUp rm neg s s := by
  cases rm with
  | rn => rintro (h | ⟨h, -⟩) <;> linarith
  | rz => exact id
  | ru => rintro ⟨h, -⟩; exact h rfl
  | rd => rintro ⟨h, -⟩; exact h rfl

/-- The bits that are cut off, with what lies below them, against none and against one half. -/
theorem cutOff_cmp {sig rem d : Nat} {st : Bool} {x δ : ℝ} (hd : 0 < d) (hx : x = sig + (rem + δ) / 2 ^ d)
    (hδ : if st then 0 < δ ∧ δ < 1 else δ = 0) :
    (x ≠ sig ↔ (rem != 0 || st) = true) ∧ (sig + 1 / 2 < x ↔ 2 ^ d < 2 * rem ∨ (2 * rem = 2 ^ d ∧ st = true)) ∧
      (x = sig + 1 / 2 ↔ 2 * rem = 2 ^ d ∧ st = false) := by
  obtain ⟨k, rfl⟩ : ∃ k, d = k + 1 := ⟨d - 1, by omega⟩
  have hP : (0 : ℝ) < 2 ^ (k + 1) := by positivity
  have hself : x = sig ↔ (rem : ℝ) + δ = 0 := by
    rw [hx, add_eq_left, div_eq_zero_iff]; simp
  have habove : (sig : ℝ) + 1 / 2 < x ↔ (2 ^ (k + 1) : ℝ) < 2 * (rem + δ) := by
    rw [hx, add_lt_add_iff_left, div_lt_div_iff₀ two_pos hP]; constructor <;> intro h <;> linarith
  have hhalf : x = sig + 1 / 2 ↔ 2 * (rem + δ) = (2 ^ (k + 1) : ℝ) := by
    rw [hx, add_right_inj, div_eq_div_iff hP.ne' two_ne_zero]; constructor <;> intro h <;> linarith
  have hnat : (2 * rem < 2 ^ (k + 1) → 2 * rem + 2 ≤ 2 ^ (k + 1)) := by rw [pow_succ]; omega
  rw [ne_eq, hself, habove, hhalf]
  cases st with
  | false =>
    simp only [Bool.false_eq_true, if_false] at hδ
    subst hδ
    rw [add_zero]
    norm_cast
    simp
  | true =>
    obtain ⟨hpos, hlt⟩ : 0 < δ ∧ δ < 1 := hδ
    have hrem0 : (0 : ℝ) ≤ rem := Nat.cast_nonneg rem
    have hbelow : 2 * rem < 2 ^ (k + 1) → 2 * ((rem : ℝ) + δ) < 2 ^ (k + 1) := fun h => by
      have : (2 * rem + 2 : ℝ) ≤ 2 ^ (k + 1) := by exact_mod_cast hnat h
      linarith
    have habove' : 2 ^ (k + 1) ≤ 2 * rem → (2 ^ (k + 1) : ℝ) < 2 * (rem + δ) := fun h => by
      have : (2 ^ (k + 1) : ℝ) ≤ 2 * rem := by exact_mod_cast h
      linarith
    refine ⟨by simp; linarith, ⟨fun h => ?_, fun h => habove' (by omega)⟩, ⟨fun h => ?_, fun h => by simp at h⟩⟩
    · by_contra hcon
      exact lt_asymm h (hbelow (by simp at hcon; omega))
    · rcases Nat.lt_or_ge (2 * rem) (2 ^ (k + 1)) with hlt | hge
      · exact absurd h (hbelow hlt).ne
      · exact absurd h (habove' hge).ne'

theorem roundsUp_iff {rm : RM} {neg : Bool} {sig rem d : Nat} {st : Bool} {x δ : ℝ} (hd : 0 < d)
    (hx : x = sig + (rem + δ) / 2 ^ d) (hδ : if st then 0 < δ ∧ δ < 1 else δ = 0) :
    roundsUp rm neg sig rem d st = true ↔ GoesUp rm neg x sig := by
  obtain ⟨hself, habove, hhalf⟩ := cutOff_cmp hd hx hδ
  cases rm with
  | rn =>
    rw [GoesUp, habove, hhalf, roundsUp]
    simp only [Bool.or_eq_true, decide_eq_true_eq, Bool.and_eq_true, beq_iff_eq]
    cases st <;> simp
  | rz => simp [GoesUp, roundsUp]
  | ru => rw [GoesUp, hself, roundsUp, Bool.and_eq_true, Bool.not_eq_true']
  | rd => rw [GoesUp, hself, roundsUp, Bool.and_eq_true]

theorem roundAt_spec {rm : RM} {neg : Bool} {m : Nat} {e q : Int} {st : Bool} {a : ℝ} (ha : IsMagnitude m e st a)
    (hst : st = true → e < q) : ∃ s, RoundsAt rm neg (a / 2 ^ q) s (roundAt rm neg m e q st).1 ∧
      ((roundAt rm neg m e q st).2 = true ↔ a / 2 ^ q ≠ s) := by
  have hq : (0 : ℝ) < 2 ^ q := by positivity
  by_cases hqe : q ≤ e
  · have hst' : st = false := by cases st <;> simp_all; omega
    subst hst'
    have hx : a / 2 ^ q = ((m <<< (e - q).toNat : ℕ) : ℝ) := by
      rw [show a = m * 2 ^ e from ha, mul_div_assoc, ← zpow_sub₀ two_ne_zero, Nat.shiftLeft_eq]
      push_cast
      rw [← zpow_natCast, Int.toNat_of_nonneg (by omega)]
    refine ⟨m <<< (e - q).toNat, ⟨hx.ge, by rw [hx]; linarith, .inr ⟨by rw [hx]; exact not_goesUp_self _ _ _, ?_⟩⟩, ?_⟩
    · rw [roundAt, if_pos hqe]
    · rw [roundAt, if_pos hqe, hx]; simp
  · obtain ⟨d, hd0, hd⟩ : ∃ d : ℕ, 0 < d ∧ q = e + d := ⟨(q - e).toNat, by omega, by omega⟩
    have hdq : (q - e).toNat = d := by omega
    have hdiv : a / 2 ^ q = a / 2 ^ e / 2 ^ d := by
      rw [hd, zpow_add₀ two_ne_zero, zpow_natCast, div_div]
    have he : (0 : ℝ) < 2 ^ e := by positivity
    obtain ⟨δ, hm, hδ⟩ : ∃ δ : ℝ, a / 2 ^ e = m + δ ∧ if st then 0 < δ ∧ δ < 1 else δ = 0 := by
      refine ⟨a / 2 ^ e - m, by ring, ?_⟩
      cases st with
      | false =>
        rw [show a = m * 2 ^ e from ha]
        simp [he.ne']
      | true =>
        obtain ⟨hlow, hhigh⟩ : (m : ℝ) * 2 ^ e < a ∧ a < (m + 1 : ℝ) * 2 ^ e := ha
        rw [← lt_div_iff₀ he] at hlow
        rw [← div_lt_iff₀ he] at hhigh
        exact ⟨by linarith, by linarith⟩
    have hx : a / 2 ^ q = ((m >>> d : ℕ) : ℝ) + ((m % 2 ^ d : ℕ) + δ) / 2 ^ d := by
      have hP : (2 : ℝ) ^ d ≠ 0 := by positivity
      have hsplit : (m : ℝ) = (m >>> d : ℕ) * 2 ^ d + (m % 2 ^ d : ℕ) := by
        rw [Nat.shiftRight_eq_div_pow]; exact_mod_cast (Nat.div_add_mod' m (2 ^ d)).symm
      rw [hdiv, hm, hsplit]
      field_simp
      ring
    obtain ⟨hself, -, -⟩ := cutOff_cmp hd0 hx hδ
    have hup := roundsUp_iff (rm := rm) (neg := neg) hd0 hx hδ
    have hrem : ((m % 2 ^ d : ℕ) : ℝ) + 1 ≤ 2 ^ d := by
      exact_mod_cast Nat.mod_lt m (show 0 < 2 ^ d by positivity)
    have hδ0 : 0 ≤ δ ∧ δ < 1 := by
      cases st
      · obtain rfl : δ = 0 := hδ
        norm_num
      · exact ⟨hδ.1.le, hδ.2⟩
    refine ⟨m >>> d, ⟨?_, ?_, ?_⟩, ?_⟩
    · rw [hx]
      have : 0 ≤ (((m % 2 ^ d : ℕ) : ℝ) + δ) / 2 ^ d := div_nonneg (add_nonneg (Nat.cast_nonneg _) hδ0.1) (by positivity)
      linarith
    · rw [hx, add_lt_add_iff_left, div_lt_one (by positivity)]
      linarith [hδ0.2]
    · rw [roundAt, if_neg hqe, hdq]
      by_cases h : GoesUp rm neg (a / 2 ^ q) (m >>> d)
      · exact .inl ⟨h, if_pos (hup.mpr h)⟩
      · exact .inr ⟨h, if_neg (mt hup.mp h)⟩
    · rw [roundAt, if_neg hqe, hdq, hself]

/-- Nothing is cut off where, and only where, the result is the magnitude itself. -/
theorem RoundsAt.exact_iff {rm : RM} {neg : Bool} {x : ℝ} {s n : Nat} (h : RoundsAt rm neg x s n) : x = s ↔ (n : ℝ) = x := by
  obtain ⟨hlow, hhigh, ⟨hup, rfl⟩ | ⟨hdown, rfl⟩⟩ := h
  · push_cast
    exact ⟨fun hx => absurd (hx ▸ hup) (not_goesUp_self rm neg s), fun hx => by linarith⟩
  · exact eq_comm

/-! ## Integers (R60) -/

/-- A magnitude with a sign. -/
def signed (neg : Bool) (x : ℝ) : ℝ := if neg then -x else x

theorem abs_signed (neg : Bool) {x : ℝ} (hx : 0 ≤ x) : |signed neg x| = x := by
  cases neg <;> simp [signed, abs_of_nonneg hx]

theorem abs_signed_sub (neg : Bool) (x y : ℝ) : |signed neg x - signed neg y| = |x - y| := by
  cases neg
  · rfl
  · rw [signed, signed, if_pos rfl, if_pos rfl, neg_sub_neg, abs_sub_comm]

theorem cases_rm (rm : BitVec 2) : (rm = 0 ∧ rmOf rm = .rn) ∨ (rm = 1 ∧ rmOf rm = .rz) ∨ (rm = 2 ∧ rmOf rm = .ru) ∨
    (rm = 3 ∧ rmOf rm = .rd) := by
  revert rm; decide

/-- The nearest integer: how far it is, and that it is even in a tie. -/
theorem RoundsAt.nearest {neg : Bool} {x : ℝ} {s n : Nat} (h : RoundsAt .rn neg x s n) :
    |x - n| ≤ 1 / 2 ∧ (|x - n| = 1 / 2 → n % 2 = 0) := by
  obtain ⟨hlow, hhigh, ⟨hup, rfl⟩ | ⟨hdown, rfl⟩⟩ := h
  · have hhalf : (s : ℝ) + 1 / 2 ≤ x := by rcases hup with h | ⟨h, -⟩ <;> linarith
    rw [abs_of_nonpos (by push_cast; linarith)]
    push_cast
    refine ⟨by linarith, fun htie => ?_⟩
    rcases hup with h | ⟨-, hodd⟩
    · linarith
    · omega
  · have hhalf : x ≤ n + 1 / 2 := le_of_not_gt fun h => hdown (.inl h)
    rw [abs_of_nonneg (by linarith)]
    refine ⟨by linarith, fun htie => ?_⟩
    by_contra hodd
    exact hdown (.inr ⟨by linarith, by omega⟩)

/-- The directed modes: towards zero or away from it. -/
theorem RoundsAt.directed {rm : RM} {neg : Bool} {x : ℝ} {s n : Nat} (h : RoundsAt rm neg x s n) :
    (rm = .rz ∨ (rm = .ru ∧ neg = true) ∨ (rm = .rd ∧ neg = false) → (n : ℝ) ≤ x ∧ x < n + 1) ∧
    ((rm = .ru ∧ neg = false) ∨ (rm = .rd ∧ neg = true) → x ≤ n ∧ n < x + 1) := by
  obtain ⟨hlow, hhigh, hn⟩ := h
  constructor
  · intro hmode
    have hdown : ¬GoesUp rm neg x s := by
      rcases hmode with rfl | ⟨rfl, rfl⟩ | ⟨rfl, rfl⟩ <;> simp [GoesUp]
    obtain ⟨hup, -⟩ | ⟨-, rfl⟩ := hn
    · exact absurd hup hdown
    · exact ⟨hlow, hhigh⟩
  · intro hmode
    have hup : GoesUp rm neg x s ↔ x ≠ s := by
      rcases hmode with ⟨rfl, rfl⟩ | ⟨rfl, rfl⟩ <;> simp [GoesUp]
    rw [hup] at hn
    obtain ⟨hx, rfl⟩ | ⟨hx, rfl⟩ := hn
    · have := lt_of_le_of_ne hlow (Ne.symm hx)
      push_cast
      exact ⟨hhigh.le, by linarith⟩
    · rw [not_not.mp hx]
      exact ⟨le_rfl, by linarith⟩

/-- Rounding at quantum 1 gives the integer of R60. -/
theorem RoundsAt.integralTo {rm : BitVec 2} {neg : Bool} {x : ℝ} {s n : Nat} (h : RoundsAt (rmOf rm) neg x s n) :
    IntegralTo rm (signed neg x) (if neg then -(n : ℤ) else n) := by
  have hx : 0 ≤ x := (Nat.cast_nonneg s).trans h.1
  have hcast : (((if neg then -(n : ℤ) else n) : ℤ) : ℝ) = signed neg n := by cases neg <;> simp [signed]
  have hparity : (if neg then -(n : ℤ) else n) % 2 = 0 ↔ n % 2 = 0 := by cases neg <;> simp <;> omega
  rw [IntegralTo, hcast, abs_signed_sub, abs_signed neg hx, abs_signed neg (Nat.cast_nonneg n), hparity]
  obtain ⟨hdown, hup⟩ := h.directed
  rcases cases_rm rm with ⟨rfl, hrm⟩ | ⟨rfl, hrm⟩ | ⟨rfl, hrm⟩ | ⟨rfl, hrm⟩
  · exact (hrm ▸ h).nearest
  · obtain ⟨hle, hlt⟩ := hdown (.inl hrm)
    exact ⟨hle, by rw [abs_of_nonneg (by linarith)]; linarith⟩
  · cases neg with
    | false => exact hup (.inl ⟨hrm, rfl⟩)
    | true =>
      obtain ⟨hle, hlt⟩ := hdown (.inr (.inl ⟨hrm, rfl⟩))
      exact ⟨neg_le_neg hle, by simp only [signed, if_true]; linarith⟩
  · cases neg with
    | false => exact hdown (.inr (.inr ⟨hrm, rfl⟩))
    | true =>
      obtain ⟨hle, hlt⟩ := hup (.inr ⟨hrm, rfl⟩)
      exact ⟨neg_le_neg hle, by simp only [signed, if_true]; linarith⟩

/-- `RoundToIntegral` of the model. -/
theorem toIntegral_spec (rm : BitVec 2) (neg : Bool) (m : Nat) (e : Int) :
    IntegralTo rm (signed neg (m * 2 ^ e)) (toIntegral (rmOf rm) neg m e).1 ∧
    ((toIntegral (rmOf rm) neg m e).2 = true ↔ ((toIntegral (rmOf rm) neg m e).1 : ℝ) ≠ signed neg (m * 2 ^ e)) := by
  obtain ⟨s, hround, hinexact⟩ := roundAt_spec (rm := rmOf rm) (neg := neg) (m := m) (e := e) (q := 0) (st := false)
    (a := m * 2 ^ e) rfl (by simp)
  rw [zpow_zero, div_one] at hround hinexact
  refine ⟨hround.integralTo, hinexact.trans (not_congr (hround.exact_iff.trans ?_))⟩
  cases neg <;> simp [toIntegral, signed]

end Sys2Proof.Proofs.Formats
end

section
/-!
SUPPORT. Rounding among the values of a rising sequence (R57): the codes of a format, or the multiples of a quantum.
-/
namespace Sys2Proof.Proofs.Formats
open Sys2Proof Sys2Proof.Machine Sys2Proof.Claims

/-- Does a mode take the value after g s for a magnitude between the two? -/
def StepsUp (g : Nat → ℝ) (rm : RM) (neg : Bool) (a : ℝ) (s : Nat) : Prop :=
  match rm with
  | .rn => (g s + g (s + 1)) / 2 < a ∨ (a = (g s + g (s + 1)) / 2 ∧ s % 2 = 1)
  | .rz => False
  | .ru => a ≠ g s ∧ neg = false
  | .rd => a ≠ g s ∧ neg = true

/-- g n is what a mode makes of a, and g s the value at or below a. -/
def RoundsBy (g : Nat → ℝ) (rm : RM) (neg : Bool) (a : ℝ) (s n : Nat) : Prop :=
  g s ≤ a ∧ a < g (s + 1) ∧ (StepsUp g rm neg a s ∧ n = s + 1 ∨ ¬StepsUp g rm neg a s ∧ n = s)

/-- Does a mode take a magnitude past g p, for an odd p? -/
def Passes (g : Nat → ℝ) (rm : RM) (neg : Bool) (a : ℝ) (p : Nat) : Prop :=
  match rm with
  | .rn => (g p + g (p + 1)) / 2 ≤ a
  | .rz => g (p + 1) ≤ a
  | .ru => if neg then g (p + 1) ≤ a else g p < a
  | .rd => if neg then g p < a else g (p + 1) ≤ a

variable {g : Nat → ℝ} {rm : RM} {neg : Bool} {a : ℝ} {s n : Nat}

/-- Multiples of a quantum, from an even place of the sequence on. -/
theorem RoundsAt.roundsBy {Q : ℝ} (hQ : 0 < Q) {base : Nat} (hbase : base % 2 = 0) (h : RoundsAt rm neg (a / Q) s n)
    (hlow : g (base + s) = s * Q) (hhigh : g (base + s + 1) = (s + 1) * Q) : RoundsBy g rm neg a (base + s) (base + n) := by
  obtain ⟨hle, hlt, hn⟩ := h
  have hself : a / Q = s ↔ a = g (base + s) := by rw [hlow, div_eq_iff hQ.ne']
  have hmid : (g (base + s) + g (base + s + 1)) / 2 = (s + 1 / 2) * Q := by rw [hlow, hhigh]; ring
  have hup : GoesUp rm neg (a / Q) s ↔ StepsUp g rm neg a (base + s) := by
    cases rm with
    | rn => rw [GoesUp, StepsUp, hmid, lt_div_iff₀ hQ, div_eq_iff hQ.ne', show (base + s) % 2 = s % 2 by omega]
    | rz => rfl
    | ru => rw [GoesUp, StepsUp, ne_eq, ne_eq, hself]
    | rd => rw [GoesUp, StepsUp, ne_eq, ne_eq, hself]
  rw [le_div_iff₀ hQ] at hle
  rw [div_lt_iff₀ hQ] at hlt
  refine ⟨hlow ▸ hle, hhigh ▸ hlt, ?_⟩
  rw [hup] at hn
  obtain ⟨hu, rfl⟩ | ⟨hu, rfl⟩ := hn
  · exact .inl ⟨hu, rfl⟩
  · exact .inr ⟨hu, rfl⟩

theorem RoundsAt.roundsBy_cast (h : RoundsAt rm neg a s n) : RoundsBy (fun k => (k : ℝ)) rm neg a s n := by
  simpa using RoundsAt.roundsBy (g := fun k => (k : ℝ)) (Q := 1) one_pos (base := 0) rfl (by simpa using h) (by simp) (by simp)

theorem not_stepsUp_self (hg : StrictMono g) (rm : RM) (neg : Bool) (s : Nat) : ¬StepsUp g rm neg (g s) s := by
  have := hg (Nat.lt_succ_self s)
  cases rm with
  | rn => rintro (h | ⟨h, -⟩) <;> linarith
  | rz => exact id
  | ru => rintro ⟨h, -⟩; exact h rfl
  | rd => rintro ⟨h, -⟩; exact h rfl

theorem passes_of_le (hg : StrictMono g) {p : Nat} (h : g (p + 1) ≤ a) : Passes g rm neg a p := by
  have hnext := hg (Nat.lt_succ_self p)
  cases rm with
  | rn => simp only [Passes]; linarith
  | rz => exact h
  | ru => simp only [Passes]; split <;> linarith
  | rd => simp only [Passes]; split <;> linarith

theorem not_passes_of_lt (hg : StrictMono g) {p : Nat} (h : a < g p) : ¬Passes g rm neg a p := by
  have hnext := hg (Nat.lt_succ_self p)
  cases rm with
  | rn => simp only [Passes]; linarith
  | rz => simp only [Passes]; linarith
  | ru => simp only [Passes]; split <;> linarith
  | rd => simp only [Passes]; split <;> linarith

section
variable (hg : StrictMono g) (h : RoundsBy g rm neg a s n)
include hg h

theorem RoundsBy.exact_iff : a = g s ↔ g n = a := by
  obtain ⟨hlow, hhigh, ⟨hup, rfl⟩ | ⟨hdown, rfl⟩⟩ := h
  · exact ⟨fun hx => absurd (hx ▸ hup) (not_stepsUp_self hg rm neg s), fun hx => absurd hx hhigh.ne'⟩
  · exact eq_comm

/-- Past an odd place of the sequence. -/
theorem RoundsBy.lt_iff {p : Nat} (hp : p % 2 = 1) : p < n ↔ Passes g rm neg a p := by
  obtain ⟨hlow, hhigh, hn⟩ := h
  rcases Nat.lt_trichotomy s p with hs | rfl | hs
  · exact iff_of_false (by omega) (not_passes_of_lt hg (hhigh.trans_le (hg.monotone hs)))
  · have hup : StepsUp g rm neg a s ↔ Passes g rm neg a s := by
      cases rm with
      | rn => simp only [StepsUp, Passes, hp, and_true, le_iff_lt_or_eq, eq_comm]
      | rz => simp only [StepsUp, Passes]; exact iff_of_false id (by linarith)
      | ru => cases neg <;> simp [StepsUp, Passes, hhigh, lt_iff_le_and_ne, hlow, eq_comm]
      | rd => cases neg <;> simp [StepsUp, Passes, hhigh, lt_iff_le_and_ne, hlow, eq_comm]
    rw [← hup]
    obtain ⟨hu, rfl⟩ | ⟨hu, rfl⟩ := hn
    · exact iff_of_true (by omega) hu
    · exact iff_of_false (by omega) hu
  · exact iff_of_true (by omega) (passes_of_le hg ((hg.monotone hs).trans hlow))

end

/-- The nearest value of the sequence, and that its place is even in a tie. -/
theorem RoundsBy.nearest (hg : StrictMono g) (h : RoundsBy g .rn neg a s n) (j : Nat) :
    |a - g n| ≤ |a - g j| ∧ (|a - g n| = |a - g j| → j ≠ n → n % 2 = 0) := by
  obtain ⟨hlow, hhigh, hn⟩ := h
  rcases Nat.lt_or_ge s j with hj | hj
  · have hgj : g (s + 1) ≤ g j := hg.monotone hj
    rw [abs_of_nonpos (by linarith : a - g j ≤ 0)]
    obtain ⟨hup, rfl⟩ | ⟨hdown, rfl⟩ := hn
    · rw [abs_of_nonpos (by linarith)]
      refine ⟨by linarith, fun htie hne => ?_⟩
      exact absurd (hg.injective (by linarith : g j = g (s + 1))) hne
    · have hmid : a ≤ (g n + g (n + 1)) / 2 := le_of_not_gt fun h => hdown (.inl h)
      rw [abs_of_nonneg (by linarith)]
      refine ⟨by linarith, fun htie _ => ?_⟩
      by_contra hodd
      exact hdown (.inr ⟨by linarith, by omega⟩)
  · have hgj : g j ≤ g s := hg.monotone hj
    rw [abs_of_nonneg (by linarith : 0 ≤ a - g j)]
    obtain ⟨hup, rfl⟩ | ⟨hdown, rfl⟩ := hn
    · have hmid : (g s + g (s + 1)) / 2 ≤ a := by rcases hup with h | ⟨h, -⟩ <;> linarith
      rw [abs_of_nonpos (by linarith)]
      refine ⟨by linarith, fun htie _ => ?_⟩
      rcases hup with h | ⟨-, hodd⟩
      · linarith
      · omega
    · rw [abs_of_nonneg (by linarith)]
      refine ⟨by linarith, fun htie hne => ?_⟩
      exact absurd (hg.injective (by linarith : g j = g n)) hne

/-- Towards zero: the largest value at or below. -/
theorem RoundsBy.down (hg : StrictMono g) (h : RoundsBy g rm neg a s n)
    (hmode : rm = .rz ∨ (rm = .ru ∧ neg = true) ∨ (rm = .rd ∧ neg = false)) : g n ≤ a ∧ ∀ j, g j ≤ a → g j ≤ g n := by
  obtain ⟨hlow, hhigh, hn⟩ := h
  have hdown : ¬StepsUp g rm neg a s := by
    rcases hmode with rfl | ⟨rfl, rfl⟩ | ⟨rfl, rfl⟩ <;> simp [StepsUp]
  obtain ⟨hup, -⟩ | ⟨-, rfl⟩ := hn
  · exact absurd hup hdown
  · exact ⟨hlow, fun j hj => hg.monotone (Nat.lt_succ_iff.mp (hg.lt_iff_lt.mp (hj.trans_lt hhigh)))⟩

/-- Away from zero: the smallest value at or above. -/
theorem RoundsBy.up (hg : StrictMono g) (h : RoundsBy g rm neg a s n)
    (hmode : (rm = .ru ∧ neg = false) ∨ (rm = .rd ∧ neg = true)) : a ≤ g n ∧ ∀ j, a ≤ g j → g n ≤ g j := by
  obtain ⟨hlow, hhigh, hn⟩ := h
  have hup : StepsUp g rm neg a s ↔ a ≠ g s := by
    rcases hmode with ⟨rfl, rfl⟩ | ⟨rfl, rfl⟩ <;> simp [StepsUp]
  rw [hup] at hn
  obtain ⟨hx, rfl⟩ | ⟨hx, rfl⟩ := hn
  · have hlt := lt_of_le_of_ne hlow (Ne.symm hx)
    exact ⟨hhigh.le, fun j hj => hg.monotone (hg.lt_iff_lt.mp (hlt.trans_le hj))⟩
  · rw [not_not.mp hx]
    exact ⟨le_rfl, fun j hj => hj⟩

end Sys2Proof.Proofs.Formats
end

section
/-!
SUPPORT. The magnitudes of an IEEE format in the order of their encodings (R48), and what `Round` of the model makes of one (R57).
-/
namespace Sys2Proof.Proofs.Formats
open Sys2Proof Sys2Proof.Machine Sys2Proof.Claims

/-! ## Magnitudes in the order of their encodings -/

/-- The value of the encoding of number B with fb fraction bits, the smallest one above zero being 2^qmin; the exponent has no
upper bound. -/
noncomputable def magAt (fb : Nat) (qmin : Int) (B : Nat) : ℝ :=
  (B - (B / 2 ^ fb - 1) * 2 ^ fb : ℕ) * 2 ^ (((B / 2 ^ fb - 1 : ℕ) : ℤ) + qmin)

section
variable (fb : Nat) (qmin : Int)

/-- n quanta of the k-th binade. -/
theorem magAt_index {k n : Nat} (hn : n ≤ 2 ^ (fb + 1)) (hk : k = 0 ∨ 2 ^ fb ≤ n) :
    magAt fb qmin (k * 2 ^ fb + n) = n * 2 ^ ((k : ℤ) + qmin) := by
  have hpos : 0 < 2 ^ fb := by positivity
  rcases Nat.lt_or_ge n (2 ^ fb) with hsub | hnorm
  · obtain rfl : k = 0 := by omega
    have hdiv : (0 * 2 ^ fb + n) / 2 ^ fb - 1 = 0 := by rw [zero_mul, zero_add, Nat.div_eq_of_lt hsub]
    rw [magAt, hdiv]
    simp
  · rcases Nat.lt_or_ge n (2 ^ (fb + 1)) with hlt | hge
    · have hdiv : (k * 2 ^ fb + n) / 2 ^ fb - 1 = k := by
        have hone : n / 2 ^ fb = 1 := Nat.div_eq_of_lt_le (by omega) (by rw [pow_succ] at hlt; omega)
        rw [Nat.mul_comm, Nat.mul_add_div hpos, hone, Nat.add_sub_cancel]
      rw [magAt, hdiv, Nat.add_sub_cancel_left]
    · obtain rfl : n = 2 ^ fb * 2 := by rw [pow_succ] at hge hn; omega
      have hdiv : (k * 2 ^ fb + 2 ^ fb * 2) / 2 ^ fb - 1 = k + 1 := by
        rw [Nat.mul_comm k, ← Nat.mul_add, Nat.mul_div_cancel_left _ hpos, Nat.add_sub_assoc (by decide)]
      have hsig : k * 2 ^ fb + 2 ^ fb * 2 - (k + 1) * 2 ^ fb = 2 ^ fb := by
        rw [Nat.add_mul, Nat.one_mul]; omega
      rw [magAt, hdiv, hsig]
      push_cast
      rw [show (k : ℤ) + 1 + qmin = k + qmin + 1 by ring, zpow_add_one₀ two_ne_zero]
      ring

/-- Every number is some quanta of a binade. -/
theorem index_split (B : Nat) : ∃ k n, B = k * 2 ^ fb + n ∧ n < 2 ^ (fb + 1) ∧ (k = 0 ∨ 2 ^ fb ≤ n) := by
  have hdiv := Nat.div_add_mod' B (2 ^ fb)
  have hmod := Nat.mod_lt B (show 0 < 2 ^ fb by positivity)
  have hpow := pow_succ 2 fb
  cases hk : B / 2 ^ fb with
  | zero =>
    rw [hk] at hdiv
    exact ⟨0, B, by simp, by omega, .inl rfl⟩
  | succ k =>
    rw [hk, Nat.add_mul, Nat.one_mul] at hdiv
    exact ⟨k, 2 ^ fb + B % 2 ^ fb, by omega, by omega, .inr (by omega)⟩

theorem magAt_strictMono : StrictMono (magAt fb qmin) := by
  refine strictMono_nat_of_lt_succ fun B => ?_
  obtain ⟨k, n, rfl, hlt, hk⟩ := index_split fb B
  have hQ : (0 : ℝ) < 2 ^ ((k : ℤ) + qmin) := by positivity
  rw [magAt_index fb qmin hlt.le hk, Nat.add_assoc, magAt_index fb qmin (n := n + 1) hlt (by omega)]
  push_cast
  linarith

@[simp] theorem magAt_zero : magAt fb qmin 0 = 0 := by simp [magAt]

theorem magAt_nonneg (B : Nat) : 0 ≤ magAt fb qmin B := by
  rw [← magAt_zero fb qmin]
  exact (magAt_strictMono fb qmin).monotone (Nat.zero_le B)

end

/-! ## `Round` -/

/-- The binade of a magnitude. -/
theorem log2_bounds {M : Nat} (hM : M ≠ 0) {e : Int} {st : Bool} {a : ℝ} (ha : IsMagnitude M e st a) :
    (2 : ℝ) ^ ((M.log2 : ℤ) + e) ≤ a ∧ a < 2 ^ ((M.log2 : ℤ) + e + 1) := by
  have he : (0 : ℝ) < 2 ^ e := by positivity
  have hlow : ((2 : ℝ) ^ (M.log2 : ℤ)) ≤ M := by
    rw [zpow_natCast]; exact_mod_cast Nat.log2_self_le hM
  have hhigh : (M : ℝ) + 1 ≤ 2 ^ ((M.log2 : ℤ) + 1) := by
    have : M + 1 ≤ 2 ^ (M.log2 + 1) := Nat.lt_log2_self
    exact_mod_cast this
  have hscaled : (2 : ℝ) ^ ((M.log2 : ℤ) + e) ≤ M * 2 ^ e ∧ (M + 1 : ℝ) * 2 ^ e ≤ 2 ^ ((M.log2 : ℤ) + e + 1) := by
    rw [zpow_add₀ two_ne_zero, show (M.log2 : ℤ) + e + 1 = M.log2 + 1 + e by ring, zpow_add₀ two_ne_zero (_ + 1)]
    exact ⟨mul_le_mul_of_nonneg_right hlow he.le, mul_le_mul_of_nonneg_right hhigh he.le⟩
  cases st with
  | false =>
    obtain rfl : a = M * 2 ^ e := ha
    exact ⟨hscaled.1, by linarith [hscaled.2]⟩
  | true =>
    obtain ⟨h1, h2⟩ : (M : ℝ) * 2 ^ e < a ∧ a < (M + 1 : ℝ) * 2 ^ e := ha
    exact ⟨hscaled.1.trans h1.le, h2.trans_le hscaled.2⟩

/-- The exponent of the smallest value of a format above zero. -/
abbrev minExp (f : Fmt) : Int := 1 - (expBias f : Int) - fracBits f

/-- The quantum at which `Round` cuts a magnitude whose binade is 2^top. -/
def roundQ (f : Fmt) (top : Int) : Int := if top - fracBits f < minExp f then minExp f else top - fracBits f

/-- What an overflow delivers: infinity or the largest finite value. -/
def overflowBits (f : Fmt) (rm : RM) (neg : Bool) : Nat :=
  if (match rm with | .rn => true | .rz => false | .ru => !neg | .rd => neg) then infBits f else infBits f - 1

/-- Tininess after rounding, as `Round` finds it. -/
def roundTiny (f : Fmt) (rm : RM) (neg : Bool) (M : Nat) (e : Int) (st : Bool) : Bool :=
  if 1 - (expBias f : Int) ≤ (M.log2 : Int) + e then false
  else if (M.log2 : Int) + e < 1 - (expBias f : Int) - 1 then true
  else (roundAt rm neg M e ((M.log2 : Int) + e - fracBits f) st).1 < 2 ^ (fracBits f + 1)

theorem infBits_le_iff {f : Fmt} {k n : Nat} (hn : n < 2 ^ fracBits f) : infBits f ≤ k * 2 ^ fracBits f + n ↔ 2 ^ expBits f - 1 ≤ k := by
  rw [infBits]
  constructor
  · intro h
    by_contra hlt
    have : (k + 1) * 2 ^ fracBits f ≤ (2 ^ expBits f - 1) * 2 ^ fracBits f := Nat.mul_le_mul_right _ (by omega)
    rw [Nat.add_mul, Nat.one_mul] at this
    omega
  · intro h
    exact (Nat.mul_le_mul_right _ h).trans (Nat.le_add_right _ _)

/-- The encoding that `Round` puts together: that of the k-th binade and n quanta, or that of an overflow. -/
theorem roundFin_eq {f : Fmt} {rm : RM} {neg : Bool} {M : Nat} {e : Int} {st : Bool} (hM : M ≠ 0) {k n : Nat} {inexact : Bool}
    (hq : roundQ f ((M.log2 : Int) + e) = minExp f + k)
    (hround : roundAt rm neg M e (minExp f + k) st = (n, inexact)) (hn : n ≤ 2 ^ (fracBits f + 1))
    (hk : k = 0 ∨ 2 ^ fracBits f ≤ n) : roundFin f rm neg M e st =
      if infBits f ≤ k * 2 ^ fracBits f + n then (signBit f neg + overflowBits f rm neg, evFlags (flagOF ||| flagNX))
      else (signBit f neg + (k * 2 ^ fracBits f + n),
        evAnd (evIf inexact flagNX) (evIf (inexact && roundTiny f rm neg M e st) flagUF)) := by
  have hM' : (M = 0 && !st) = false := by simp [hM]
  have hquantum : (if (M.log2 : Int) + e - fracBits f < 1 - (expBias f : Int) - fracBits f then 1 - (expBias f : Int) - fracBits f
      else (M.log2 : Int) + e - fracBits f) = minExp f + k := hq
  have hP : 0 < 2 ^ fracBits f := by positivity
  have hpow := pow_succ 2 (fracBits f)
  have hE : 1 < 2 ^ expBits f := Nat.one_lt_two_pow (by cases f <;> decide)
  unfold roundFin
  simp only [hM', Bool.false_eq_true, if_false, hquantum, hround]
  by_cases hcarry : n = 2 ^ (fracBits f + 1)
  · have hex : (if 2 ^ fracBits f < 2 ^ fracBits f then 0 else minExp f + k + 1 - (1 - (expBias f : Int) - fracBits f) + 1) =
        ((k + 2 : ℕ) : ℤ) := by rw [if_neg (lt_irrefl _), minExp]; push_cast; ring
    have hB : k * 2 ^ fracBits f + n = (k + 2) * 2 ^ fracBits f + 0 := by rw [hcarry, hpow]; ring
    have hcond : infBits f ≤ k * 2 ^ fracBits f + n ↔ ((2 ^ expBits f - 1 : ℕ) : ℤ) ≤ ((k + 2 : ℕ) : ℤ) := by
      rw [hB, infBits_le_iff hP, Int.ofNat_le]
    have hbody : (if ((k + 2 : ℕ) : ℤ) = 0 then 2 ^ fracBits f else
        (((k + 2 : ℕ) : ℤ)).toNat * 2 ^ fracBits f + (2 ^ fracBits f - 2 ^ fracBits f)) = k * 2 ^ fracBits f + n := by
      rw [if_neg (by omega), Int.toNat_natCast, Nat.sub_self, hB]
    simp only [if_pos hcarry, hex, hbody, hcond]
    rfl
  · by_cases hsub : n < 2 ^ fracBits f
    · obtain rfl : k = 0 := by omega
      have hcond : infBits f ≤ 0 * 2 ^ fracBits f + n ↔ ((2 ^ expBits f - 1 : ℕ) : ℤ) ≤ 0 := by
        rw [infBits_le_iff hsub]; omega
      have hbody : n = 0 * 2 ^ fracBits f + n := by omega
      simp only [if_neg hcarry, if_pos hsub, if_true, hcond]
      rw [← hbody]
      rfl
    · have hex : (minExp f + k - (1 - (expBias f : Int) - fracBits f) + 1) = ((k + 1 : ℕ) : ℤ) := by rw [minExp]; push_cast; ring
      have hB : k * 2 ^ fracBits f + n = (k + 1) * 2 ^ fracBits f + (n - 2 ^ fracBits f) := by
        rw [Nat.add_mul, Nat.one_mul]; omega
      have hcond : infBits f ≤ k * 2 ^ fracBits f + n ↔ ((2 ^ expBits f - 1 : ℕ) : ℤ) ≤ ((k + 1 : ℕ) : ℤ) := by
        rw [hB, infBits_le_iff (by omega), Int.ofNat_le]
      have hbody : (if ((k + 1 : ℕ) : ℤ) = 0 then n else
          (((k + 1 : ℕ) : ℤ)).toNat * 2 ^ fracBits f + (n - 2 ^ fracBits f)) = k * 2 ^ fracBits f + n := by
        rw [if_neg (by omega), Int.toNat_natCast, hB]
      simp only [if_neg hcarry, if_neg hsub, hex, hbody, hcond]
      rfl

theorem natCast_strictMono : StrictMono (fun k : Nat => (k : ℝ)) := fun _ _ h => Nat.cast_lt.mpr h

/-- The last number below the significand 2^(fb + 1). -/
abbrev lastSig (f : Fmt) : Nat := 2 ^ (fracBits f + 1) - 1

theorem lastSig_odd (f : Fmt) : lastSig f % 2 = 1 := by rw [lastSig, pow_succ]; have := Nat.one_le_two_pow (n := fracBits f); omega

section
variable {f : Fmt} {rm : RM} {neg : Bool} {M : Nat} {e : Int} {st : Bool} {a : ℝ} (hM : M ≠ 0) (ha : IsMagnitude M e st a)
  (hst : st = true → fracBits f < M.log2)
include hM ha hst

/-- Tininess is found with the precision of the format below its smallest normal value (R57). -/
theorem roundTiny_iff : roundTiny f rm neg M e st = true ↔
    ¬Passes (fun k => (k : ℝ)) rm neg (a / 2 ^ (minExp f - 1)) (lastSig f) := by
  obtain ⟨hlow, hhigh⟩ := log2_bounds hM ha
  have hQ : (0 : ℝ) < 2 ^ (minExp f - 1) := by positivity
  have hlast : lastSig f + 1 = 2 ^ (fracBits f + 1) := Nat.sub_add_cancel Nat.one_le_two_pow
  rw [roundTiny]
  split
  next hnormal =>
    refine iff_of_false (by simp) (not_not.mpr (passes_of_le natCast_strictMono ?_))
    rw [hlast, le_div_iff₀ hQ, Nat.cast_pow, Nat.cast_ofNat, ← zpow_natCast, ← zpow_add₀ two_ne_zero]
    refine le_trans (zpow_le_zpow_right₀ one_le_two ?_) hlow
    push_cast; linarith
  next hsub =>
    split
    next hfar =>
      refine iff_of_true rfl (not_passes_of_lt natCast_strictMono ?_)
      have hsig : (2 : ℝ) ^ (fracBits f : ℤ) ≤ (lastSig f : ℕ) := by
        have : 2 ^ fracBits f ≤ lastSig f := by have := Nat.one_le_two_pow (n := fracBits f); rw [lastSig, pow_succ]; omega
        rw [zpow_natCast]; exact_mod_cast this
      rw [div_lt_iff₀ hQ]
      calc a < 2 ^ ((M.log2 : ℤ) + e + 1) := hhigh
        _ ≤ 2 ^ ((fracBits f : ℤ) + (minExp f - 1)) := zpow_le_zpow_right₀ one_le_two (by rw [minExp]; omega)
        _ = 2 ^ (fracBits f : ℤ) * 2 ^ (minExp f - 1) := zpow_add₀ two_ne_zero _ _
        _ ≤ lastSig f * 2 ^ (minExp f - 1) := mul_le_mul_of_nonneg_right hsig hQ.le
    next hnear =>
      have htop : (M.log2 : Int) + e - fracBits f = minExp f - 1 := by rw [minExp]; omega
      obtain ⟨s, hround, -⟩ := roundAt_spec (rm := rm) (neg := neg) (q := (M.log2 : Int) + e - fracBits f) ha
        (fun h => by have := hst h; omega)
      rw [decide_eq_true_iff, ← htop, ← hround.roundsBy_cast.lt_iff natCast_strictMono (lastSig_odd f)]
      omega

/-- `Round` of the model: the encoding that the mode takes among the magnitudes of the format, or an overflow. -/
theorem roundFin_spec : ∃ s n inexact, RoundsBy (magAt (fracBits f) (minExp f)) rm neg a s n ∧
    (inexact = true ↔ magAt (fracBits f) (minExp f) n ≠ a) ∧
    roundFin f rm neg M e st =
      if infBits f ≤ n then (signBit f neg + overflowBits f rm neg, evFlags (flagOF ||| flagNX))
      else (signBit f neg + n, evAnd (evIf inexact flagNX) (evIf (inexact && roundTiny f rm neg M e st) flagUF)) := by
  obtain ⟨hlow, hhigh⟩ := log2_bounds hM ha
  obtain ⟨k, hk⟩ : ∃ k : ℕ, roundQ f ((M.log2 : Int) + e) = minExp f + k := by
    refine ⟨(roundQ f ((M.log2 : Int) + e) - minExp f).toNat, ?_⟩
    rw [roundQ]; split <;> omega
  have hQ : (0 : ℝ) < 2 ^ (minExp f + k) := by positivity
  obtain ⟨s, hround, hinexact⟩ := roundAt_spec (rm := rm) (neg := neg) (q := minExp f + k) ha
    (fun h => by
      have := hst h
      rw [roundQ] at hk
      split at hk <;> omega)
  obtain ⟨hle, hlt, hn⟩ := id hround
  rw [le_div_iff₀ hQ] at hle
  rw [div_lt_iff₀ hQ] at hlt
  have hs : s < 2 ^ (fracBits f + 1) := by
    have hcast : (s : ℝ) * 2 ^ (minExp f + k) < 2 ^ ((fracBits f : ℤ) + 1) * 2 ^ (minExp f + k) := by
      rw [← zpow_add₀ two_ne_zero]
      refine (hle.trans_lt hhigh).trans_le (zpow_le_zpow_right₀ one_le_two ?_)
      rw [roundQ] at hk
      split at hk <;> omega
    have := lt_of_mul_lt_mul_right hcast hQ.le
    exact_mod_cast this
  have hks : k = 0 ∨ 2 ^ fracBits f ≤ s := by
    rcases Nat.eq_zero_or_pos k with h0 | hpos
    · exact .inl h0
    · have htop : (M.log2 : Int) + e = fracBits f + (minExp f + k) := by
        rw [roundQ] at hk
        split at hk <;> omega
      rw [htop, zpow_add₀ two_ne_zero] at hlow
      have hcast : (2 : ℝ) ^ (fracBits f : ℤ) < s + 1 := lt_of_mul_lt_mul_right (hlow.trans_lt hlt) hQ.le
      have : 2 ^ fracBits f < s + 1 := by rw [zpow_natCast] at hcast; exact_mod_cast hcast
      exact .inr (by omega)
  have hfb : 0 < fracBits f := by cases f <;> decide
  have hbase : k * 2 ^ fracBits f % 2 = 0 := by
    obtain ⟨j, hj⟩ : ∃ j, fracBits f = j + 1 := ⟨fracBits f - 1, by omega⟩
    rw [hj, pow_succ, ← Nat.mul_assoc, Nat.mul_mod_left]
  have hgs : magAt (fracBits f) (minExp f) (k * 2 ^ fracBits f + s) = s * 2 ^ (minExp f + k) := by
    rw [magAt_index _ _ hs.le hks, Int.add_comm]
  have hgs' : magAt (fracBits f) (minExp f) (k * 2 ^ fracBits f + s + 1) = (s + 1) * 2 ^ (minExp f + k) := by
    rw [Nat.add_assoc, magAt_index _ _ hs (by omega), Int.add_comm]; push_cast; rfl
  have hby := hround.roundsBy hQ hbase hgs hgs'
  have hn' := hn.imp And.right And.right
  refine ⟨_, _, (roundAt rm neg M e (minExp f + k) st).2, hby, ?_, roundFin_eq hM hk rfl (by omega) (by omega)⟩
  rw [hinexact, ne_eq, ne_eq, ← hby.exact_iff (magAt_strictMono _ _), hgs, div_eq_iff hQ.ne']

end

end Sys2Proof.Proofs.Formats
end

section
/-!
SUPPORT. `Round` of the model against `RoundsTo` (R57): encodings, their values, and the three conditions of a rounded value.
-/
namespace Sys2Proof.Proofs.Formats
open Sys2Proof Sys2Proof.Machine Sys2Proof.Claims

/-! ## The formats of F codes 0 to 2 -/

theorem cases_ieee {m : BitVec 3} (hm : m.toNat < 3) : m = 0 ∨ m = 1 ∨ m = 2 := by
  revert m; decide

/-- The sizes of a format, as the model and as the statements name them. -/
theorem format_sizes {m : BitVec 3} (hm : m.toNat < 3) : fracBits (fmtOfF m) = fMant m ∧ fmtBits (fmtOfF m) = fWidth m ∧
    expBits (fmtOfF m) = fWidth m - 1 - fMant m ∧ expBias (fmtOfF m) = fBias m := by
  rcases cases_ieee hm with rfl | rfl | rfl <;> decide

theorem format_bounds {m : BitVec 3} (hm : m.toNat < 3) : 1 ≤ fMant m ∧ fMant m + 1 < fWidth m ∧ 1 ≤ fBias m ∧
    2 ^ (fWidth m - 1 - fMant m) = 2 * fBias m + 2 := by
  rcases cases_ieee hm with rfl | rfl | rfl <;> decide

/-- The magnitudes of a format in the order of their encodings. -/
noncomputable abbrev fMagnitude (m : BitVec 3) (B : Nat) : ℝ := magAt (fMant m) (1 - (fBias m : ℤ) - fMant m) B

theorem fMagnitude_strictMono (m : BitVec 3) : StrictMono (fMagnitude m) := magAt_strictMono _ _

@[simp] theorem fMagnitude_zero (m : BitVec 3) : fMagnitude m 0 = 0 := magAt_zero _ _

theorem fMagnitude_nonneg (m : BitVec 3) (B : Nat) : 0 ≤ fMagnitude m B := magAt_nonneg _ _ B

theorem magAt_format {m : BitVec 3} (hm : m.toNat < 3) : magAt (fracBits (fmtOfF m)) (minExp (fmtOfF m)) = fMagnitude m := by
  obtain ⟨hfb, -, -, hbias⟩ := format_sizes hm
  rw [minExp, hfb, hbias]

/-- Number of the infinity among the encodings of a format. -/
abbrev fInf (m : BitVec 3) : Nat := (2 ^ (fWidth m - 1 - fMant m) - 1) * 2 ^ fMant m

theorem infBits_eq {m : BitVec 3} (hm : m.toNat < 3) : infBits (fmtOfF m) = fInf m := by
  obtain ⟨hfb, -, heb, -⟩ := format_sizes hm
  rw [infBits, hfb, heb]

section
variable {m : BitVec 3} (hm : m.toNat < 3)
include hm

theorem two_pow_width : 2 ^ (fWidth m - 1) = 2 ^ (fWidth m - 1 - fMant m) * 2 ^ fMant m := by
  obtain ⟨-, hw, -⟩ := format_bounds hm
  rw [← pow_add]; congr 1; omega

theorem fExp_eq (x : Nat) : fExp m x = fMag m x / 2 ^ fMant m := by
  rw [fExp, fMag, two_pow_width hm, Nat.mul_comm, Nat.mod_mul_right_div_self]

theorem fFrac_eq (x : Nat) : fFrac m x = fMag m x % 2 ^ fMant m := by
  rw [fFrac, fMag, two_pow_width hm, Nat.mul_comm, Nat.mod_mul_right_mod]

/-- The value of an encoding: its sign, and the magnitude of its number. -/
theorem valueOf_eq (x : Nat) : (valueOf m x : ℝ) = signed (decide (fNeg m x)) (fMagnitude m (fMag m x)) := by
  have hmag : (((if fExp m x = 0 then 0 else 2 ^ fMant m) + fFrac m x : ℕ) : ℝ) *
      2 ^ ((max (fExp m x) 1 : ℤ) - fBias m - fMant m) = fMagnitude m (fMag m x) := by
    have hdiv := Nat.div_add_mod' (fMag m x) (2 ^ fMant m)
    rw [fMagnitude, magAt, fExp_eq hm, fFrac_eq hm]
    cases hk : fMag m x / 2 ^ fMant m with
    | zero =>
      rw [hk] at hdiv
      have hsig : fMag m x % 2 ^ fMant m = fMag m x := by omega
      rw [hsig]
      simp
    | succ k =>
      rw [hk, Nat.add_mul, Nat.one_mul] at hdiv
      have hsig : fMag m x - (k + 1 - 1) * 2 ^ fMant m = 2 ^ fMant m + fMag m x % 2 ^ fMant m := by
        rw [Nat.add_sub_cancel]; omega
      have hexp : (max ((k + 1 : ℕ) : ℤ) 1 : ℤ) - fBias m - fMant m = ((k + 1 - 1 : ℕ) : ℤ) + (1 - fBias m - fMant m) := by
        rw [max_eq_left (by omega)]; push_cast; ring
      rw [if_neg (by omega), hsig, hexp]
  rw [← hmag, valueOf, Rat.cast_mul, Rat.cast_mul, Rat.cast_natCast, Rat.cast_zpow, Rat.cast_ofNat, mul_assoc]
  by_cases hneg : fNeg m x
  · rw [if_pos hneg, signed, if_pos (decide_eq_true hneg), Rat.cast_neg, Rat.cast_one, neg_one_mul]
  · rw [if_neg hneg, signed, if_neg (mt of_decide_eq_true hneg), Rat.cast_one, one_mul]

theorem finite_iff (x : Nat) : Claims.Finite m x ↔ x < 2 ^ fWidth m ∧ fMag m x < fInf m := by
  have hpow := two_pow_width hm
  have hmag : fMag m x < 2 ^ (fWidth m - 1) := Nat.mod_lt _ (by positivity)
  have hexp : fExp m x < 2 ^ (fWidth m - 1 - fMant m) := Nat.mod_lt _ (by positivity)
  rw [Claims.Finite, ExpOnes, fInf, ← Nat.div_lt_iff_lt_mul (by positivity), ← fExp_eq hm]
  refine and_congr_right fun _ => ?_
  omega

/-- The encoding of a sign and a number. -/
theorem encoding {neg : Bool} {n : Nat} (hn : n < 2 ^ (fWidth m - 1)) : signBit (fmtOfF m) neg + n < 2 ^ fWidth m ∧
    fMag m (signBit (fmtOfF m) neg + n) = n ∧ (fNeg m (signBit (fmtOfF m) neg + n) ↔ neg = true) := by
  obtain ⟨-, hw, -⟩ := format_bounds hm
  obtain ⟨-, hbits, -⟩ := format_sizes hm
  have hpow : 2 ^ fWidth m = 2 ^ (fWidth m - 1) * 2 := by rw [← pow_succ]; congr 1; omega
  rw [signBit, hbits, fNeg, fMag, hpow]
  cases neg with
  | false =>
    simp only [Bool.false_eq_true, if_false, zero_add]
    rw [Nat.mod_eq_of_lt hn, Nat.div_eq_of_lt hn]
    exact ⟨by omega, rfl, by simp⟩
  | true =>
    simp only [if_true, iff_true]
    rw [Nat.add_mod_left, Nat.mod_eq_of_lt hn, Nat.add_div_left _ (by positivity), Nat.div_eq_of_lt hn]
    omega

theorem fInf_pos : 0 < fInf m := by
  obtain ⟨-, -, -, heb⟩ := format_bounds hm
  exact Nat.mul_pos (by omega) (by positivity)

theorem fInf_pred_odd : (fInf m - 1) % 2 = 1 := by
  obtain ⟨hfb, -⟩ := format_bounds hm
  obtain ⟨j, hj⟩ : ∃ j, fMant m = j + 1 := ⟨fMant m - 1, by omega⟩
  have hpos := fInf_pos hm
  have : fInf m % 2 = 0 := by rw [fInf, hj, pow_succ, ← Nat.mul_assoc, Nat.mul_mod_left]
  omega

theorem fInf_lt : fInf m < 2 ^ (fWidth m - 1) := by
  have hfb : 0 < 2 ^ fMant m := by positivity
  rw [two_pow_width hm, fInf]
  exact Nat.mul_lt_mul_of_pos_right (Nat.sub_lt (by positivity) one_pos) hfb

theorem finite_encoding {neg : Bool} {n : Nat} (hn : n < fInf m) : Claims.Finite m (signBit (fmtOfF m) neg + n) ∧
    (valueOf m (signBit (fmtOfF m) neg + n) : ℝ) = signed neg (fMagnitude m n) := by
  obtain ⟨hlt, hmag, hneg⟩ := encoding hm (neg := neg) (hn.trans (fInf_lt hm))
  rw [finite_iff hm, valueOf_eq hm, hmag]
  refine ⟨⟨hlt, hn⟩, ?_⟩
  cases neg <;> simp [hneg, signed]

/-- The largest finite value, and the one past it. -/
theorem fMagnitude_top : fMagnitude m (fInf m) = 2 ^ (fBias m + 1) ∧
    fMagnitude m (fInf m - 1) = 2 ^ (fBias m + 1) - 2 ^ (fBias m + 1) / 2 ^ (fMant m + 1) := by
  obtain ⟨-, -, hbias, heb⟩ := format_bounds hm
  have hfb := Nat.one_le_two_pow (n := fMant m)
  have htop : fInf m = 2 * fBias m * 2 ^ fMant m + 2 ^ fMant m := by
    rw [fInf, heb, show 2 * fBias m + 2 - 1 = 2 * fBias m + 1 by omega]; ring
  have hlast : fInf m - 1 = (2 * fBias m - 1) * 2 ^ fMant m + (2 ^ (fMant m + 1) - 1) := by
    rw [htop, Nat.sub_mul, pow_succ, Nat.one_mul]
    have : 2 ^ fMant m ≤ 2 * fBias m * 2 ^ fMant m := Nat.le_mul_of_pos_left _ (by omega)
    omega
  constructor
  · rw [htop, fMagnitude, magAt_index _ _ (by rw [pow_succ]; omega) (.inr le_rfl), Nat.cast_pow, Nat.cast_ofNat,
      ← zpow_natCast, ← zpow_add₀ two_ne_zero, ← zpow_natCast]
    congr 1
    push_cast; ring
  · rw [hlast, fMagnitude, magAt_index _ _ (by omega) (.inr (by rw [pow_succ]; omega)), Nat.cast_sub Nat.one_le_two_pow,
      Nat.cast_pow, Nat.cast_ofNat, sub_mul, ← zpow_natCast, ← zpow_add₀ two_ne_zero, ← zpow_natCast, ← zpow_sub₀ two_ne_zero,
      Nat.cast_one, one_mul, Nat.cast_sub (by omega)]
    congr 2 <;> push_cast <;> ring

end

end Sys2Proof.Proofs.Formats
end

section
/-!
SUPPORT. The conditions of `RoundsTo` (R57), one after the other, of an encoding that a mode takes among those of its format.
-/
namespace Sys2Proof.Proofs.Formats
open Sys2Proof Sys2Proof.Machine Sys2Proof.Claims

/-! ## Overflow and tininess -/

/-- Past the last significand of a binade, in the words of R57: T is the next power of two. -/
theorem passes_iff {g : Nat → ℝ} {rm : BitVec 2} {neg : Bool} {a T : ℝ} {fb p : Nat} (ha : 0 < a) (hT : 0 < T)
    (hlast : g p = T - T / 2 ^ (fb + 1)) (htop : g (p + 1) = T) : Passes g (rmOf rm) neg a p ↔
      if rm = 0 then T - T / 2 ^ (fb + 2) ≤ |signed neg a|
      else if rm = 1 then T ≤ |signed neg a|
      else if rm = 2 then T - T / 2 ^ (fb + 1) < signed neg a ∨ signed neg a ≤ -T
      else T ≤ signed neg a ∨ signed neg a < -(T - T / 2 ^ (fb + 1)) := by
  have hpos : 0 ≤ g p := by
    rw [hlast, sub_nonneg]
    exact div_le_self hT.le (one_le_pow₀ one_le_two)
  have hmid : (g p + g (p + 1)) / 2 = T - T / 2 ^ (fb + 2) := by
    rw [hlast, htop, pow_succ _ (fb + 1)]
    field_simp
    ring
  rw [abs_signed neg ha.le, ← hmid, ← hlast, ← htop]
  rw [← htop] at hT
  rcases cases_rm rm with ⟨rfl, hrm⟩ | ⟨rfl, hrm⟩ | ⟨rfl, hrm⟩ | ⟨rfl, hrm⟩ <;> rw [hrm]
  · rfl
  · rfl
  · cases neg with
    | false => exact ⟨.inl, fun h => h.resolve_right fun (h : a ≤ -g (p + 1)) => by linarith⟩
    | true => exact ⟨fun h => .inr (neg_le_neg h), fun h => neg_le_neg_iff.mp (h.resolve_left fun (h : g p < -a) => by linarith)⟩
  · cases neg with
    | false => exact ⟨.inl, fun h => h.resolve_right fun (h : a < -g p) => by linarith⟩
    | true => exact ⟨fun h => .inr (neg_lt_neg h), fun h => neg_lt_neg_iff.mp (h.resolve_left fun (h : g (p + 1) ≤ -a) => by linarith)⟩

theorem passes_div_iff {g : Nat → ℝ} {rm : RM} {neg : Bool} {a Q : ℝ} (hQ : 0 < Q) (p : Nat) :
    Passes g rm neg (a / Q) p ↔ Passes (fun k => g k * Q) rm neg a p := by
  have hmid : (g p * Q + g (p + 1) * Q) / 2 = (g p + g (p + 1)) / 2 * Q := by ring
  cases rm with
  | rn => simp only [Passes]; rw [le_div_iff₀ hQ, hmid]
  | rz => simp only [Passes]; rw [le_div_iff₀ hQ]
  | ru => simp only [Passes]; rw [le_div_iff₀ hQ, lt_div_iff₀ hQ]
  | rd => simp only [Passes]; rw [le_div_iff₀ hQ, lt_div_iff₀ hQ]

section
variable {m : BitVec 3} (hm : m.toNat < 3) {rm : BitVec 2} {neg : Bool} {a : ℝ} (ha : 0 < a)
include hm ha

theorem overflows_iff : Overflows m rm (signed neg a) ↔ Passes (fMagnitude m) (rmOf rm) neg a (fInf m - 1) := by
  obtain ⟨htop, hlast⟩ := fMagnitude_top hm
  have hpos := fInf_pos hm
  rw [passes_iff ha (by positivity) hlast (by rw [Nat.sub_add_cancel hpos, htop])]
  rfl

theorem tiny_iff : Tiny m rm (signed neg a) ↔
    ¬Passes (fun k => (k : ℝ)) (rmOf rm) neg (a / 2 ^ (minExp (fmtOfF m) - 1)) (lastSig (fmtOfF m)) := by
  obtain ⟨hfb, -, -, hbias⟩ := format_sizes hm
  have hQ : (0 : ℝ) < 2 ^ (minExp (fmtOfF m) - 1) := by positivity
  have hlow : (2 : ℝ) ^ (1 - (fBias m : ℤ)) = 2 ^ (fMant m + 1) * 2 ^ (minExp (fmtOfF m) - 1) := by
    rw [← zpow_natCast, ← zpow_add₀ two_ne_zero, minExp, hfb, hbias]
    congr 1
    push_cast; ring
  have hP : (2 : ℝ) ^ (fMant m + 1) ≠ 0 := by positivity
  have hsucc : lastSig (fmtOfF m) + 1 = 2 ^ (fMant m + 1) := by rw [lastSig, hfb, Nat.sub_add_cancel Nat.one_le_two_pow]
  have hlast : (lastSig (fmtOfF m) : ℝ) = 2 ^ (fMant m + 1) - 1 := by
    rw [eq_sub_iff_add_eq]; exact_mod_cast hsucc
  rw [passes_div_iff hQ, passes_iff (T := 2 ^ (1 - (fBias m : ℤ))) (fb := fMant m) ha (by positivity)
    (by rw [hlow, hlast, mul_div_cancel_left₀ _ hP]; ring) (by rw [hlow, hsucc]; push_cast; rfl)]
  rcases cases_rm rm with ⟨rfl, -⟩ | ⟨rfl, -⟩ | ⟨rfl, -⟩ | ⟨rfl, -⟩
  · exact not_le.symm
  · exact not_le.symm
  · exact ⟨fun ⟨h1, h2⟩ h => h.elim (not_lt.mpr h2) (not_le.mpr h1), fun h => ⟨not_le.mp fun h' => h (.inr h'), not_lt.mp fun h' => h (.inl h')⟩⟩
  · exact ⟨fun ⟨h1, h2⟩ h => h.elim (not_le.mpr h2) (not_lt.mpr h1), fun h => ⟨not_lt.mp fun h' => h (.inr h'), not_le.mp fun h' => h (.inl h')⟩⟩

end

/-! ## The encoding that is taken -/

theorem signed_neg_iff {neg : Bool} {a : ℝ} (ha : 0 < a) : signed neg a < 0 ↔ neg = true := by
  cases neg
  · exact iff_of_false (not_lt.mpr ha.le) (by simp)
  · exact iff_of_true (neg_neg_of_pos ha) rfl

theorem signed_injective (neg : Bool) {x y : ℝ} : signed neg x = signed neg y ↔ x = y := by
  cases neg
  · rfl
  · exact neg_inj

theorem abs_signed_sub_of_ne {n1 n2 : Bool} (h : n1 ≠ n2) {x y : ℝ} (hx : 0 ≤ x) (hy : 0 ≤ y) :
    |signed n1 x - signed n2 y| = x + y := by
  cases n1 <;> cases n2 <;> simp only [signed, if_true, if_false, Bool.false_eq_true, ne_eq, not_true] at h ⊢
  · rw [sub_neg_eq_add, abs_of_nonneg (by linarith)]
  · rw [abs_of_nonpos (by linarith)]; ring

theorem signed_true (x : ℝ) : signed true x = -x := rfl

theorem neg_signed (neg : Bool) (x : ℝ) : -signed neg x = signed (!neg) x := by
  cases neg
  · rfl
  · exact neg_neg x

/-- At or below a, of either sign: what holds of the magnitudes holds of the values. -/
theorem signed_le_of_down {neg : Bool} {a x y : ℝ} (hx : 0 ≤ x) (hy : 0 ≤ y) (h : y ≤ a → y ≤ x) (hle : signed neg y ≤ a) :
    signed neg y ≤ x := by
  cases neg
  · exact h hle
  · exact (neg_nonpos.mpr hy).trans hx

theorem le_signed_of_up {neg : Bool} {a x y : ℝ} (ha : 0 < a) (hy : 0 ≤ y) (h : a ≤ y → x ≤ y) (hle : a ≤ signed neg y) :
    x ≤ signed neg y := by
  cases neg
  · exact h hle
  · exact absurd (hle.trans (neg_nonpos.mpr hy)) (not_le.mpr ha)

section
variable {m : BitVec 3} (hm : m.toNat < 3) {rm : BitVec 2} {neg : Bool} {a : ℝ} {s n : Nat} (ha : 0 < a)
  (h : RoundsBy (fMagnitude m) (rmOf rm) neg a s n) (hn : n < fInf m)
include hm ha h hn

theorem nearest_even (hrm : rmOf rm = .rn) {z : Nat} :
    |signed neg a - valueOf m (signBit (fmtOfF m) neg + n)| ≤ |signed neg a - valueOf m z| ∧
    (|signed neg a - valueOf m (signBit (fmtOfF m) neg + n)| = |signed neg a - valueOf m z| →
      valueOf m z ≠ valueOf m (signBit (fmtOfF m) neg + n) → (signBit (fmtOfF m) neg + n) % 2 = 0) := by
  have hmono := fMagnitude_strictMono m
  have hzero := fMagnitude_zero m
  have hgj := fMagnitude_nonneg m (fMag m z)
  obtain ⟨-, hval⟩ := finite_encoding hm (neg := neg) hn
  obtain ⟨-, hbits, -⟩ := format_sizes hm
  obtain ⟨-, hw, -⟩ := format_bounds hm
  have hparity : (signBit (fmtOfF m) neg + n) % 2 = n % 2 := by
    have : signBit (fmtOfF m) neg % 2 = 0 := by
      obtain ⟨j, hj⟩ : ∃ j, fWidth m - 1 = j + 1 := ⟨fWidth m - 2, by omega⟩
      rw [signBit, hbits, hj, pow_succ]
      split <;> omega
    omega
  have hne : valueOf m z ≠ valueOf m (signBit (fmtOfF m) neg + n) ↔
      (valueOf m z : ℝ) ≠ valueOf m (signBit (fmtOfF m) neg + n) := by norm_cast
  rw [hne, hparity, hval, valueOf_eq hm z, abs_signed_sub]
  rw [hrm] at h
  by_cases hz : decide (fNeg m z) = neg
  · obtain ⟨hle, htie⟩ := h.nearest hmono (fMag m z)
    rw [hz, abs_signed_sub]
    exact ⟨hle, fun heq hne => htie heq fun hj => hne (by rw [hj])⟩
  · obtain ⟨hle, htie⟩ := h.nearest hmono 0
    rw [hzero, sub_zero, abs_of_pos ha] at hle htie
    rw [abs_signed_sub_of_ne (Ne.symm hz) ha.le hgj]
    refine ⟨by linarith, fun heq hne => ?_⟩
    have hj : fMagnitude m (fMag m z) = 0 := by linarith
    refine htie (by linarith) fun h0 => hne ?_
    rw [hj, ← h0, hzero]
    cases neg <;> cases decide (fNeg m z) <;> simp [signed]

theorem nearest_of_roundsBy : Nearest m rm (signed neg a) (signBit (fmtOfF m) neg + n) := by
  obtain ⟨hfinite, hval⟩ := finite_encoding hm (neg := neg) hn
  obtain ⟨-, -, hneg⟩ := encoding hm (neg := neg) (hn.trans (fInf_lt hm))
  have hdown := h.down (fMagnitude_strictMono m)
  have hup := h.up (fMagnitude_strictMono m)
  have hgn := fMagnitude_nonneg m n
  refine ⟨hfinite, by rw [hneg, signed_neg_iff ha], ?_⟩
  simp only [← Rat.cast_le (K := ℝ), Rat.cast_abs, hval, abs_signed neg ha.le, abs_signed neg hgn]
  rcases cases_rm rm with ⟨rfl, hrm⟩ | ⟨rfl, hrm⟩ | ⟨rfl, hrm⟩ | ⟨rfl, hrm⟩
  · rw [← hval]
    exact fun z _ => nearest_even hm ha h hn hrm
  · obtain ⟨hle, hmax⟩ := hdown (.inl hrm)
    refine ⟨hle, fun z _ hz => ?_⟩
    rw [valueOf_eq hm, abs_signed _ (fMagnitude_nonneg m _)] at hz ⊢
    exact hmax _ hz
  · cases neg with
    | false =>
      obtain ⟨hle, hmin⟩ := hup (.inl ⟨hrm, rfl⟩)
      exact ⟨hle, fun z _ => by rw [valueOf_eq hm]; exact le_signed_of_up ha (fMagnitude_nonneg m _) (hmin _)⟩
    | true =>
      obtain ⟨hle, hmax⟩ := hdown (.inr (.inl ⟨hrm, rfl⟩))
      exact ⟨neg_le_neg hle, fun z _ => by
        rw [valueOf_eq hm, signed_true, signed_true, neg_le, neg_le (a := fMagnitude m n), neg_signed]
        exact signed_le_of_down hgn (fMagnitude_nonneg m _) (hmax _)⟩
  · cases neg with
    | false =>
      obtain ⟨hle, hmax⟩ := hdown (.inr (.inr ⟨hrm, rfl⟩))
      exact ⟨hle, fun z _ => by rw [valueOf_eq hm]; exact signed_le_of_down hgn (fMagnitude_nonneg m _) (hmax _)⟩
    | true =>
      obtain ⟨hle, hmin⟩ := hup (.inr ⟨hrm, rfl⟩)
      exact ⟨neg_le_neg hle, fun z _ => by
        rw [valueOf_eq hm, signed_true, signed_true, le_neg, le_neg (b := fMagnitude m n), neg_signed]
        exact le_signed_of_up ha (fMagnitude_nonneg m _) (hmin _)⟩

/-- A value taken among the finite ones. -/
theorem roundsTo_of_roundsBy {flags : BitVec 8} (hexact : fMagnitude m n = a → flags = 0)
    (hflags : fMagnitude m n ≠ a → (Tiny m rm (signed neg a) → flags = flagNX ||| flagUF) ∧
      (¬Tiny m rm (signed neg a) → flags = flagNX)) : RoundsTo m rm (signed neg a) (signBit (fmtOfF m) neg + n) flags := by
  have hpos := fInf_pos hm
  have hover : ¬Overflows m rm (signed neg a) := by
    rw [overflows_iff hm ha, ← h.lt_iff (fMagnitude_strictMono m) (fInf_pred_odd hm)]
    omega
  obtain ⟨-, hval⟩ := finite_encoding hm (neg := neg) hn
  refine ⟨fun ho => absurd ho hover, fun _ => ⟨nearest_of_roundsBy hm ha h hn, ?_, ?_⟩⟩
  · rw [hval, signed_injective]; exact hexact
  · rw [hval, ne_eq, signed_injective]; exact hflags

end

/-! ## `Round` of the model -/

section
variable {m : BitVec 3} (hm : m.toNat < 3)
include hm

/-- An overflow of a sign delivers that sign's infinity, or the value before it. -/
theorem signBit_add_overflowBits (rm : BitVec 2) (neg : Bool) : signBit (fmtOfF m) neg + overflowBits (fmtOfF m) (rmOf rm) neg =
    infOf m (neg = true) - (if rm = 1 ∨ (if neg then rm = 2 else rm = 3) then 1 else 0) := by
  obtain ⟨-, hbits, -⟩ := format_sizes hm
  have hpos := fInf_pos hm
  unfold overflowBits
  rw [signBit, hbits, infBits_eq hm, show infOf m (neg = true) = zeroOf m (neg = true) + fInf m from rfl, zeroOf]
  generalize fInf m = inf at *
  generalize 2 ^ (fWidth m - 1) = top
  rcases cases_rm rm with ⟨rfl, hrm⟩ | ⟨rfl, hrm⟩ | ⟨rfl, hrm⟩ | ⟨rfl, hrm⟩ <;> rw [hrm] <;> cases neg <;> simp <;> omega

variable {rm : BitVec 2} {neg : Bool} {M : Nat} {e : Int} {st : Bool} {a : ℝ} (hM : M ≠ 0) (ha : IsMagnitude M e st a)
  (hst : st = true → fMant m < M.log2)
include hM ha hst

/-- `Round` of R57: the exact value, rounded once, with its flags. -/
theorem roundFin_roundsTo : RoundsTo m rm (signed neg a) (roundFin (fmtOfF m) (rmOf rm) neg M e st).1
      (roundFin (fmtOfF m) (rmOf rm) neg M e st).2.flags ∧ (roundFin (fmtOfF m) (rmOf rm) neg M e st).2.sat = 0 := by
  obtain ⟨hfb, -⟩ := format_sizes hm
  have hpos : 0 < a := lt_of_lt_of_le (by positivity) (log2_bounds hM ha).1
  rw [← hfb] at hst
  obtain ⟨s, n, inexact, hby, hinexact, hround⟩ := roundFin_spec (f := fmtOfF m) (rm := rmOf rm) (neg := neg) hM ha hst
  have htiny := (roundTiny_iff (rm := rmOf rm) (neg := neg) hM ha hst).trans (tiny_iff hm hpos).symm
  rw [magAt_format hm] at hby hinexact
  rw [hround, infBits_eq hm]
  by_cases hn : fInf m ≤ n
  · have hover : Overflows m rm (signed neg a) := by
      rw [overflows_iff hm hpos, ← hby.lt_iff (fMagnitude_strictMono m) (fInf_pred_odd hm)]
      have := fInf_pos hm
      omega
    rw [if_pos hn]
    refine ⟨⟨fun _ => ⟨rfl, fun hv => ?_, fun hv => ?_⟩, fun hnot => absurd hover hnot⟩, rfl⟩
    · obtain rfl : neg = false := by cases neg <;> simp_all [signed]; linarith
      exact signBit_add_overflowBits hm rm false
    · obtain rfl : neg = true := (signed_neg_iff hpos).mp hv
      exact signBit_add_overflowBits hm rm true
  · rw [if_neg hn]
    refine ⟨roundsTo_of_roundsBy hm hpos hby (not_le.mp hn) (fun hx => ?_) (fun hx => ⟨fun ht => ?_, fun ht => ?_⟩), ?_⟩
    · obtain rfl : inexact = false := by rw [← Bool.not_eq_true, hinexact]; exact not_not.mpr hx
      rw [Bool.false_and]
      rfl
    · rw [hinexact.mpr hx, htiny.mpr ht]; rfl
    · rw [hinexact.mpr hx, Bool.eq_false_iff.mpr (mt htiny.mp ht)]; rfl
    · cases inexact <;> cases roundTiny (fmtOfF m) (rmOf rm) neg M e st <;> rfl

end

end Sys2Proof.Proofs.Formats
end

section
/-!
SUPPORT. Exact values (R48): what a decoded encoding stands for, and `Round` of an exact value.
-/
namespace Sys2Proof.Proofs.Formats
open Sys2Proof Sys2Proof.Machine Sys2Proof.Claims

/-- The number that an exact value stands for; a NaN and an infinity stand for none. -/
noncomputable def exactOf : FVal → ℝ
  | .fin n M e => signed n (M * 2 ^ e)
  | _ => 0

/-- The significand and the exponent of a finite encoding (R48). -/
abbrev sigOf (m : BitVec 3) (x : Nat) : Nat := (if fExp m x = 0 then 0 else 2 ^ fMant m) + fFrac m x
abbrev expOf (m : BitVec 3) (x : Nat) : Int := max (fExp m x : ℤ) 1 - fBias m - fMant m

theorem exactOf_finite (m : BitVec 3) (x : Nat) :
    exactOf (.fin (decide (fNeg m x)) (sigOf m x) (expOf m x)) = valueOf m x := by
  rw [exactOf, valueOf, Rat.cast_mul, Rat.cast_mul, Rat.cast_natCast, Rat.cast_zpow, Rat.cast_ofNat, mul_assoc]
  by_cases hneg : fNeg m x
  · rw [if_pos hneg, signed, if_pos (decide_eq_true hneg), Rat.cast_neg, Rat.cast_one, neg_one_mul]
  · rw [if_neg hneg, signed, if_neg (mt of_decide_eq_true hneg), Rat.cast_one, one_mul]

section
variable {m : BitVec 3} (hm : m.toNat < 3)
include hm

omit hm in
theorem isInf_of_expOnes {x : Nat} (hones : ExpOnes m x) (h : ¬IsNaN m x) : IsInf m x :=
  ⟨hones, by_contra fun hfrac => h ⟨hones, hfrac⟩⟩

/-- What an encoding decodes to. -/
theorem ieeeDecode_eq (x : Nat) : ieeeDecode (fmtOfF m) x =
    if ExpOnes m x then
      if fFrac m x = 0 then .inf (decide (fNeg m x)) else .nan (decide (IsSignalling m x))
    else .fin (decide (fNeg m x)) (sigOf m x) (expOf m x) := by
  obtain ⟨hfb, hbits, heb, hbias⟩ := format_sizes hm
  obtain ⟨hfb1, -⟩ := format_bounds hm
  have hneg : x.testBit (fWidth m - 1) = decide (fNeg m x) := Nat.testBit_eq_decide_div_mod_eq
  have hexp : x >>> fMant m % 2 ^ (fWidth m - 1 - fMant m) = fExp m x := by rw [Nat.shiftRight_eq_div_pow]
  have hquiet : (x % 2 ^ fMant m).testBit (fMant m - 1) = decide (x / 2 ^ (fMant m - 1) % 2 = 1) := by
    rw [Nat.testBit_mod_two_pow, decide_eq_true (by omega), Bool.true_and, Nat.testBit_eq_decide_div_mod_eq]
  unfold ieeeDecode
  simp only [hfb, hbits, heb, hbias, hneg, hexp, hquiet]
  by_cases hones : fExp m x = 2 ^ (fWidth m - 1 - fMant m) - 1
  · rw [if_pos hones, if_pos hones]
    by_cases hfrac : fFrac m x = 0
    · rw [if_pos hfrac, if_pos hfrac]
    · rw [if_neg hfrac, if_neg hfrac]
      congr 1
      rw [← decide_not, decide_eq_decide]
      exact ⟨fun h => ⟨⟨hones, hfrac⟩, by omega⟩, fun ⟨_, h⟩ => by omega⟩
  · rw [if_neg hones, if_neg hones]
    by_cases hexp0 : fExp m x = 0
    · rw [if_pos hexp0, sigOf, if_pos hexp0, expOf, hexp0, zero_add]
      rfl
    · rw [if_neg hexp0, sigOf, if_neg hexp0, expOf, max_eq_left (by omega)]

theorem ieeeDecode_nan {x : Nat} (h : IsNaN m x) : ieeeDecode (fmtOfF m) x = .nan (decide (IsSignalling m x)) := by
  rw [ieeeDecode_eq hm, if_pos h.1, if_neg h.2]

theorem ieeeDecode_inf {x : Nat} (h : IsInf m x) : ieeeDecode (fmtOfF m) x = .inf (decide (fNeg m x)) := by
  rw [ieeeDecode_eq hm, if_pos h.1, if_pos h.2]

theorem ieeeDecode_fin {x : Nat} (h : ¬ExpOnes m x) :
    ieeeDecode (fmtOfF m) x = .fin (decide (fNeg m x)) (sigOf m x) (expOf m x) := by
  rw [ieeeDecode_eq hm, if_neg h]

/-- The bits above an encoding do not matter. -/
theorem ieeeDecode_mod (x : Nat) : ieeeDecode (fmtOfF m) (x % 2 ^ fWidth m) = ieeeDecode (fmtOfF m) x := by
  obtain ⟨hfb, hbits, heb, -⟩ := format_sizes hm
  obtain ⟨-, hw, -⟩ := format_bounds hm
  have hfrac : x % 2 ^ fWidth m % 2 ^ fMant m = x % 2 ^ fMant m := Nat.mod_mod_of_dvd _ (pow_dvd_pow 2 (by omega))
  have hsplit : 2 ^ fWidth m = 2 ^ fMant m * 2 ^ (fWidth m - fMant m) := by rw [← pow_add]; congr 1; omega
  have hexp : (x % 2 ^ fWidth m) >>> fMant m % 2 ^ (fWidth m - 1 - fMant m) = x >>> fMant m % 2 ^ (fWidth m - 1 - fMant m) := by
    rw [Nat.shiftRight_eq_div_pow, Nat.shiftRight_eq_div_pow, hsplit, Nat.mod_mul_right_div_self,
      Nat.mod_mod_of_dvd _ (pow_dvd_pow 2 (by omega))]
  have hneg : (x % 2 ^ fWidth m).testBit (fWidth m - 1) = x.testBit (fWidth m - 1) := by
    rw [Nat.testBit_mod_two_pow, decide_eq_true (by omega), Bool.true_and]
  unfold ieeeDecode
  simp only [hfb, hbits, heb, hfrac, hexp, hneg]

theorem sigOf_eq_zero_iff (x : Nat) : sigOf m x = 0 ↔ fMag m x = 0 := by
  have hdiv := Nat.div_add_mod' (fMag m x) (2 ^ fMant m)
  have hpos : 0 < 2 ^ fMant m := by positivity
  rw [sigOf, fExp_eq hm, fFrac_eq hm]
  split
  next h0 => rw [h0] at hdiv; omega
  next h0 =>
    refine iff_of_false (by omega) fun hz => h0 ?_
    rw [hz, Nat.zero_div]

/-- `Round` of a finite exact value that is not zero. -/
theorem roundVal_roundsTo {rm : BitVec 2} {neg : Bool} {M : Nat} {e : Int} (hM : M ≠ 0) :
    RoundsTo m rm (exactOf (.fin neg M e)) (roundVal (fmtOfF m) (rmOf rm) (.fin neg M e)).1
      (roundVal (fmtOfF m) (rmOf rm) (.fin neg M e)).2.flags ∧ (roundVal (fmtOfF m) (rmOf rm) (.fin neg M e)).2.sat = 0 :=
  roundFin_roundsTo hm hM (st := false) rfl (by simp)

theorem roundVal_zero (rm : RM) (neg : Bool) (e : Int) :
    roundVal (fmtOfF m) rm (.fin neg 0 e) = (zeroOf m (neg = true), evNone) := by
  obtain ⟨-, hbits, -⟩ := format_sizes hm
  have hzero : roundFin (fmtOfF m) rm neg 0 e false = (signBit (fmtOfF m) neg, evNone) := by
    unfold roundFin
    exact if_pos rfl
  rw [roundVal, hzero, signBit, hbits, zeroOf]

theorem roundVal_inf (rm : RM) (neg : Bool) : roundVal (fmtOfF m) rm (.inf neg) = (infOf m (neg = true), evNone) := by
  obtain ⟨-, hbits, -⟩ := format_sizes hm
  rw [roundVal, infBits_eq hm, signBit, hbits]
  rfl

theorem defaultNaN_eq : defaultNaN (fmtOfF m) = canonicalNaN m := by
  rcases cases_ieee hm with rfl | rfl | rfl <;> rfl

end

end Sys2Proof.Proofs.Formats
end

section
/-!
SUPPORT. The operations of R147 on exact values: sums, products, quotients and roots before their one rounding.
-/
namespace Sys2Proof.Proofs.Formats
open Sys2Proof Sys2Proof.Machine Sys2Proof.Claims

/-! ## Sums -/

/-- A magnitude brought to a smaller exponent keeps its value. -/
theorem shiftLeft_mul_zpow (M : Nat) {e c : Int} (h : c ≤ e) : ((M <<< (e - c).toNat : ℕ) : ℝ) * 2 ^ c = M * 2 ^ e := by
  rw [Nat.shiftLeft_eq, Nat.cast_mul, Nat.cast_pow, Nat.cast_ofNat, ← zpow_natCast, Int.toNat_of_nonneg (by omega), mul_assoc,
    ← zpow_add₀ two_ne_zero, sub_add_cancel]

/-- Two magnitudes brought to one exponent keep their values. -/
theorem alignPair_spec (m1 : Nat) (e1 : Int) (m2 : Nat) (e2 : Int) :
    ((alignPair m1 e1 m2 e2).1 : ℝ) * 2 ^ (alignPair m1 e1 m2 e2).2.2 = m1 * 2 ^ e1 ∧
    ((alignPair m1 e1 m2 e2).2.1 : ℝ) * 2 ^ (alignPair m1 e1 m2 e2).2.2 = m2 * 2 ^ e2 := by
  rw [alignPair]
  exact ⟨shiftLeft_mul_zpow _ (by split <;> omega), shiftLeft_mul_zpow _ (by split <;> omega)⟩

theorem signed_mul (neg : Bool) (x y : ℝ) : signed neg x * y = signed neg (x * y) := by
  cases neg
  · rfl
  · exact neg_mul x y

/-- The sum of two finite values is exact; the sign of an exact zero comes from the mode (R147). -/
theorem addFin_spec (rm : RM) (n1 : Bool) (m1 : Nat) (e1 : Int) (n2 : Bool) (m2 : Nat) (e2 : Int) :
    ∃ neg M e, addFin rm n1 m1 e1 n2 m2 e2 = .fin neg M e ∧
      exactOf (.fin neg M e) = exactOf (.fin n1 m1 e1) + exactOf (.fin n2 m2 e2) ∧
      (M = 0 → neg = if m1 = 0 && m2 = 0 && n1 == n2 then n1 else decide (rm = .rd)) := by
  obtain ⟨h1, h2⟩ := alignPair_spec m1 e1 m2 e2
  unfold addFin
  generalize alignPair m1 e1 m2 e2 = t at *
  obtain ⟨a, b, e⟩ := t
  dsimp only at h1 h2 ⊢
  have hsum : ((((if n1 then -(a : Int) else a) + (if n2 then -(b : Int) else b) : ℤ)) : ℝ) * 2 ^ e =
      exactOf (.fin n1 m1 e1) + exactOf (.fin n2 m2 e2) := by
    rw [exactOf, exactOf, ← h1, ← h2, ← signed_mul, ← signed_mul, ← add_mul]
    congr 1
    cases n1 <;> cases n2 <;> simp [signed]
  generalize (if n1 then -(a : Int) else a) + (if n2 then -(b : Int) else b) = z at *
  split
  next h0 =>
    subst h0
    refine ⟨_, _, _, rfl, ?_, fun _ => rfl⟩
    rw [← hsum]
    cases h : (if m1 = 0 && m2 = 0 && n1 == n2 then n1 else decide (rm = .rd)) <;> simp [exactOf, signed]
  next h0 =>
    refine ⟨_, _, _, rfl, ?_, fun hM => absurd (Int.natAbs_eq_zero.mp hM) h0⟩
    rw [← hsum, exactOf, ← signed_mul]
    congr 1
    rcases lt_or_ge z 0 with hz | hz
    · rw [signed, if_pos (decide_eq_true hz), Nat.cast_natAbs, Int.cast_abs, abs_of_neg (by exact_mod_cast hz), neg_neg]
    · rw [signed, if_neg (by simpa using hz), Nat.cast_natAbs, Int.cast_abs, abs_of_nonneg (by exact_mod_cast hz)]

theorem exactOf_negate (v : FVal) : exactOf v.negate = -exactOf v := by
  cases v with
  | nan s => simp [FVal.negate, exactOf]
  | inf n => simp [FVal.negate, exactOf]
  | fin n M e => rw [FVal.negate, exactOf, exactOf, neg_signed]

theorem exactOf_mul (n1 : Bool) (m1 : Nat) (e1 : Int) (n2 : Bool) (m2 : Nat) (e2 : Int) :
    exactOf (.fin (n1 != n2) (m1 * m2) (e1 + e2)) = exactOf (.fin n1 m1 e1) * exactOf (.fin n2 m2 e2) := by
  rw [exactOf, exactOf, exactOf, zpow_add₀ two_ne_zero]
  push_cast
  cases n1 <;> cases n2 <;> simp [signed] <;> ring

/-! ## Quotients and roots -/

/-- A magnitude, given in units of 2^e. -/
theorem isMagnitude_of_units {M : Nat} {e : Int} {st : Bool} {y : ℝ} (h : if st then (M : ℝ) < y ∧ y < M + 1 else y = M) :
    IsMagnitude M e st (y * 2 ^ e) := by
  have he : (0 : ℝ) < 2 ^ e := by positivity
  cases st with
  | false => exact congrArg (· * (2 : ℝ) ^ e) h
  | true => exact ⟨mul_lt_mul_of_pos_right h.1 he, mul_lt_mul_of_pos_right h.2 he⟩

/-- A quotient of integers of many bits, with the sticky flag for what is left. -/
theorem isMagnitude_div {m1 m2 : Nat} (hm2 : m2 ≠ 0) (k : Nat) (e1 e2 : Int) :
    IsMagnitude ((m1 <<< k) / m2) (e1 - e2 - k) ((m1 <<< k) % m2 != 0) (m1 * 2 ^ e1 / (m2 * 2 ^ e2)) := by
  have hm2' : (0 : ℝ) < m2 := by exact_mod_cast Nat.pos_of_ne_zero hm2
  have hvalue : (m1 : ℝ) * 2 ^ e1 / (m2 * 2 ^ e2) = ((m1 <<< k : ℕ) : ℝ) / m2 * 2 ^ (e1 - e2 - k) := by
    rw [Nat.shiftLeft_eq, zpow_sub₀ two_ne_zero, zpow_sub₀ two_ne_zero, zpow_natCast]
    push_cast
    field_simp
  have hsplit : ((m1 <<< k : ℕ) : ℝ) / m2 = ((m1 <<< k / m2 : ℕ) : ℝ) + ((m1 <<< k % m2 : ℕ) : ℝ) / m2 := by
    rw [div_eq_iff hm2'.ne', add_mul, div_mul_cancel₀ _ hm2'.ne']
    exact_mod_cast (Nat.div_add_mod' (m1 <<< k) m2).symm
  have hrem : ((m1 <<< k % m2 : ℕ) : ℝ) / m2 < 1 := by
    rw [div_lt_one hm2']; exact_mod_cast Nat.mod_lt _ (Nat.pos_of_ne_zero hm2)
  rw [hvalue, hsplit]
  refine isMagnitude_of_units ?_
  by_cases h0 : m1 <<< k % m2 = 0
  · simp [h0]
  · have hpos : 0 < ((m1 <<< k % m2 : ℕ) : ℝ) / m2 := div_pos (by exact_mod_cast Nat.pos_of_ne_zero h0) hm2'
    rw [if_pos (by simpa using h0)]
    constructor <;> linarith

theorem isqrtAux_spec (n : Nat) : ∀ k r, r * r ≤ n → n < (r + 2 ^ k) * (r + 2 ^ k) →
    isqrtAux n k r * isqrtAux n k r ≤ n ∧ n < (isqrtAux n k r + 1) * (isqrtAux n k r + 1)
  | 0, r, hlow, hhigh => ⟨hlow, hhigh⟩
  | k + 1, r, hlow, hhigh => by
    rw [isqrtAux]
    split
    next h => exact isqrtAux_spec n k _ h (by rwa [Nat.add_assoc, ← Nat.two_mul, ← Nat.pow_succ'])
    next h => exact isqrtAux_spec n k _ hlow (not_le.mp h)

theorem isqrt_spec (n : Nat) : isqrt n * isqrt n ≤ n ∧ n < (isqrt n + 1) * (isqrt n + 1) := by
  refine isqrtAux_spec n _ 0 (Nat.zero_le n) ?_
  rw [Nat.zero_add, ← Nat.pow_add]
  exact Nat.lt_log2_self.trans_le (Nat.pow_le_pow_right two_pos (by omega))

/-- An integer root of many bits, with the sticky flag for what is left. -/
theorem isMagnitude_sqrt {M k : Nat} {e h : Int} (he : e = 2 * h + k) :
    IsMagnitude (isqrt (M <<< k)) h (isqrt (M <<< k) * isqrt (M <<< k) != M <<< k) (Real.sqrt (M * 2 ^ e)) := by
  have hh : (0 : ℝ) < 2 ^ h := by positivity
  have hvalue : Real.sqrt (M * 2 ^ e) = Real.sqrt ((M <<< k : ℕ) : ℝ) * 2 ^ h := by
    rw [he, zpow_add₀ two_ne_zero, zpow_natCast, two_mul, zpow_add₀ two_ne_zero, Nat.shiftLeft_eq,
      show (M : ℝ) * (2 ^ h * 2 ^ h * 2 ^ k) = (M * 2 ^ k : ℕ) * (2 ^ h * 2 ^ h) by push_cast; ring,
      Real.sqrt_mul (Nat.cast_nonneg _), Real.sqrt_mul_self hh.le]
  obtain ⟨hlow, hhigh⟩ := isqrt_spec (M <<< k)
  rw [hvalue]
  generalize M <<< k = x at *
  generalize isqrt x = r at *
  have hr0 : (0 : ℝ) ≤ r := Nat.cast_nonneg r
  refine isMagnitude_of_units ?_
  by_cases hexact : r * r = x
  · subst hexact
    simp [Real.sqrt_mul_self hr0]
  · rw [if_pos (by simpa using hexact), Real.lt_sqrt hr0, Real.sqrt_lt' (by positivity), sq, sq]
    constructor
    · exact_mod_cast lt_of_le_of_ne hlow hexact
    · exact_mod_cast hhigh

end Sys2Proof.Proofs.Formats
end

section
/-!
CORRECTNESS. O29, the arithmetic triggers (R57, R147): the exact result, rounded once.
-/
namespace Sys2Proof.Proofs.Formats
open Sys2Proof Sys2Proof.Machine Sys2Proof.Claims

/-- An encoding with its events, as the result of a trigger. -/
def asResult (v : Nat × Ev) : Landing := givesQ (BitVec.ofNat 64 v.1) v.2

theorem zeroOf_congr (m : BitVec 3) {p q : Prop} [Decidable p] [Decidable q] (h : p ↔ q) : zeroOf m p = zeroOf m q := by
  simp only [zeroOf, h]

theorem infOf_congr (m : BitVec 3) {p q : Prop} [Decidable p] [Decidable q] (h : p ↔ q) : infOf m p = infOf m q := by
  simp only [infOf, zeroOf_congr m h]

theorem evAnd_evNone_left (e : Ev) : evAnd evNone e = e := by
  obtain ⟨f, s⟩ := e
  simp [evAnd, evNone]

/-- A value with no event of its own is rounded, and that is all. -/
theorem finish_evNone (f : Fmt) (rm : RM) (v : FVal) : finish f rm (v, evNone) = roundVal f rm v := by
  simp only [finish, evAnd_evNone_left]

/-- A result that saturated nothing is its encoding and its flags. -/
theorem eq_of_sat_eq_zero {v : Nat × Ev} (h : v.2.sat = 0) : v = (v.1, ⟨v.2.flags, 0⟩) := by
  rw [← h]

section
variable {m : BitVec 3} (hm : m.toNat < 3)
include hm

/-! ## Operands -/

theorem valueOf_eq_zero_iff (x : Nat) : (valueOf m x : ℝ) = 0 ↔ fMag m x = 0 := by
  rw [valueOf_eq hm, ← fMagnitude_zero m]
  cases decide (fNeg m x)
  · exact (fMagnitude_strictMono m).injective.eq_iff
  · rw [signed_true, fMagnitude_zero, neg_eq_zero, ← fMagnitude_zero m]
    exact (fMagnitude_strictMono m).injective.eq_iff

/-- An encoding from its sign and its magnitude. -/
theorem eq_zeroOf_add {x : Nat} (hx : x < 2 ^ fWidth m) : x = zeroOf m (fNeg m x) + fMag m x := by
  obtain ⟨-, hw, -⟩ := format_bounds hm
  have hpow : 2 ^ fWidth m = 2 ^ (fWidth m - 1) * 2 := by rw [← pow_succ]; congr 1; omega
  have hdiv := Nat.div_add_mod' x (2 ^ (fWidth m - 1))
  have hlt : x / 2 ^ (fWidth m - 1) < 2 := Nat.div_lt_of_lt_mul (hpow ▸ hx)
  obtain hq | hq : x / 2 ^ (fWidth m - 1) = 0 ∨ x / 2 ^ (fWidth m - 1) = 1 := by
    generalize x / 2 ^ (fWidth m - 1) = q at hlt
    omega
  · rw [zeroOf, if_neg (by rw [fNeg, hq]; decide), fMag, Nat.zero_add]
    rw [hq, Nat.zero_mul, Nat.zero_add] at hdiv
    exact hdiv.symm
  · rw [zeroOf, if_pos (by rw [fNeg, hq]), fMag]
    rw [hq, Nat.one_mul] at hdiv
    exact hdiv.symm

theorem eq_infOf {x : Nat} (hx : x < 2 ^ fWidth m) (h : IsInf m x) : x = infOf m (fNeg m x) := by
  obtain ⟨hones, hfrac⟩ := h
  have hdiv := Nat.div_add_mod' (fMag m x) (2 ^ fMant m)
  rw [← fExp_eq hm, ← fFrac_eq hm, hones, hfrac] at hdiv
  exact (eq_zeroOf_add hm hx).trans (congrArg _ (by omega))

theorem eq_zeroOf {x : Nat} (hx : x < 2 ^ fWidth m) (h : fMag m x = 0) : x = zeroOf m (fNeg m x) := by
  have := eq_zeroOf_add hm hx
  omega

/-! ## One rounding -/

variable {rm : BitVec 2}

/-- An exact value that is not zero is rounded once. -/
theorem roundVal_rounds {neg : Bool} {M : Nat} {e : Int} (h : exactOf (.fin neg M e) ≠ 0) :
    ∃ r f, RoundsTo m rm (exactOf (.fin neg M e)) r f ∧ roundVal (fmtOfF m) (rmOf rm) (.fin neg M e) = (r, ⟨f, 0⟩) := by
  have hM : M ≠ 0 := by
    rintro rfl
    exact h (by cases neg <;> simp [exactOf, signed])
  obtain ⟨hround, hsat⟩ := roundVal_roundsTo hm (rm := rm) (neg := neg) (e := e) hM
  exact ⟨_, _, hround, eq_of_sat_eq_zero hsat⟩

omit hm in
theorem rmOf_eq_rd (rm : BitVec 2) : rmOf rm = .rd ↔ rm = 3 := by
  revert rm; decide

omit hm in
/-- Values of one sign cancel only where both are zero. -/
theorem sum_same_sign_eq_zero {neg : Bool} {m1 m2 : Nat} {e1 e2 : Int}
    (h : exactOf (.fin neg m1 e1) + exactOf (.fin neg m2 e2) = 0) : m1 = 0 ∧ m2 = 0 := by
  have h1 : (0 : ℝ) < 2 ^ e1 := by positivity
  have h2 : (0 : ℝ) < 2 ^ e2 := by positivity
  have hnn1 : 0 ≤ (m1 : ℝ) * 2 ^ e1 := by positivity
  have hnn2 : 0 ≤ (m2 : ℝ) * 2 ^ e2 := by positivity
  have hsum : (m1 : ℝ) * 2 ^ e1 + m2 * 2 ^ e2 = 0 := by
    cases neg
    · exact h
    · have h' : -((m1 : ℝ) * 2 ^ e1) + -(m2 * 2 ^ e2) = 0 := h
      linarith
  obtain ⟨hz1, hz2⟩ := (add_eq_zero_iff_of_nonneg hnn1 hnn2).mp hsum
  exact ⟨by exact_mod_cast (mul_eq_zero.mp hz1).resolve_right h1.ne', by exact_mod_cast (mul_eq_zero.mp hz2).resolve_right h2.ne'⟩

/-- A sum is rounded once; an exact zero takes its sign from the operands where they agree, and from the mode elsewhere. -/
theorem roundVal_addFin (n1 : Bool) (m1 : Nat) (e1 : Int) (n2 : Bool) (m2 : Nat) (e2 : Int) :
    let v := exactOf (.fin n1 m1 e1) + exactOf (.fin n2 m2 e2)
    (v ≠ 0 → ∃ r f, RoundsTo m rm v r f ∧ roundVal (fmtOfF m) (rmOf rm) (addFin (rmOf rm) n1 m1 e1 n2 m2 e2) = (r, ⟨f, 0⟩)) ∧
    (v = 0 → roundVal (fmtOfF m) (rmOf rm) (addFin (rmOf rm) n1 m1 e1 n2 m2 e2) =
      (zeroOf m (if n1 = n2 then n1 = true else rm = 3), ⟨0, 0⟩)) := by
  obtain ⟨neg, M, e, hfin, hvalue, hneg⟩ := addFin_spec (rmOf rm) n1 m1 e1 n2 m2 e2
  intro v
  rw [hfin]
  refine ⟨fun hne => ?_, fun hz => ?_⟩
  · rw [show v = _ from hvalue.symm] at hne ⊢
    exact roundVal_rounds hm hne
  · have hmag : (M : ℝ) * 2 ^ e = 0 := by
      have h0 := hvalue.trans hz
      rw [exactOf] at h0
      cases neg
      · exact h0
      · exact neg_eq_zero.mp h0
    obtain rfl : M = 0 := by
      have h2 : (2 : ℝ) ^ e ≠ 0 := by positivity
      exact_mod_cast (mul_eq_zero.mp hmag).resolve_right h2
    rw [roundVal_zero hm, hneg rfl]
    refine congrArg (·, _) (zeroOf_congr m ?_)
    by_cases hn : n1 = n2
    · subst hn
      obtain ⟨rfl, rfl⟩ := sum_same_sign_eq_zero hz
      simp
    · rw [if_neg (by simp [hn]), if_neg hn, decide_eq_true_iff, rmOf_eq_rd]

omit hm in
theorem exactOf_div (n1 : Bool) (m1 : Nat) (e1 : Int) (n2 : Bool) (m2 : Nat) (e2 : Int) :
    exactOf (.fin n1 m1 e1) / exactOf (.fin n2 m2 e2) = signed (n1 != n2) (m1 * 2 ^ e1 / (m2 * 2 ^ e2)) := by
  cases n1 <;> cases n2 <;> simp [exactOf, signed, neg_div, div_neg]

/-- A quotient of values that are not zero is rounded once. -/
theorem fDiv_rounds {n1 n2 : Bool} {m1 m2 : Nat} {e1 e2 : Int} (hm1 : m1 ≠ 0) (hm2 : m2 ≠ 0) :
    ∃ r f, RoundsTo m rm (exactOf (.fin n1 m1 e1) / exactOf (.fin n2 m2 e2)) r f ∧
      fDiv (fmtOfF m) (rmOf rm) (.fin n1 m1 e1) (.fin n2 m2 e2) = (r, ⟨f, 0⟩) := by
  have hbits : 2 ^ 63 ≤ (m1 <<< (64 + m2.log2)) / m2 := by
    rw [Nat.le_div_iff_mul_le (Nat.pos_of_ne_zero hm2), Nat.shiftLeft_eq]
    calc 2 ^ 63 * m2 ≤ 2 ^ 63 * 2 ^ (m2.log2 + 1) := Nat.mul_le_mul_left _ Nat.lt_log2_self.le
      _ = 2 ^ (64 + m2.log2) := by rw [← pow_add]; congr 1; omega
      _ ≤ m1 * 2 ^ (64 + m2.log2) := Nat.le_mul_of_pos_left _ (Nat.pos_of_ne_zero hm1)
  have hq : (m1 <<< (64 + m2.log2)) / m2 ≠ 0 := by
    have : 0 < 2 ^ 63 := by positivity
    omega
  have hlog : 63 ≤ ((m1 <<< (64 + m2.log2)) / m2).log2 := (Nat.le_log2 hq).mpr hbits
  have hfb : fMant m < 63 := by rcases cases_ieee hm with rfl | rfl | rfl <;> decide
  obtain ⟨hround, hsat⟩ := roundFin_roundsTo hm (rm := rm) (neg := n1 != n2) hq (isMagnitude_div hm2 (64 + m2.log2) e1 e2)
    (fun _ => hfb.trans_le hlog)
  rw [← exactOf_div] at hround
  refine ⟨_, _, hround, Eq.trans ?_ (eq_of_sat_eq_zero hsat)⟩
  simp only [fDiv, hm1, hm2, if_false]

/-- A root of a value above zero is rounded once. -/
theorem fSqrt_rounds {M : Nat} {e : Int} (hM : M ≠ 0) :
    ∃ r f, RoundsTo m rm (Real.sqrt (exactOf (.fin false M e))) r f ∧
      fSqrt (fmtOfF m) (rmOf rm) (.fin false M e) = (r, ⟨f, 0⟩) := by
  obtain ⟨k, hk, hk64⟩ : ∃ k : ℕ, (if e % 2 = 0 then 64 else 65) = k ∧ (64 ≤ k ∧ e = 2 * ((e - k) / 2) + k) := by
    by_cases h : e % 2 = 0
    · exact ⟨64, if_pos h, by omega, by omega⟩
    · exact ⟨65, if_neg h, by omega, by omega⟩
  obtain ⟨hk64, he⟩ := hk64
  have hroot : 2 ^ 32 ≤ isqrt (M <<< k) := by
    obtain ⟨-, hhigh⟩ := isqrt_spec (M <<< k)
    have hx : 2 ^ 64 ≤ M <<< k := by
      rw [Nat.shiftLeft_eq]
      exact (Nat.pow_le_pow_right two_pos hk64).trans (Nat.le_mul_of_pos_left _ (Nat.pos_of_ne_zero hM))
    by_contra hlt
    have hle : isqrt (M <<< k) + 1 ≤ 2 ^ 32 := by omega
    have := Nat.mul_le_mul hle hle
    omega
  have hr : isqrt (M <<< k) ≠ 0 := by omega
  have hlog : 32 ≤ (isqrt (M <<< k)).log2 := (Nat.le_log2 hr).mpr hroot
  have hfb : fMant m < 32 := by rcases cases_ieee hm with rfl | rfl | rfl <;> decide
  obtain ⟨hround, hsat⟩ := roundFin_roundsTo hm (rm := rm) (neg := false) hr (isMagnitude_sqrt he) (fun _ => hfb.trans_le hlog)
  refine ⟨_, _, hround, Eq.trans ?_ (eq_of_sat_eq_zero hsat)⟩
  simp only [fSqrt, hM, if_false, Bool.false_eq_true, hk]

/-- An operation that is invalid, with no NaN among its operands. -/
theorem finish_invalid (rm : RM) (l : List FVal) (h : l.any FVal.isNan = false) :
    finish (fmtOfF m) rm (.nan false, nanEv l true) = (canonicalNaN m, ⟨flagNV ||| flagNANP, 0⟩) := by
  rw [finish, roundVal, defaultNaN_eq hm, nanEv, h, Bool.true_or]
  rfl

end


/-! ## The triggers -/

/-- The sign of a product or a quotient. -/
abbrev Unlike (m : BitVec 3) (x y : Nat) : Prop := ¬(fNeg m x ↔ fNeg m y)

/-- What a trigger of FPU gives, and that it gives a value rounded once. -/
def Gives (m : BitVec 3) (rm : BitVec 2) (a b c : Nat) (op : FpuOp) (r : Nat) (f : BitVec 8) : Prop :=
  fpuResult op m rm a b c = givesQ (BitVec.ofNat 64 r) ⟨f, 0⟩

def Rounds (m : BitVec 3) (rm : BitVec 2) (a b c : Nat) (op : FpuOp) (v : ℝ) : Prop :=
  ∃ r f, RoundsTo m rm v r f ∧ Gives m rm a b c op r f

section
variable {m : BitVec 3} {rm : BitVec 2} {a b c r : Nat} {f : BitVec 8}

theorem gives_add (h : elemAdd (fmtOfF m) (rmOf rm) a b c = (r, ⟨f, 0⟩)) : Gives m rm a b c .add r f := congrArg asResult h
theorem gives_sub (h : elemSub (fmtOfF m) (rmOf rm) a b c = (r, ⟨f, 0⟩)) : Gives m rm a b c .sub r f := congrArg asResult h
theorem gives_mul (h : elemMul (fmtOfF m) (rmOf rm) a b c = (r, ⟨f, 0⟩)) : Gives m rm a b c .mul r f := congrArg asResult h
theorem gives_fma (h : elemFma (fmtOfF m) (rmOf rm) a b c = (r, ⟨f, 0⟩)) : Gives m rm a b c .fma r f := congrArg asResult h
theorem gives_div (h : elemDiv (fmtOfF m) (rmOf rm) a b c = (r, ⟨f, 0⟩)) : Gives m rm a b c .div r f := congrArg asResult h
theorem gives_sqrt (h : elemSqrt (fmtOfF m) (rmOf rm) a b c = (r, ⟨f, 0⟩)) : Gives m rm a b c .sqrt r f := congrArg asResult h

end

theorem bne_decide_iff (p q : Prop) [Decidable p] [Decidable q] : (decide p != decide q) = true ↔ ¬(p ↔ q) := by
  by_cases hp : p <;> by_cases hq : q <;> simp [hp, hq]

/-- The sign of an exact zero sum, in the words of the model and of R147. -/
theorem zeroSign_add_iff (p q r : Prop) [Decidable p] [Decidable q] :
    (if decide p = decide q then decide p = true else r) ↔ (if ¬(p ↔ q) then r else p) := by
  by_cases hp : p <;> by_cases hq : q <;> simp [hp, hq]

theorem zeroSign_sub_iff (p q r : Prop) [Decidable p] [Decidable q] :
    (if decide p = !decide q then decide p = true else r) ↔ (if ¬(p ↔ q) then p else r) := by
  by_cases hp : p <;> by_cases hq : q <;> simp [hp, hq]

theorem zeroSign_fma_iff (p q t r : Prop) [Decidable p] [Decidable q] [Decidable t] :
    (if (decide p != decide q) = decide t then (decide p != decide q) = true else r) ↔
      (if (¬(p ↔ q) ↔ t) then ¬(p ↔ q) else r) := by
  by_cases hp : p <;> by_cases hq : q <;> by_cases ht : t <;> simp [hp, hq, ht]

/-- The operand of an encoding, as the operations take it. -/
abbrev operand (m : BitVec 3) (x : Nat) : FVal := .fin (decide (fNeg m x)) (sigOf m x) (expOf m x)

section
variable {m : BitVec 3} (hm : m.toNat < 3)
include hm

theorem signBit_eq (neg : Bool) : signBit (fmtOfF m) neg = zeroOf m (neg = true) := by
  obtain ⟨-, hbits, -⟩ := format_sizes hm
  rw [signBit, hbits]; rfl

theorem signBit_add_infBits (neg : Bool) : signBit (fmtOfF m) neg + infBits (fmtOfF m) = infOf m (neg = true) := by
  rw [signBit_eq hm, infBits_eq hm]; rfl

theorem sigOf_ne_zero {x : Nat} (h : (valueOf m x : ℝ) ≠ 0) : sigOf m x ≠ 0 :=
  mt (sigOf_eq_zero_iff hm x).mp (mt (valueOf_eq_zero_iff hm x).mpr h)

theorem sigOf_eq_zero {x : Nat} (h : (valueOf m x : ℝ) = 0) : sigOf m x = 0 :=
  (sigOf_eq_zero_iff hm x).mpr ((valueOf_eq_zero_iff hm x).mp h)

variable {rm : BitVec 2} {a b c x y z : Nat}

section
variable (ha : ieeeDecode (fmtOfF m) a = operand m x) (hb : ieeeDecode (fmtOfF m) b = operand m y)
include ha hb

theorem add_finite :
    ((valueOf m x : ℝ) + valueOf m y ≠ 0 → Rounds m rm a b c .add (valueOf m x + valueOf m y)) ∧
    ((valueOf m x : ℝ) + valueOf m y = 0 → Gives m rm a b c .add (zeroOf m (if Unlike m x y then rm = 3 else fNeg m x)) 0) := by
  have hadd : elemAdd (fmtOfF m) (rmOf rm) a b c = roundVal (fmtOfF m) (rmOf rm) (addFin (rmOf rm) (decide (fNeg m x))
      (sigOf m x) (expOf m x) (decide (fNeg m y)) (sigOf m y) (expOf m y)) := by
    rw [elemAdd, ha, hb]
    exact finish_evNone _ _ _
  obtain ⟨hround, hzero⟩ := roundVal_addFin hm (rm := rm) (decide (fNeg m x)) (sigOf m x) (expOf m x) (decide (fNeg m y))
    (sigOf m y) (expOf m y)
  rw [exactOf_finite, exactOf_finite] at hround hzero
  refine ⟨fun h => ?_, fun h => ?_⟩
  · obtain ⟨r, f, hr, hv⟩ := hround h
    exact ⟨r, f, hr, gives_add (hadd.trans hv)⟩
  · refine gives_add (hadd.trans ((hzero h).trans (congrArg (·, _) (zeroOf_congr m ?_))))
    exact zeroSign_add_iff _ _ _

theorem sub_finite :
    ((valueOf m x : ℝ) - valueOf m y ≠ 0 → Rounds m rm a b c .sub (valueOf m x - valueOf m y)) ∧
    ((valueOf m x : ℝ) - valueOf m y = 0 → Gives m rm a b c .sub (zeroOf m (if Unlike m x y then fNeg m x else rm = 3)) 0) := by
  have hsub : elemSub (fmtOfF m) (rmOf rm) a b c = roundVal (fmtOfF m) (rmOf rm) (addFin (rmOf rm) (decide (fNeg m x))
      (sigOf m x) (expOf m x) (!decide (fNeg m y)) (sigOf m y) (expOf m y)) := by
    rw [elemSub, ha, hb]
    exact finish_evNone _ _ _
  obtain ⟨hround, hzero⟩ := roundVal_addFin hm (rm := rm) (decide (fNeg m x)) (sigOf m x) (expOf m x) (!decide (fNeg m y))
    (sigOf m y) (expOf m y)
  have hnegate : exactOf (.fin (!decide (fNeg m y)) (sigOf m y) (expOf m y)) = -valueOf m y := by
    rw [← exactOf_finite, ← exactOf_negate]; rfl
  rw [exactOf_finite, hnegate, ← sub_eq_add_neg] at hround hzero
  refine ⟨fun h => ?_, fun h => ?_⟩
  · obtain ⟨r, f, hr, hv⟩ := hround h
    exact ⟨r, f, hr, gives_sub (hsub.trans hv)⟩
  · refine gives_sub (hsub.trans ((hzero h).trans (congrArg (·, _) (zeroOf_congr m ?_))))
    exact zeroSign_sub_iff _ _ _

theorem mul_finite :
    ((valueOf m x : ℝ) * valueOf m y ≠ 0 → Rounds m rm a b c .mul (valueOf m x * valueOf m y)) ∧
    ((valueOf m x : ℝ) * valueOf m y = 0 → Gives m rm a b c .mul (zeroOf m (Unlike m x y)) 0) := by
  have hmul : elemMul (fmtOfF m) (rmOf rm) a b c = roundVal (fmtOfF m) (rmOf rm) (.fin (decide (fNeg m x) != decide (fNeg m y))
      (sigOf m x * sigOf m y) (expOf m x + expOf m y)) := by
    rw [elemMul, ha, hb]
    exact finish_evNone _ _ _
  have hvalue := exactOf_mul (decide (fNeg m x)) (sigOf m x) (expOf m x) (decide (fNeg m y)) (sigOf m y) (expOf m y)
  rw [exactOf_finite, exactOf_finite] at hvalue
  refine ⟨fun h => ?_, fun h => ?_⟩
  · rw [← hvalue] at h ⊢
    obtain ⟨r, f, hr, hv⟩ := roundVal_rounds hm (rm := rm) h
    exact ⟨r, f, hr, gives_mul (hmul.trans hv)⟩
  · have hsig : sigOf m x * sigOf m y = 0 :=
      Nat.mul_eq_zero.mpr ((mul_eq_zero.mp h).imp (sigOf_eq_zero hm) (sigOf_eq_zero hm))
    rw [hsig, roundVal_zero hm] at hmul
    exact gives_mul (hmul.trans (congrArg (·, _) (zeroOf_congr m (bne_decide_iff _ _))))

theorem div_finite :
    ((valueOf m x : ℝ) ≠ 0 → (valueOf m y : ℝ) ≠ 0 → Rounds m rm a b c .div (valueOf m x / valueOf m y)) ∧
    ((valueOf m x : ℝ) = 0 → (valueOf m y : ℝ) ≠ 0 → Gives m rm a b c .div (zeroOf m (Unlike m x y)) 0) ∧
    ((valueOf m x : ℝ) ≠ 0 → (valueOf m y : ℝ) = 0 → Gives m rm a b c .div (infOf m (Unlike m x y)) flagDZ) ∧
    ((valueOf m x : ℝ) = 0 → (valueOf m y : ℝ) = 0 → Gives m rm a b c .div (canonicalNaN m) (flagNV ||| flagNANP)) := by
  have hdiv : elemDiv (fmtOfF m) (rmOf rm) a b c = fDiv (fmtOfF m) (rmOf rm) (operand m x) (operand m y) := by
    rw [elemDiv, ha, hb]
  refine ⟨fun h1 h2 => ?_, fun h1 h2 => ?_, fun h1 h2 => ?_, fun h1 h2 => ?_⟩
  · obtain ⟨r, f, hr, hv⟩ := fDiv_rounds hm (rm := rm) (n1 := decide (fNeg m x)) (e1 := expOf m x) (n2 := decide (fNeg m y))
      (e2 := expOf m y) (sigOf_ne_zero hm h1) (sigOf_ne_zero hm h2)
    rw [exactOf_finite, exactOf_finite] at hr
    exact ⟨r, f, hr, gives_div (hdiv.trans hv)⟩
  · have hv : elemDiv (fmtOfF m) (rmOf rm) a b c = (zeroOf m (Unlike m x y), ⟨0, 0⟩) := by
      rw [hdiv]
      simp only [fDiv, sigOf_eq_zero hm h1, sigOf_ne_zero hm h2, if_true, if_false, signBit_eq hm, evNone]
      rw [zeroOf_congr m (bne_decide_iff _ _)]
    exact gives_div hv
  · have hv : elemDiv (fmtOfF m) (rmOf rm) a b c = (infOf m (Unlike m x y), ⟨flagDZ, 0⟩) := by
      rw [hdiv]
      simp only [fDiv, sigOf_ne_zero hm h1, sigOf_eq_zero hm h2, if_true, if_false, signBit_add_infBits hm, evFlags]
      rw [infOf_congr m (bne_decide_iff _ _)]
    exact gives_div hv
  · have hv : elemDiv (fmtOfF m) (rmOf rm) a b c = (canonicalNaN m, ⟨flagNV ||| flagNANP, 0⟩) := by
      rw [hdiv]
      simp only [fDiv, sigOf_eq_zero hm h1, sigOf_eq_zero hm h2, if_true, defaultNaN_eq hm]
      rfl
    exact gives_div hv

theorem fma_finite (hc : ieeeDecode (fmtOfF m) c = operand m z) :
    ((valueOf m x : ℝ) * valueOf m y + valueOf m z ≠ 0 → Rounds m rm a b c .fma (valueOf m x * valueOf m y + valueOf m z)) ∧
    ((valueOf m x : ℝ) * valueOf m y + valueOf m z = 0 →
      Gives m rm a b c .fma (zeroOf m (if Unlike m x y ↔ fNeg m z then Unlike m x y else rm = 3)) 0) := by
  have hfma : elemFma (fmtOfF m) (rmOf rm) a b c = roundVal (fmtOfF m) (rmOf rm) (addFin (rmOf rm)
      (decide (fNeg m x) != decide (fNeg m y)) (sigOf m x * sigOf m y) (expOf m x + expOf m y)
      (decide (fNeg m z)) (sigOf m z) (expOf m z)) := by
    rw [elemFma, ha, hb, hc, ← finish_evNone]
    simp only [fFma, FVal.isNan, FVal.isInf, Bool.and_false, Bool.false_and, Bool.or_false, Bool.false_eq_true, if_false]
    rfl
  obtain ⟨hround, hzero⟩ := roundVal_addFin hm (rm := rm) (decide (fNeg m x) != decide (fNeg m y)) (sigOf m x * sigOf m y)
    (expOf m x + expOf m y) (decide (fNeg m z)) (sigOf m z) (expOf m z)
  rw [exactOf_mul, exactOf_finite, exactOf_finite, exactOf_finite] at hround hzero
  refine ⟨fun h => ?_, fun h => ?_⟩
  · obtain ⟨r, f, hr, hv⟩ := hround h
    exact ⟨r, f, hr, gives_fma (hfma.trans hv)⟩
  · refine gives_fma (hfma.trans ((hzero h).trans (congrArg (·, _) (zeroOf_congr m ?_))))
    exact zeroSign_fma_iff _ _ _ _

end
end

/-! ## Roots, infinities and invalid operations -/

section
variable {m : BitVec 3} (hm : m.toNat < 3)
include hm

variable {rm : BitVec 2} {a b c x y z : Nat}

theorem sqrt_finite (hx : x < 2 ^ fWidth m) (ha : ieeeDecode (fmtOfF m) a = operand m x) :
    (0 < (valueOf m x : ℝ) → Rounds m rm a b c .sqrt (Real.sqrt (valueOf m x))) ∧
    ((valueOf m x : ℝ) = 0 → Gives m rm a b c .sqrt x 0) ∧
    ((valueOf m x : ℝ) < 0 → Gives m rm a b c .sqrt (canonicalNaN m) (flagNV ||| flagNANP)) := by
  have hsqrt : elemSqrt (fmtOfF m) (rmOf rm) a b c = fSqrt (fmtOfF m) (rmOf rm) (operand m x) := by rw [elemSqrt, ha]
  have hsign : ∀ neg, decide (fNeg m x) = neg → (valueOf m x : ℝ) = signed neg (fMagnitude m (fMag m x)) := by
    rintro _ rfl
    exact valueOf_eq hm x
  refine ⟨fun h => ?_, fun h => ?_, fun h => ?_⟩
  · have hneg : decide (fNeg m x) = false := by
      by_contra hcon
      have hvalue := hsign true (by simpa using hcon)
      rw [hvalue, signed_true] at h
      linarith [fMagnitude_nonneg m (fMag m x)]
    obtain ⟨r, f, hr, hv⟩ := fSqrt_rounds hm (rm := rm) (e := expOf m x) (sigOf_ne_zero hm h.ne')
    rw [← hneg, exactOf_finite] at hr
    rw [operand, hneg] at hsqrt
    exact ⟨r, f, hr, gives_sqrt (hsqrt.trans hv)⟩
  · have hv : elemSqrt (fmtOfF m) (rmOf rm) a b c = (x, ⟨0, 0⟩) := by
      have hzero : zeroOf m (decide (fNeg m x) = true) = x :=
        (zeroOf_congr m decide_eq_true_iff).trans (eq_zeroOf hm hx ((valueOf_eq_zero_iff hm x).mp h)).symm
      rw [hsqrt]
      simp only [fSqrt, sigOf_eq_zero hm h, if_true, signBit_eq hm, hzero, evNone]
    exact gives_sqrt hv
  · have hneg : decide (fNeg m x) = true := by
      by_contra hcon
      have hvalue := hsign false (by simpa using hcon)
      rw [hvalue] at h
      exact absurd h (not_lt.mpr (fMagnitude_nonneg m _))
    have hv : elemSqrt (fmtOfF m) (rmOf rm) a b c = (canonicalNaN m, ⟨flagNV ||| flagNANP, 0⟩) := by
      rw [hsqrt, operand, hneg]
      simp only [fSqrt, sigOf_ne_zero hm h.ne, if_true, if_false, defaultNaN_eq hm]
      rfl
    exact gives_sqrt hv

theorem sqrt_inf (hx : x < 2 ^ fWidth m) (hinf : IsInf m x) (ha : ieeeDecode (fmtOfF m) a = .inf (decide (fNeg m x))) :
    if fNeg m x then Gives m rm a b c .sqrt (canonicalNaN m) (flagNV ||| flagNANP) else Gives m rm a b c .sqrt x 0 := by
  have hsqrt : elemSqrt (fmtOfF m) (rmOf rm) a b c = fSqrt (fmtOfF m) (rmOf rm) (.inf (decide (fNeg m x))) := by rw [elemSqrt, ha]
  split
  next h =>
    rw [decide_eq_true h] at hsqrt
    have hv : fSqrt (fmtOfF m) (rmOf rm) (.inf true) = (canonicalNaN m, ⟨flagNV ||| flagNANP, 0⟩) := by
      rw [fSqrt, defaultNaN_eq hm]; rfl
    exact gives_sqrt (hsqrt.trans hv)
  next h =>
    rw [decide_eq_false h] at hsqrt
    have hv : fSqrt (fmtOfF m) (rmOf rm) (.inf false) = (x, ⟨0, 0⟩) := by
      rw [fSqrt, infBits_eq hm, eq_infOf hm hx hinf, infOf, zeroOf, if_neg h, Nat.zero_add]; rfl
    exact gives_sqrt (hsqrt.trans hv)

/-- An infinite result. -/
theorem finish_inf (rm : RM) (neg : Bool) : finish (fmtOfF m) rm (.inf neg, evNone) = (infOf m (neg = true), ⟨0, 0⟩) := by
  rw [finish_evNone, roundVal_inf hm]; rfl

omit hm in
theorem infOf_decide (p : Prop) [Decidable p] : infOf m (decide p = true) = infOf m p := infOf_congr m decide_eq_true_iff

theorem infOf_self (hx : x < 2 ^ fWidth m) (h : IsInf m x) : infOf m (decide (fNeg m x) = true) = x :=
  (infOf_decide _).trans (eq_infOf hm hx h).symm

theorem inf_finite (hx : x < 2 ^ fWidth m) (hinf : IsInf m x) (ha : ieeeDecode (fmtOfF m) a = .inf (decide (fNeg m x)))
    (hb : ieeeDecode (fmtOfF m) b = operand m y) :
    Gives m rm a b c .add x 0 ∧ Gives m rm a b c .sub x 0 ∧ Gives m rm a b c .div (infOf m (Unlike m x y)) 0 := by
  have hself := finish_inf hm (rmOf rm) (decide (fNeg m x))
  rw [infOf_self hm hx hinf] at hself
  refine ⟨gives_add ?_, gives_sub ?_, gives_div ?_⟩
  · exact Eq.trans (by rw [elemAdd, ha, hb]; rfl) hself
  · exact Eq.trans (by rw [elemSub, ha, hb]; rfl) hself
  · rw [elemDiv, ha, hb]
    simp only [fDiv, signBit_add_infBits hm, evNone]
    rw [infOf_congr m (bne_decide_iff _ _)]

theorem finite_inf (hy : y < 2 ^ fWidth m) (hinf : IsInf m y) (ha : ieeeDecode (fmtOfF m) a = operand m x)
    (hb : ieeeDecode (fmtOfF m) b = .inf (decide (fNeg m y))) :
    Gives m rm a b c .add y 0 ∧ Gives m rm a b c .sub (infOf m (¬fNeg m y)) 0 ∧ Gives m rm a b c .div (zeroOf m (Unlike m x y)) 0 := by
  have hself := finish_inf hm (rmOf rm) (decide (fNeg m y))
  rw [infOf_self hm hy hinf] at hself
  have hnegate := finish_inf hm (rmOf rm) (!decide (fNeg m y))
  rw [← decide_not, infOf_decide] at hnegate
  refine ⟨gives_add ?_, gives_sub ?_, gives_div ?_⟩
  · exact Eq.trans (by rw [elemAdd, ha, hb]; rfl) hself
  · exact Eq.trans (by rw [elemSub, ha, hb, decide_not]; rfl) hnegate
  · rw [elemDiv, ha, hb]
    simp only [fDiv, signBit_eq hm, evNone]
    rw [zeroOf_congr m (bne_decide_iff _ _)]

theorem inf_inf (hx : x < 2 ^ fWidth m) (hinfx : IsInf m x) (ha : ieeeDecode (fmtOfF m) a = .inf (decide (fNeg m x)))
    (hb : ieeeDecode (fmtOfF m) b = .inf (decide (fNeg m y))) :
    Gives m rm a b c .div (canonicalNaN m) (flagNV ||| flagNANP) ∧
    (Unlike m x y → Gives m rm a b c .add (canonicalNaN m) (flagNV ||| flagNANP) ∧ Gives m rm a b c .sub x 0) ∧
    (¬Unlike m x y → Gives m rm a b c .add x 0 ∧ Gives m rm a b c .sub (canonicalNaN m) (flagNV ||| flagNANP)) := by
  have hself := finish_inf hm (rmOf rm) (decide (fNeg m x))
  rw [infOf_self hm hx hinfx] at hself
  have hadd : elemAdd (fmtOfF m) (rmOf rm) a b c =
      finish (fmtOfF m) (rmOf rm) (fAdd (rmOf rm) (.inf (decide (fNeg m x))) (.inf (decide (fNeg m y)))) := by rw [elemAdd, ha, hb]
  have hsub : elemSub (fmtOfF m) (rmOf rm) a b c =
      finish (fmtOfF m) (rmOf rm) (fAdd (rmOf rm) (.inf (decide (fNeg m x))) (.inf (!decide (fNeg m y)))) := by
    rw [elemSub, ha, hb, FVal.negate]
  have hsame : ∀ n n' : Bool, n = n' → fAdd (rmOf rm) (.inf n) (.inf n') = (.inf n, evNone) := by
    rintro n _ rfl
    simp [fAdd]
  have hdiffer : ∀ n n' : Bool, n ≠ n' → finish (fmtOfF m) (rmOf rm) (fAdd (rmOf rm) (.inf n) (.inf n')) =
      (canonicalNaN m, ⟨flagNV ||| flagNANP, 0⟩) := by
    intro n n' h
    rw [← finish_invalid hm (rmOf rm) [.inf n, .inf n'] rfl]
    simp [fAdd, h]
  have hbool : decide (fNeg m x) = decide (fNeg m y) ↔ (fNeg m x ↔ fNeg m y) := decide_eq_decide
  refine ⟨gives_div ?_, fun h => ⟨gives_add ?_, gives_sub ?_⟩, fun h => ⟨gives_add ?_, gives_sub ?_⟩⟩
  · rw [elemDiv, ha, hb]
    simp only [fDiv, defaultNaN_eq hm]
    rfl
  · rw [hadd, hdiffer _ _ (mt hbool.mp h)]
  · rw [hsub, hsame _ _ (Bool.eq_not.mpr (mt hbool.mp h)), hself]
  · rw [hadd, hsame _ _ (hbool.mpr (not_not.mp h)), hself]
  · rw [hsub, hdiffer _ _ (fun h' => Bool.eq_not.mp h' (hbool.mpr (not_not.mp h)))]

end

/-! ## Products with an infinity -/

section
variable {A B C : FVal} {n : Bool}

theorem fFma_invalid (rm : RM) (h : (A.isZero && B.isInf || A.isInf && B.isZero) = true) :
    fFma rm A B C = (.nan false, nanEv [A, B, C] true) := by
  simp only [fFma, h, Bool.or_true, if_true]

theorem fMul_inf_left (hnan : B.isNan = false) (hzero : B.isZero = false) : fMul (.inf n) B = (.inf (n != B.sign), evNone) := by
  cases B with
  | nan s => simp [FVal.isNan] at hnan
  | inf n' => rfl
  | fin n' M e => exact if_neg (by simpa [FVal.isZero] using hzero)

theorem fMul_inf_right (hnan : A.isNan = false) (hzero : A.isZero = false) : fMul A (.inf n) = (.inf (A.sign != n), evNone) := by
  cases A with
  | nan s => simp [FVal.isNan] at hnan
  | inf n' => rfl
  | fin n' M e => exact if_neg (by simpa [FVal.isZero] using hzero)

/-- A fused sum with an infinite product. -/
theorem fFma_inf (rm : RM) (hvalid : (A.isNan || B.isNan || C.isNan || (A.isZero && B.isInf || A.isInf && B.isZero)) = false)
    (hproduct : (fMul A B).1 = .inf n) :
    fFma rm A B C = if C.isInf && n != C.sign then (.nan false, nanEv [A, B, C] true) else (.inf n, evNone) := by
  simp only [fFma, hvalid, hproduct, Bool.false_eq_true, if_false]
  cases C with
  | nan s => simp [FVal.isNan] at hvalid
  | inf n' => cases n <;> cases n' <;> rfl
  | fin n' M e => rfl

end

section
variable {m : BitVec 3} (hm : m.toNat < 3)
include hm

/-- An encoding that is no NaN is an infinity or a finite value. -/
theorem decode_cases {x : Nat} (h : ¬IsNaN m x) :
    (IsInf m x ∧ ieeeDecode (fmtOfF m) x = .inf (decide (fNeg m x))) ∨ ieeeDecode (fmtOfF m) x = operand m x := by
  by_cases hones : ExpOnes m x
  · have hinf : IsInf m x := isInf_of_expOnes hones h
    exact .inl ⟨hinf, ieeeDecode_inf hm hinf⟩
  · exact .inr (ieeeDecode_fin hm hones)

variable {rm : BitVec 2} {a b c x y z : Nat}

theorem not_isNan_of_not_nan (h : ¬IsNaN m x) : (ieeeDecode (fmtOfF m) x).isNan = false := by
  rcases decode_cases hm h with ⟨-, h⟩ | h <;> rw [h] <;> rfl

theorem sign_decode (h : ¬IsNaN m x) : (ieeeDecode (fmtOfF m) x).sign = decide (fNeg m x) := by
  rcases decode_cases hm h with ⟨-, h⟩ | h <;> rw [h] <;> rfl

theorem isZero_decode (h : ¬IsNaN m x) (hne : fMag m x ≠ 0) : (ieeeDecode (fmtOfF m) x).isZero = false := by
  rcases decode_cases hm h with ⟨-, h⟩ | h <;> rw [h]
  · rfl
  · exact beq_false_of_ne (mt (sigOf_eq_zero_iff hm x).mp hne)

theorem not_expOnes_of_zero (h : fMag m x = 0) : ¬ExpOnes m x := by
  obtain ⟨-, -, -, heb⟩ := format_bounds hm
  rw [ExpOnes, fExp_eq hm, h, Nat.zero_div]
  omega

theorem decode_zero (h : fMag m x = 0) : ieeeDecode (fmtOfF m) x = .fin (decide (fNeg m x)) 0 (expOf m x) := by
  rw [ieeeDecode_fin hm (not_expOnes_of_zero hm h), (sigOf_eq_zero_iff hm x).mpr h]

/-- Zero times infinity. -/
theorem zero_times_inf (ha : ieeeDecode (fmtOfF m) a = ieeeDecode (fmtOfF m) x) (hb : ieeeDecode (fmtOfF m) b = ieeeDecode (fmtOfF m) y)
    (hc : ieeeDecode (fmtOfF m) c = ieeeDecode (fmtOfF m) z) (h : IsInf m x ∧ fMag m y = 0 ∨ fMag m x = 0 ∧ IsInf m y) :
    Gives m rm a b c .mul (canonicalNaN m) (flagNV ||| flagNANP) ∧
    (¬IsNaN m z → Gives m rm a b c .fma (canonicalNaN m) (flagNV ||| flagNANP)) := by
  have hmul : fMul (ieeeDecode (fmtOfF m) x) (ieeeDecode (fmtOfF m) y) =
        (.nan false, nanEv [ieeeDecode (fmtOfF m) x, ieeeDecode (fmtOfF m) y] true) ∧
      [ieeeDecode (fmtOfF m) x, ieeeDecode (fmtOfF m) y].any FVal.isNan = false ∧
      ((ieeeDecode (fmtOfF m) x).isZero && (ieeeDecode (fmtOfF m) y).isInf ||
        (ieeeDecode (fmtOfF m) x).isInf && (ieeeDecode (fmtOfF m) y).isZero) = true := by
    rcases h with ⟨hinf, hzero⟩ | ⟨hzero, hinf⟩
    · rw [ieeeDecode_inf hm hinf, decode_zero hm hzero]
      exact ⟨rfl, rfl, rfl⟩
    · rw [ieeeDecode_inf hm hinf, decode_zero hm hzero]
      exact ⟨rfl, rfl, rfl⟩
  obtain ⟨hproduct, hnan, hinvalid⟩ := hmul
  refine ⟨gives_mul ?_, fun hz => gives_fma ?_⟩
  · rw [elemMul, ha, hb, hproduct, finish_invalid hm _ _ hnan]
  · rw [elemFma, ha, hb, hc, fFma_invalid _ hinvalid, finish_invalid hm]
    simp only [List.any_cons, List.any_nil, Bool.or_false] at hnan ⊢
    rw [← Bool.or_assoc, hnan, not_isNan_of_not_nan hm hz]
    rfl

/-- An infinity times what is neither zero nor a NaN. -/
theorem inf_times (ha : ieeeDecode (fmtOfF m) a = ieeeDecode (fmtOfF m) x) (hb : ieeeDecode (fmtOfF m) b = ieeeDecode (fmtOfF m) y)
    (hc : ieeeDecode (fmtOfF m) c = ieeeDecode (fmtOfF m) z) (hz : z < 2 ^ fWidth m)
    (h : IsInf m x ∧ fMag m y ≠ 0 ∧ ¬IsNaN m y ∨ fMag m x ≠ 0 ∧ ¬IsNaN m x ∧ IsInf m y) :
    Gives m rm a b c .mul (infOf m (Unlike m x y)) 0 ∧
    (Claims.Finite m z → Gives m rm a b c .fma (infOf m (Unlike m x y)) 0) ∧
    (IsInf m z → (Unlike m x y ↔ fNeg m z) → Gives m rm a b c .fma z 0) ∧
    (IsInf m z → ¬(Unlike m x y ↔ fNeg m z) → Gives m rm a b c .fma (canonicalNaN m) (flagNV ||| flagNANP)) := by
  have hmul : fMul (ieeeDecode (fmtOfF m) x) (ieeeDecode (fmtOfF m) y) =
        (.inf (decide (fNeg m x) != decide (fNeg m y)), evNone) ∧
      ((ieeeDecode (fmtOfF m) x).isNan || (ieeeDecode (fmtOfF m) y).isNan) = false ∧
      ((ieeeDecode (fmtOfF m) x).isZero && (ieeeDecode (fmtOfF m) y).isInf ||
        (ieeeDecode (fmtOfF m) x).isInf && (ieeeDecode (fmtOfF m) y).isZero) = false := by
    rcases h with ⟨hinf, hne, hnan⟩ | ⟨hne, hnan, hinf⟩
    · rw [ieeeDecode_inf hm hinf, fMul_inf_left (not_isNan_of_not_nan hm hnan) (isZero_decode hm hnan hne), sign_decode hm hnan,
        not_isNan_of_not_nan hm hnan, isZero_decode hm hnan hne]
      exact ⟨rfl, rfl, rfl⟩
    · rw [ieeeDecode_inf hm hinf, fMul_inf_right (not_isNan_of_not_nan hm hnan) (isZero_decode hm hnan hne), sign_decode hm hnan,
        not_isNan_of_not_nan hm hnan, isZero_decode hm hnan hne]
      exact ⟨rfl, rfl, by rw [Bool.false_and, Bool.false_or]; exact Bool.and_false _⟩
  obtain ⟨hproduct, hnan, hvalid⟩ := hmul
  have hunlike : infOf m ((decide (fNeg m x) != decide (fNeg m y)) = true) = infOf m (Unlike m x y) :=
    infOf_congr m (bne_decide_iff _ _)
  have hfma : (ieeeDecode (fmtOfF m) z).isNan = false → fFma (rmOf rm) (ieeeDecode (fmtOfF m) x) (ieeeDecode (fmtOfF m) y)
      (ieeeDecode (fmtOfF m) z) = _ := fun hz => fFma_inf (rmOf rm) (by rw [hnan, hz, hvalid]; rfl) (congrArg Prod.fst hproduct)
  have hneg : (decide (fNeg m x) != decide (fNeg m y)) = decide (Unlike m x y) := by
    rw [Bool.eq_iff_iff, bne_decide_iff, decide_eq_true_iff]
  refine ⟨gives_mul ?_, fun hfin => gives_fma ?_, fun hinf hsign => gives_fma ?_, fun hinf hsign => gives_fma ?_⟩
  · rw [elemMul, ha, hb, hproduct, finish_inf hm, hunlike]
  · rw [elemFma, ha, hb, hc, hfma (by rw [ieeeDecode_fin hm hfin.2]; rfl), ieeeDecode_fin hm hfin.2]
    simp only [FVal.isInf, Bool.false_and, Bool.false_eq_true, if_false]
    rw [finish_inf hm, hunlike]
  · rw [elemFma, ha, hb, hc, hfma (by rw [ieeeDecode_inf hm hinf]; rfl), ieeeDecode_inf hm hinf, hneg, decide_eq_decide.mpr hsign]
    simp only [FVal.isInf, FVal.sign, bne_self_eq_false, Bool.and_false, Bool.false_eq_true, if_false]
    rw [finish_inf hm, infOf_self hm hz hinf]
  · rw [elemFma, ha, hb, hc, hfma (by rw [ieeeDecode_inf hm hinf]; rfl), if_pos, finish_invalid hm]
    · rw [List.any_cons, List.any_cons, ← Bool.or_assoc, hnan, ieeeDecode_inf hm hinf]
      rfl
    · rw [ieeeDecode_inf hm hinf, hneg]
      simp only [FVal.isInf, FVal.sign, Bool.true_and, bne_iff_ne, ne_eq]
      exact mt decide_eq_decide.mp hsign

theorem fma_finite_inf (ha : ieeeDecode (fmtOfF m) a = operand m x) (hb : ieeeDecode (fmtOfF m) b = operand m y)
    (hc : ieeeDecode (fmtOfF m) c = .inf (decide (fNeg m z))) (hz : z < 2 ^ fWidth m) (hinf : IsInf m z) :
    Gives m rm a b c .fma z 0 := by
  refine gives_fma ?_
  rw [elemFma, ha, hb, hc]
  simp only [fFma, FVal.isNan, FVal.isInf, Bool.and_false, Bool.false_and, Bool.or_false, Bool.false_eq_true, if_false, fMul]
  rw [finish_inf hm, infOf_self hm hz hinf]

end

theorem arithmeticRoundsOnce : ArithmeticRoundsOnce := by
  intro m rm a b c hm x y z X Y Z unlike gives rounds invalid
  have hx : x < 2 ^ fWidth m := Nat.mod_lt _ (by positivity)
  have hy : y < 2 ^ fWidth m := Nat.mod_lt _ (by positivity)
  have hz : z < 2 ^ fWidth m := Nat.mod_lt _ (by positivity)
  have ha : ieeeDecode (fmtOfF m) a = ieeeDecode (fmtOfF m) x := (ieeeDecode_mod hm a).symm
  have hb : ieeeDecode (fmtOfF m) b = ieeeDecode (fmtOfF m) y := (ieeeDecode_mod hm b).symm
  have hc : ieeeDecode (fmtOfF m) c = ieeeDecode (fmtOfF m) z := (ieeeDecode_mod hm c).symm
  have fin : ∀ {w u : Nat}, ieeeDecode (fmtOfF m) w = ieeeDecode (fmtOfF m) u → Claims.Finite m u →
      ieeeDecode (fmtOfF m) w = operand m u := fun h hf => h.trans (ieeeDecode_fin hm hf.2)
  have inf : ∀ {w u : Nat}, ieeeDecode (fmtOfF m) w = ieeeDecode (fmtOfF m) u → IsInf m u →
      ieeeDecode (fmtOfF m) w = .inf (decide (fNeg m u)) := fun h hi => h.trans (ieeeDecode_inf hm hi)
  refine ⟨fun fx fy => ?_, fun fx fy fz => fma_finite hm (fin ha fx) (fin hb fy) (fin hc fz),
    fun fx => sqrt_finite hm hx (fin ha fx), fun ix fy => inf_finite hm hx ix (inf ha ix) (fin hb fy),
    fun fx iy => finite_inf hm hy iy (fin ha fx) (inf hb iy), fun ix iy => inf_inf hm hx ix (inf ha ix) (inf hb iy),
    zero_times_inf hm ha hb hc, inf_times hm ha hb hc hz,
    fun fx fy iz => fma_finite_inf hm (fin ha fx) (fin hb fy) (inf hc iz) hz iz, fun ix => sqrt_inf hm hx ix (inf ha ix)⟩
  obtain ⟨hadd, hadd0⟩ := add_finite hm (rm := rm) (c := c) (fin ha fx) (fin hb fy)
  obtain ⟨hsub, hsub0⟩ := sub_finite hm (rm := rm) (c := c) (fin ha fx) (fin hb fy)
  obtain ⟨hmul, hmul0⟩ := mul_finite hm (rm := rm) (c := c) (fin ha fx) (fin hb fy)
  exact ⟨hadd, hadd0, hsub, hsub0, hmul, hmul0, div_finite hm (fin ha fx) (fin hb fy)⟩

end Sys2Proof.Proofs.Formats
end

section
/-!
SUPPORT. Tapered formats (R51, R58): the values of the codes in their order, and the code that `TEncode` chooses.
-/
namespace Sys2Proof.Proofs.Formats
open Sys2Proof Sys2Proof.Machine Sys2Proof.Claims

/-! ## Comparison of magnitudes -/

theorem magLt_iff (m1 : Nat) (e1 : Int) (m2 : Nat) (e2 : Int) :
    magLt m1 e1 m2 e2 = true ↔ (m1 : ℝ) * 2 ^ e1 < m2 * 2 ^ e2 := by
  obtain ⟨h1, h2⟩ := alignPair_spec m1 e1 m2 e2
  rw [← h1, ← h2, mul_lt_mul_iff_left₀ (by positivity), Nat.cast_lt]
  exact decide_eq_true_iff

theorem magEq_iff (m1 : Nat) (e1 : Int) (m2 : Nat) (e2 : Int) :
    magEq m1 e1 m2 e2 = true ↔ (m1 : ℝ) * 2 ^ e1 = m2 * 2 ^ e2 := by
  obtain ⟨h1, h2⟩ := alignPair_spec m1 e1 m2 e2
  rw [← h1, ← h2, mul_left_inj' (by positivity), Nat.cast_inj]
  exact beq_iff_eq

/-! ## The values of the codes -/

/-- The run of equal bits, as the model counts it and as R51 is written. -/
theorem taperedRun_eq {w : Nat} (hw : w = 5 ∨ w = 7) {k : Nat} (hk : k < 2 ^ w) :
    taperedRun w k = runLength k (k.testBit (w - 1)) w := by
  rcases hw with rfl | rfl
  · revert k; decide +kernel
  · revert k; decide +kernel

/-- The value of a code, as the model decodes it. -/
theorem taperedMagnitude_eq {w : Nat} (hw : w = 5 ∨ w = 7) {k : Nat} (hk : k < 2 ^ w) :
    (taperedMagnitude w k : ℝ) = (tMagOf w k).1 * 2 ^ (tMagOf w k).2 := by
  have hlead : (k / 2 ^ (w - 1) % 2 = 1) ↔ k.testBit (w - 1) = true := by
    rw [Nat.testBit_eq_decide_div_mod_eq, decide_eq_true_iff]
  have hbit : ∀ i, ((k / 2 ^ i % 2 : ℕ) : ℤ) = b2n (k.testBit i) := fun i => by
    rw [Nat.testBit_eq_decide_div_mod_eq]
    rcases Nat.mod_two_eq_zero_or_one (k / 2 ^ i) with h | h <;> rw [h] <;> rfl
  have hrest : ∀ run, (if run = w then 0 else w - run - 1) = w - run - 1 := fun run => by split <;> omega
  unfold taperedMagnitude tMagOf
  by_cases h0 : k = 0
  · simp [h0]
  · simp only [if_neg h0, tMagnitude, taperedRun_eq hw hk, hrest, hlead, hbit]
    generalize w - runLength k (k.testBit (w - 1)) w - 1 = rest
    push_cast
    rw [zpow_sub₀ two_ne_zero, zpow_natCast]
    field_simp

/-- The codes rise with their values. -/
theorem tMagOf_lt {w : Nat} (hw : w = 5 ∨ w = 7) {k : Nat} (hk : k < 2 ^ w - 1) :
    magLt (tMagOf w k).1 (tMagOf w k).2 (tMagOf w (k + 1)).1 (tMagOf w (k + 1)).2 = true := by
  rcases hw with rfl | rfl
  · revert k; decide +kernel
  · revert k; decide +kernel

/-- The values of the codes, and past the last one some larger ones. -/
noncomputable def taperedSeq (w k : Nat) : ℝ :=
  (tMagOf w (min k (2 ^ w - 1))).1 * 2 ^ (tMagOf w (min k (2 ^ w - 1))).2 + (k - min k (2 ^ w - 1) : ℕ)

theorem taperedSeq_of_lt {w k : Nat} (hk : k < 2 ^ w) : taperedSeq w k = (tMagOf w k).1 * 2 ^ (tMagOf w k).2 := by
  rw [taperedSeq, Nat.min_eq_left (by omega), Nat.sub_self, Nat.cast_zero, add_zero]

theorem taperedSeq_strictMono {w : Nat} (hw : w = 5 ∨ w = 7) : StrictMono (taperedSeq w) := by
  refine strictMono_nat_of_lt_succ fun k => ?_
  by_cases hk : k + 1 < 2 ^ w
  · rw [taperedSeq_of_lt hk, taperedSeq_of_lt (by omega)]
    exact (magLt_iff _ _ _ _).mp (tMagOf_lt hw (by omega))
  · rw [taperedSeq, taperedSeq, Nat.min_eq_right (by omega), Nat.min_eq_right (by omega)]
    have : k - (2 ^ w - 1) < k + 1 - (2 ^ w - 1) := by omega
    linarith [(Nat.cast_lt (α := ℝ)).mpr this]

theorem taperedSeq_zero (w : Nat) : taperedSeq w 0 = 0 := by simp [taperedSeq, tMagOf]

theorem tMagOf_of_pos {w k : Nat} (hk : 0 < k) : tMagOf w k = tMagnitude w k := if_neg (by omega)

/-! ## `TEncode` -/

section
variable {w : Nat} {M : Nat} {e : Int}

/-- The search finds the last code whose value is at or below the magnitude. -/
theorem tSearch_spec : ∀ {k lo : Nat}, lo + 2 ^ k ≤ 2 ^ w → taperedSeq w lo ≤ M * 2 ^ e → M * 2 ^ e < taperedSeq w (lo + 2 ^ k) →
    taperedSeq w (tSearch w M e k lo) ≤ M * 2 ^ e ∧ M * 2 ^ e < taperedSeq w (tSearch w M e k lo + 1)
  | 0, lo, _, hlow, hhigh => ⟨hlow, hhigh⟩
  | k + 1, lo, hfit, hlow, hhigh => by
    have hpow := pow_succ 2 k
    have hpos : 0 < 2 ^ k := by positivity
    have hlt : magLt M e (tMagnitude w (lo + 2 ^ k)).1 (tMagnitude w (lo + 2 ^ k)).2 = true ↔
        (M : ℝ) * 2 ^ e < taperedSeq w (lo + 2 ^ k) := by
      rw [magLt_iff, taperedSeq_of_lt (by omega), tMagOf_of_pos (by omega)]
    rw [tSearch]
    dsimp only
    by_cases h : magLt M e (tMagnitude w (lo + 2 ^ k)).1 (tMagnitude w (lo + 2 ^ k)).2 = true
    · rw [if_pos h]
      exact tSearch_spec (by omega) hlow (hlt.mp h)
    · rw [if_neg h]
      exact tSearch_spec (by omega) (not_lt.mp (mt hlt.mpr h)) (by rwa [Nat.add_assoc, ← Nat.mul_two, ← hpow])

/-- Which of two neighbours is nearer, by their distances in units of the smallest exponent. -/
theorem tEncode_distances {lm hm : Nat} {le he : Int} {lo : Nat} (hlo : lo = 0 → lm = 0)
    (hlow : (lm : ℝ) * 2 ^ le ≤ M * 2 ^ e) (hhigh : (M : ℝ) * 2 ^ e < hm * 2 ^ he) :
    let ee := if (alignPair lm le M e).2.2 ≤ he then (alignPair lm le M e).2.2 else he
    let a := (alignPair lm le M e).2.1 <<< ((alignPair lm le M e).2.2 - ee).toNat
    let l := if lo = 0 then 0 else lm <<< (le - ee).toNat
    let h := hm <<< (he - ee).toNat
    (a - l < h - a ↔ (M : ℝ) * 2 ^ e < ((lm : ℝ) * 2 ^ le + hm * 2 ^ he) / 2) ∧
    (h - a < a - l ↔ ((lm : ℝ) * 2 ^ le + hm * 2 ^ he) / 2 < (M : ℝ) * 2 ^ e) := by
  intro ee a l h
  have hQ : (0 : ℝ) < 2 ^ ee := by positivity
  have hle : (alignPair lm le M e).2.2 ≤ le := by simp only [alignPair]; split <;> omega
  have hee : ee ≤ (alignPair lm le M e).2.2 ∧ ee ≤ he := by simp only [ee]; split <;> omega
  have ha : (a : ℝ) * 2 ^ ee = M * 2 ^ e := (shiftLeft_mul_zpow _ hee.1).trans (alignPair_spec lm le M e).2
  have hh : (h : ℝ) * 2 ^ ee = hm * 2 ^ he := shiftLeft_mul_zpow _ hee.2
  have hl : (l : ℝ) * 2 ^ ee = lm * 2 ^ le := by
    by_cases h0 : lo = 0
    · simp [l, h0, hlo h0]
    · simp only [l, if_neg h0]
      exact shiftLeft_mul_zpow _ (by omega)
  rw [← ha, ← hl] at hlow
  rw [← ha, ← hh] at hhigh
  have hla : l ≤ a := by exact_mod_cast le_of_mul_le_mul_right hlow hQ
  have hah : a < h := by exact_mod_cast lt_of_mul_lt_mul_right hhigh hQ.le
  have hmid : ((lm : ℝ) * 2 ^ le + hm * 2 ^ he) / 2 = (l + h) / 2 * 2 ^ ee := by rw [← hl, ← hh]; ring
  rw [hmid, ← ha, mul_lt_mul_iff_left₀ hQ, mul_lt_mul_iff_left₀ hQ, lt_div_iff₀ two_pos, div_lt_iff₀ two_pos]
  norm_cast
  omega

/-- The nearer neighbour, and the even one in a tie. -/
theorem step_of_distances {g : Nat → ℝ} {neg : Bool} {a : ℝ} {lo dlo dhi : Nat}
    (hbelow : dlo < dhi ↔ a < (g lo + g (lo + 1)) / 2) (habove : dhi < dlo ↔ (g lo + g (lo + 1)) / 2 < a) :
    let k := if dlo < dhi then lo else if dhi < dlo then lo + 1 else if lo % 2 = 0 then lo else lo + 1
    StepsUp g .rn neg a lo ∧ k = lo + 1 ∨ ¬StepsUp g .rn neg a lo ∧ k = lo := by
  intro k
  rcases Nat.lt_trichotomy dlo dhi with hlt | rfl | hgt
  · have hk : k = lo := if_pos hlt
    have ha := hbelow.mp hlt
    refine .inr ⟨?_, hk⟩
    rintro (h | ⟨h, -⟩) <;> linarith
  · have hk : k = if lo % 2 = 0 then lo else lo + 1 := by simp only [k, lt_irrefl, if_false]
    have ha : a = (g lo + g (lo + 1)) / 2 :=
      le_antisymm (not_lt.mp (mt habove.mpr (lt_irrefl _))) (not_lt.mp (mt hbelow.mpr (lt_irrefl _)))
    by_cases heven : lo % 2 = 0
    · refine .inr ⟨?_, by rw [hk, if_pos heven]⟩
      rintro (h | ⟨-, h⟩)
      · linarith
      · omega
    · exact .inl ⟨.inr ⟨ha, by omega⟩, by rw [hk, if_neg heven]⟩
  · have hk : k = lo + 1 := by simp only [k, if_neg (lt_asymm hgt), if_pos hgt]
    exact .inl ⟨.inl (habove.mp hgt), hk⟩

variable {neg : Bool} (hw : w = 5 ∨ w = 7) (hM : M ≠ 0)
include hw hM

theorem tEncode_saturates (h : taperedSeq w (2 ^ w - 1) < M * 2 ^ e) :
    tEncode (w + 1) (.fin neg M e) = ((if neg then 2 ^ w else 0) + (2 ^ w - 1), ⟨flagSAT ||| flagNX, 1⟩) := by
  have htop : 0 < 2 ^ w - 1 := by rcases hw with rfl | rfl <;> decide
  rw [taperedSeq_of_lt (by omega), tMagOf_of_pos htop, ← magLt_iff] at h
  simp only [tEncode, Nat.add_sub_cancel, if_neg hM, h, if_true]

/-- The code that `TEncode` chooses is the nearest one, and the even one in a tie. -/
theorem tEncode_roundsBy (h : (M : ℝ) * 2 ^ e ≤ taperedSeq w (2 ^ w - 1)) :
    ∃ lo k ev, RoundsBy (taperedSeq w) .rn neg (M * 2 ^ e) lo k ∧ k < 2 ^ w ∧
      tEncode (w + 1) (.fin neg M e) = (if k = 0 then 0 else (if neg then 2 ^ w else 0) + k, ev) ∧
      ev = if (M : ℝ) * 2 ^ e = taperedSeq w lo then evNone
        else evAnd (evFlags flagNX) (evIf (decide ((M : ℝ) * 2 ^ e < taperedSeq w 1)) flagUF) := by
  have hmono := taperedSeq_strictMono hw
  have h32 : 32 ≤ 2 ^ w := by rcases hw with rfl | rfl <;> decide
  have hnosat : ¬magLt (tMagnitude w (2 ^ w - 1)).1 (tMagnitude w (2 ^ w - 1)).2 M e = true := by
    rw [magLt_iff, ← tMagOf_of_pos (by omega), ← taperedSeq_of_lt (by omega)]
    exact not_lt.mpr h
  have hpast : (M : ℝ) * 2 ^ e < taperedSeq w (0 + 2 ^ w) := h.trans_lt (hmono (by omega))
  obtain ⟨hlow, hhigh⟩ := tSearch_spec (by omega) (by rw [taperedSeq_zero]; positivity) hpast
  have hlo : tSearch w M e w 0 < 2 ^ w := hmono.lt_iff_lt.mp (hlow.trans_lt (by rwa [Nat.zero_add] at hpast))
  simp only [tEncode, Nat.add_sub_cancel, if_neg hM, if_neg hnosat]
  generalize tSearch w M e w 0 = lo at *
  have hexact : magEq (tMagOf w lo).1 (tMagOf w lo).2 M e = true ↔ (M : ℝ) * 2 ^ e = taperedSeq w lo := by
    rw [magEq_iff, ← taperedSeq_of_lt hlo, eq_comm]
  by_cases hx : (M : ℝ) * 2 ^ e = taperedSeq w lo
  · refine ⟨lo, lo, evNone, ⟨hlow, hhigh, .inr ⟨?_, rfl⟩⟩, hlo, ?_, (if_pos hx).symm⟩
    · rw [hx]
      exact not_stepsUp_self hmono .rn neg lo
    · rw [if_pos (hexact.mpr hx)]
      split <;> rfl
  · have hlast : lo + 1 < 2 ^ w := by
      by_contra hcon
      obtain rfl : lo = 2 ^ w - 1 := by omega
      exact hx (le_antisymm h hlow)
    have huf : magLt M e (tMagnitude w 1).1 (tMagnitude w 1).2 = decide ((M : ℝ) * 2 ^ e < taperedSeq w 1) := by
      rw [Bool.eq_iff_iff, magLt_iff, decide_eq_true_iff, taperedSeq_of_lt (by omega), tMagOf_of_pos one_pos]
    obtain ⟨hbelow, habove⟩ := tEncode_distances (lo := lo) (M := M) (e := e) (lm := (tMagOf w lo).1) (le := (tMagOf w lo).2)
      (hm := (tMagOf w (lo + 1)).1) (he := (tMagOf w (lo + 1)).2) (fun h0 => by rw [h0]; rfl)
      (by rwa [← taperedSeq_of_lt hlo]) (by rwa [← taperedSeq_of_lt hlast])
    rw [← taperedSeq_of_lt hlo, ← taperedSeq_of_lt hlast] at hbelow habove
    rw [if_neg (mt hexact.mp hx), huf]
    have hstep := step_of_distances (neg := neg) hbelow habove
    exact ⟨lo, _, _, ⟨hlow, hhigh, hstep⟩, by omega, rfl, (if_neg hx).symm⟩

/-- `TEncode` of R58 of an exact value that is not zero. -/
theorem tEncode_taperedTo {m : BitVec 3} (hm : w = taperedBits m) :
    TaperedTo m (exactOf (.fin neg M e)) (tEncode (w + 1) (.fin neg M e)).1 (tEncode (w + 1) (.fin neg M e)).2 := by
  have ha : (0 : ℝ) < M * 2 ^ e := mul_pos (Nat.cast_pos.mpr (Nat.pos_of_ne_zero hM)) (by positivity)
  have hmono := taperedSeq_strictMono hw
  have h32 : 32 ≤ 2 ^ w := by rcases hw with rfl | rfl <;> decide
  have hmag : ∀ k < 2 ^ w, (taperedMagnitude w k : ℝ) = taperedSeq w k := fun k hk => by
    rw [taperedMagnitude_eq hw hk, taperedSeq_of_lt hk]
  rw [TaperedTo, ← hm]
  dsimp only
  rw [exactOf, abs_signed neg ha.le]
  refine ⟨if neg then 2 ^ w else 0, ?_, ?_, ?_⟩
  · cases neg with
    | false => exact .inr ⟨ha.le, rfl⟩
    | true => exact .inl ⟨neg_neg_of_pos ha, rfl⟩
  · rw [hmag _ (by omega)]
    intro h
    rw [tEncode_saturates hw hM h]
    exact ⟨rfl, rfl⟩
  · rw [hmag _ (by omega), hmag _ (by omega)]
    intro h
    obtain ⟨lo, k, ev, hby, hk, heq, hev⟩ := tEncode_roundsBy (neg := neg) hw hM h
    have hx := hby.exact_iff hmono
    rw [heq]
    refine ⟨k, hk, rfl, ?_, fun j hj => ?_, ?_, ?_⟩
    · rw [hev]; dsimp only; split
      · rfl
      · unfold evIf; split <;> rfl
    · rw [hmag k hk, hmag j hj]
      exact hby.nearest hmono j
    · rw [hmag k hk, ← hx]
      intro hx
      rw [hev, if_pos hx]; rfl
    · rw [hmag k hk, ne_eq, ← hx]
      intro hx
      rw [hev, if_neg hx]
      refine ⟨fun hlt => ?_, fun hge => ?_⟩
      · rw [decide_eq_true hlt]; rfl
      · rw [decide_eq_false (not_lt.mpr hge)]; rfl

end

end Sys2Proof.Proofs.Formats
end

section
/-!
Conversions: one element, rounded once (R57, R58, R60, R65, R151).
-/
namespace Sys2Proof.Proofs.Formats
open Sys2Proof Sys2Proof.Machine Sys2Proof.Claims

/-! ## Narrowing into a format -/

theorem cases_tapered {m : BitVec 3} (hm : 3 ≤ m.toNat) :
    (taperedBits m = 7 ∧ fmtOfF m = .t8) ∨ (taperedBits m = 5 ∧ fmtOfF m = .t6) := by
  revert m; decide

theorem fmtDecode_ieee {m : BitVec 3} (hm : m.toNat < 3) (signed : Bool) (x : Nat) :
    fmtDecode (fmtOfF m) signed x = ieeeDecode (fmtOfF m) x := by
  rcases cases_ieee hm with rfl | rfl | rfl <;> rfl

theorem fmtDecode_tapered {m : BitVec 3} (hm : 3 ≤ m.toNat) (signed : Bool) (x : Nat) :
    fmtDecode (fmtOfF m) signed x = tDecode (taperedBits m + 1) x := by
  rcases cases_tapered hm with ⟨hw, hf⟩ | ⟨hw, hf⟩ <;> rw [hw, hf] <;> rfl

theorem narrow_ieee {m : BitVec 3} (hm : m.toNat < 3) (rm : RM) (v : FVal) :
    narrow (fmtOfF m) rm v = roundVal (fmtOfF m) rm v := by
  rcases cases_ieee hm with rfl | rfl | rfl <;> rfl

theorem narrow_tapered {m : BitVec 3} (hm : 3 ≤ m.toNat) (rm : RM) (v : FVal) :
    narrow (fmtOfF m) rm v = tEncode (taperedBits m + 1) v := by
  rcases cases_tapered hm with ⟨hw, hf⟩ | ⟨hw, hf⟩ <;> rw [hw, hf] <;> rfl

theorem narrow_nan (m : BitVec 3) (rm : RM) (sig : Bool) : narrow (fmtOfF m) rm (.nan sig) = (elemNaN m, evNone) := by
  rcases Nat.lt_or_ge m.toNat 3 with hm | hm
  · rw [narrow_ieee hm, roundVal, defaultNaN_eq hm, elemNaN, if_pos hm]
  · rw [narrow_tapered hm, tEncode, elemNaN, if_neg (not_lt.mpr hm), Nat.add_sub_cancel]

theorem narrow_inf (m : BitVec 3) (rm : RM) (p : Prop) [Decidable p] : narrow (fmtOfF m) rm (.inf (decide p)) =
    if m.toNat < 3 then (infOf m p, evNone)
    else ((if p then 2 ^ taperedBits m else 0) + (2 ^ taperedBits m - 1), ⟨flagSAT ||| flagNX, 1⟩) := by
  rcases Nat.lt_or_ge m.toNat 3 with hm | hm
  · rw [narrow_ieee hm, roundVal_inf hm, if_pos hm, infOf_congr m decide_eq_true_iff]
  · rw [narrow_tapered hm, if_neg (not_lt.mpr hm)]
    simp only [tEncode, decide_eq_true_eq]
    rfl

theorem narrow_zero (m : BitVec 3) (rm : RM) (p : Prop) [Decidable p] (e : Int) : narrow (fmtOfF m) rm (.fin (decide p) 0 e) =
    (if m.toNat < 3 then zeroOf m p else 0, evNone) := by
  rcases Nat.lt_or_ge m.toNat 3 with hm | hm
  · rw [narrow_ieee hm, roundVal_zero hm, if_pos hm, zeroOf_congr m decide_eq_true_iff]
  · rw [narrow_tapered hm, if_neg (not_lt.mpr hm)]; rfl

theorem narrowsTo_narrow (m : BitVec 3) (rm : BitVec 2) (neg : Bool) {M : Nat} (e : Int) (hM : M ≠ 0) :
    NarrowsTo m rm (exactOf (.fin neg M e)) (narrow (fmtOfF m) (rmOf rm) (.fin neg M e)) := by
  refine ⟨fun hm => ?_, fun hm => ?_⟩
  · rw [narrow_ieee hm]
    exact roundVal_roundsTo hm hM
  · rw [narrow_tapered hm]
    refine tEncode_taperedTo ?_ hM rfl
    rcases cases_tapered hm with ⟨hw, -⟩ | ⟨hw, -⟩ <;> simp [hw]

/-! ## Elements of a source -/

theorem tMagnitude_pos (w k : Nat) : (tMagnitude w k).1 ≠ 0 := by
  simp only [tMagnitude]
  exact Nat.ne_of_gt (Nat.add_pos_left (by positivity) _)

/-- What an element decodes to: a NaN, an infinity, or its value. -/
theorem fmtDecode_spec (k : BitVec 3) (x : Nat) :
    let s := x % 2 ^ eWidth k
    (ElemNaN k s → fmtDecode (fmtOfF k) false x = .nan (decide (k.toNat < 3 ∧ IsSignalling k s))) ∧
    (ElemInf k s → fmtDecode (fmtOfF k) false x = .inf (decide (fNeg k s))) ∧
    (¬ElemNaN k s → ¬ElemInf k s → ∃ neg M e, fmtDecode (fmtOfF k) false x = .fin neg M e ∧
      exactOf (.fin neg M e) = elemValue k s ∧ (M = 0 → neg = decide (k.toNat < 3 ∧ fNeg k s))) := by
  rcases Nat.lt_or_ge k.toNat 3 with hk | hk
  · simp only [eWidth, ElemNaN, ElemInf, elemValue, hk, if_true, true_and]
    rw [fmtDecode_ieee hk, ← ieeeDecode_mod hk]
    refine ⟨ieeeDecode_nan hk, ieeeDecode_inf hk, fun hnan hinf => ?_⟩
    exact ⟨_, _, _, ieeeDecode_fin hk fun h => hnan ⟨h, fun h0 => hinf ⟨h, h0⟩⟩, exactOf_finite k _, fun _ => rfl⟩
  · have hk' := not_lt.mpr hk
    have hw : taperedBits k = 5 ∨ taperedBits k = 7 := by
      rcases cases_tapered hk with ⟨hw, -⟩ | ⟨hw, -⟩ <;> simp [hw]
    simp only [eWidth, ElemNaN, ElemInf, elemValue, hk', if_false, false_and, not_false_eq_true, forall_true_left,
      IsEmpty.forall_iff, true_and, decide_false]
    rw [fmtDecode_tapered hk]
    generalize taperedBits k = w at hw
    have hmag : x % 2 ^ (w + 1) % 2 ^ w = x % 2 ^ w := Nat.mod_mod_of_dvd _ (pow_dvd_pow 2 (by omega))
    have hsign : x % 2 ^ (w + 1) / 2 ^ w = x / 2 ^ w % 2 := by rw [pow_succ, Nat.mod_mul_right_div_self]
    have hbit : x.testBit w = decide (x % 2 ^ (w + 1) / 2 ^ w % 2 = 1) := by
      rw [hsign, Nat.mod_mod, Nat.testBit_eq_decide_div_mod_eq]
    have hsplit := Nat.div_add_mod (x % 2 ^ (w + 1)) (2 ^ w)
    have hlt : x % 2 ^ w < 2 ^ w := Nat.mod_lt _ (by positivity)
    have htop : x % 2 ^ (w + 1) / 2 ^ w < 2 := hsign ▸ Nat.mod_lt _ two_pos
    rw [hmag] at hsplit
    simp only [tDecode, Nat.add_sub_cancel, hbit, hmag]
    generalize x % 2 ^ (w + 1) / 2 ^ w = t at *
    generalize x % 2 ^ (w + 1) = s at *
    generalize x % 2 ^ w = j at *
    have ht : t = 0 ∨ t = 1 := by omega
    refine ⟨fun hnan => ?_, fun hnan => ?_⟩
    · obtain ⟨rfl, rfl⟩ : j = 0 ∧ t = 1 := by
        rcases ht with rfl | rfl <;> omega
      rfl
    · have hval : ∀ neg : Bool, neg = decide (t % 2 = 1) → exactOf (.fin neg (tMagOf w j).1 (tMagOf w j).2) =
          (((if t % 2 = 1 then -1 else 1) * taperedMagnitude w j : ℚ) : ℝ) := fun neg hneg => by
        rw [exactOf, Rat.cast_mul, taperedMagnitude_eq hw hlt, hneg, signed]
        rcases ht with rfl | rfl <;> norm_num
      by_cases hj : j = 0
      · obtain rfl : t = 0 := by rcases ht with rfl | rfl <;> omega
        subst hj
        exact ⟨false, 0, 0, rfl, hval false rfl, fun _ => rfl⟩
      · rw [if_neg hj]
        have hmagOf : tMagOf w j = tMagnitude w j := if_neg hj
        exact ⟨_, _, _, rfl, hmagOf ▸ hval _ rfl, fun h0 => absurd h0 (tMagnitude_pos w j)⟩

/-- The format that a record names. -/
theorem recordFmt_eq {record : Nat} (h : record % 2 ^ 4 ∈ [1, 2, 3, 4, 5]) :
    recordFmt record = fmtOfF (BitVec.ofNat 3 (record % 2 ^ 4 - 1)) := by
  rw [recordFmt, bits_zero]
  have hlt : record % 2 ^ 4 < 16 := Nat.mod_lt _ (by norm_num)
  revert hlt h
  generalize record % 2 ^ 4 = n
  intro hmem hlt
  interval_cases n <;> simp at hmem <;> rfl

theorem signed_zpow (neg : Bool) (M : Nat) (e d : Int) : exactOf (.fin neg M (e + d)) = exactOf (.fin neg M e) * 2 ^ d := by
  rw [exactOf, exactOf, signed_mul, zpow_add₀ two_ne_zero, mul_assoc]

theorem scale_zero (v : FVal) : v.scale 0 = v := by
  cases v with
  | nan _ => rfl
  | inf _ => rfl
  | fin n M e => rw [FVal.scale, Int.add_zero]

theorem evIf_eq (c : Bool) (f : BitVec 8) : evIf c f = ⟨if c then f else 0, 0⟩ := by cases c <;> rfl

/-- The source of a conversion: the element times its scale, or a NaN for the scale byte 0xFF (R65). -/
theorem convSource_eq (record x scale : Nat) :
    let v := fmtDecode (recordFmt record) false x
    let scaled := record / 2 ^ 4 % 2 = 1
    let bad := scaled ∧ scale = 0xFF
    convSource record x scale = (if bad then .nan false else v.scale (if scaled then (scale : ℤ) - 127 else 0),
      ⟨(if v.isSig then flagNV else 0) ||| (if bad then flagNV ||| flagNANP else 0), 0⟩) := by
  intro v scaled bad
  rw [convSource, bit_eq, evIf_eq]
  by_cases hs : scaled
  · rw [if_pos (decide_eq_true hs), if_pos hs, scaleE8]
    by_cases hb : scale = 0xFF
    · have hbad : bad := ⟨hs, hb⟩
      simp only [if_pos hb, if_pos hbad]; rfl
    · have hbad : ¬bad := fun h => hb h.2
      simp only [if_neg hb, if_neg hbad]; rfl
  · have hbad : ¬bad := fun h => hs h.1
    rw [if_neg (mt of_decide_eq_true hs)]
    simp [if_neg hs, if_neg hbad, scale_zero, v]

/-- What a conversion meets as its source: a NaN, an infinity, or the value of the element times its scale. -/
theorem convSource_spec {record : Nat} (h : record % 2 ^ 4 ∈ [1, 2, 3, 4, 5]) (x scale : Nat) :
    let k : BitVec 3 := BitVec.ofNat 3 (record % 2 ^ 4 - 1)
    let s := x % 2 ^ eWidth k
    let scaled := record / 2 ^ 4 % 2 = 1
    let bad := scaled ∧ scale = 0xFF
    let met : BitVec 8 := (if k.toNat < 3 ∧ IsSignalling k s then flagNV else 0) ||| (if bad then flagNV ||| flagNANP else 0)
    (ElemNaN k s ∨ bad → ∃ sig, convSource record x scale = (.nan sig, ⟨met, 0⟩)) ∧
    (ElemInf k s → ¬bad → convSource record x scale = (.inf (decide (fNeg k s)), evNone)) ∧
    (¬ElemNaN k s → ¬ElemInf k s → ¬bad → ∃ neg M e, convSource record x scale = (.fin neg M e, evNone) ∧
      exactOf (.fin neg M e) = elemValue k s * (2 : ℝ) ^ (if scaled then (scale : ℤ) - 127 else 0) ∧
      (M = 0 → neg = decide (k.toNat < 3 ∧ fNeg k s))) := by
  intro k s scaled bad met
  obtain ⟨hnan, hinf, hfin⟩ := fmtDecode_spec k x
  have heq := convSource_eq record x scale
  rw [recordFmt_eq h] at heq
  have hnotNaN : ¬ElemNaN k s → ¬(k.toNat < 3 ∧ IsSignalling k s) := fun h hsig => h (by rw [ElemNaN, if_pos hsig.1]; exact hsig.2.1)
  have hsig : (fmtDecode (fmtOfF k) false x).isSig = decide (k.toNat < 3 ∧ IsSignalling k s) := by
    by_cases hn : ElemNaN k s
    · rw [hnan hn]; rfl
    · rw [decide_eq_false (hnotNaN hn)]
      by_cases hi : ElemInf k s
      · rw [hinf hi]; rfl
      · obtain ⟨neg, M, e, hv, -⟩ := hfin hn hi
        rw [hv]; rfl
  have hmet : convSource record x scale = (if bad then .nan false else
      (fmtDecode (fmtOfF k) false x).scale (if scaled then (scale : ℤ) - 127 else 0), ⟨met, 0⟩) := by
    have hflag : (if (fmtDecode (fmtOfF k) false x).isSig then flagNV else (0 : BitVec 8)) =
        if k.toNat < 3 ∧ IsSignalling k s then flagNV else 0 := by simp only [hsig, decide_eq_true_eq]
    rw [heq]
    exact Prod.ext rfl (congrArg (fun f => (⟨f ||| if bad then flagNV ||| flagNANP else 0, 0⟩ : Ev)) hflag)
  have hnone : ¬ElemNaN k s → ¬bad → met = 0 := fun hn hb => by simp only [met, if_neg hb, if_neg (hnotNaN hn)]; rfl
  refine ⟨fun hn => ?_, fun hi hb => ?_, fun hn hi hb => ?_⟩
  · by_cases hb : bad
    · exact ⟨false, by rw [hmet, if_pos hb]⟩
    · exact ⟨_, by rw [hmet, if_neg hb, hnan (hn.resolve_right hb)]; rfl⟩
  · have hn : ¬ElemNaN k s := by rw [ElemNaN, if_pos hi.1]; exact fun hn => hn.2 hi.2.2
    rw [hmet, if_neg hb, hinf hi, hnone hn hb]; rfl
  · obtain ⟨neg, M, e, hv, hvalue, hzero⟩ := hfin hn hi
    refine ⟨neg, M, e + (if scaled then (scale : ℤ) - 127 else 0), ?_, ?_, hzero⟩
    · rw [hmet, if_neg hb, hv, hnone hn hb]; rfl
    · rw [signed_zpow, hvalue]

/-! ## The conversions -/

theorem intRange_eq (m : BitVec 3) : intRange (wWidth m) (wSigned m) = (lowest m, highest m) := by
  rw [intRange, wWidth_eq, wSigned_eq, lowest, highest]
  split <;> rfl

/-- `ToInt` of R60 of a value. -/
theorem toInt_fin (rm : BitVec 2) (lo hi : Int) (neg : Bool) (M : Nat) (e : Int) : ∃ t,
    IntegralTo rm (exactOf (.fin neg M e)) t ∧
    (hi < t → toInt (.fin neg M e) lo hi (rmOf rm) = (hi, ⟨flagNV ||| flagSAT ||| flagNX, 1⟩)) ∧
    (¬hi < t → t < lo → toInt (.fin neg M e) lo hi (rmOf rm) = (lo, ⟨flagNV ||| flagSAT ||| flagNX, 1⟩)) ∧
    (¬hi < t → ¬t < lo → toInt (.fin neg M e) lo hi (rmOf rm) = (t, ⟨if (t : ℝ) = exactOf (.fin neg M e) then 0 else flagNX, 0⟩)) := by
  obtain ⟨hround, hinexact⟩ := toIntegral_spec rm neg M e
  refine ⟨_, hround, fun h => ?_, fun h h' => ?_, fun h h' => ?_⟩
  · simp only [toInt, if_pos h]
  · simp only [toInt, if_neg h, if_pos h']
  · simp only [toInt, if_neg h, if_neg h', evIf_eq]
    by_cases hx : ((toIntegral (rmOf rm) neg M e).1 : ℝ) = exactOf (.fin neg M e)
    · rw [if_pos hx, if_neg (mt hinexact.mp (not_not.mpr hx))]
    · rw [if_neg hx, if_pos (hinexact.mpr hx)]

theorem exactOf_eq_zero {neg : Bool} {M : Nat} {e : Int} : exactOf (.fin neg M e) = 0 ↔ M = 0 := by
  have he : (2 : ℝ) ^ e ≠ 0 := by positivity
  cases neg <;> simp [exactOf, signed, he]

theorem exactOf_fvalOfInt (t : Int) : exactOf (fvalOfInt t) = t := by
  rw [fvalOfInt, exactOf, zpow_zero, mul_one]
  by_cases h : t < 0
  · rw [decide_eq_true h, signed_true, ← Int.cast_natCast, Int.ofNat_natAbs_of_nonpos h.le]
    push_cast; ring
  · rw [decide_eq_false h, signed, if_neg (by simp), ← Int.cast_natCast, Int.natAbs_of_nonneg (not_lt.mp h)]

theorem lowest_le_highest (m : BitVec 3) : lowest m ≤ highest m := by
  revert m; decide

theorem conversionsRoundOnce : ConversionsRoundOnce := by
  intro op m rm record x scale hop hwf hrec hscale k s scaled bad v met got int clamped
  have hcode : record % 2 ^ 4 ∈ [1, 2, 3, 4, 5] := by
    by_contra h
    exact hrec (.inl h)
  obtain ⟨hnan, hinf, hfin⟩ := convSource_spec hcode x scale
  refine ⟨fun h => ?_, fun h => ?_, fun h => ?_⟩
  · have hgot : got = ((narrow (fmtOfF m) (rmOf rm) (convSource record x scale).1).1,
        evAnd (convSource record x scale).2 (narrow (fmtOfF m) (rmOf rm) (convSource record x scale).1).2) := by
      simp only [got, h, convElement]; rfl
    rw [hgot]
    refine ⟨fun hn => ?_, fun hi hb => ?_, fun hn hi hb hv => ?_, fun hn hi hb hv => ?_⟩
    · obtain ⟨sig, hsrc⟩ := hnan hn
      rw [hsrc, narrow_nan, evAnd_evNone]
    · rw [hinf hi hb, narrow_inf, evAnd_evNone_left]
    · obtain ⟨neg, M, e, hsrc, hvalue, hzero⟩ := hfin hn hi hb
      obtain rfl : M = 0 := exactOf_eq_zero.mp (hvalue.trans hv)
      rw [hsrc, hzero rfl, narrow_zero, evAnd_evNone_left]
    · obtain ⟨neg, M, e, hsrc, hvalue, -⟩ := hfin hn hi hb
      rw [hsrc, evAnd_evNone_left, show v = exactOf (.fin neg M e) from hvalue.symm]
      refine narrowsTo_narrow m rm neg e fun h0 => hv ?_
      rw [show v = exactOf (.fin neg M e) from hvalue.symm, exactOf_eq_zero.mpr h0]
  · have hgot : got = (int (toInt (convSource record x scale).1 (lowest m) (highest m) (rmOf rm)).1,
        evAnd (convSource record x scale).2 (toInt (convSource record x scale).1 (lowest m) (highest m) (rmOf rm)).2) := by
      simp only [got, h, convElement, convCvti, intRange_eq, int]
    rw [hgot]
    refine ⟨fun hn => ?_, fun hi hb => ?_, fun hn hi hb => ?_⟩
    · obtain ⟨sig, hsrc⟩ := hnan hn
      rw [hsrc]
      exact Prod.ext (by simp [toInt, int]) rfl
    · rw [hinf hi hb, evAnd_evNone_left]
      by_cases hneg : fNeg k s
      · rw [decide_eq_true hneg, if_pos hneg]; rfl
      · rw [decide_eq_false hneg, if_neg hneg]; rfl
    · obtain ⟨neg, M, e, hsrc, hvalue, -⟩ := hfin hn hi hb
      obtain ⟨t, hround, habove, hbelow, hin⟩ := toInt_fin rm (lowest m) (highest m) neg M e
      rw [hsrc, evAnd_evNone_left, show v = exactOf (.fin neg M e) from hvalue.symm]
      refine ⟨t, hround, fun h => ?_, fun h => ?_, fun h h' => ?_⟩
      · rw [habove h]
      · rw [hbelow (not_lt.mpr (h.le.trans (lowest_le_highest m))) h]
      · rw [hin (not_lt.mpr h') (not_lt.mpr h)]
        exact ⟨rfl, rfl, fun hx => if_pos hx, fun hx => if_neg hx⟩
  · have hgot : got = narrow (fmtOfF k) (rmOf rm) (fvalOfInt (opOf m x)) := by
      simp only [got, h, convElement, convCvtf, recordFmt_eq hcode, opVal_eq]; rfl
    have hvalue : exactOf (fvalOfInt (opOf m x)) = (opOf m x : ℝ) := exactOf_fvalOfInt _
    rw [hgot]
    refine ⟨fun h0 => ?_, fun h0 => ?_⟩
    · rw [h0, show fvalOfInt 0 = .fin (decide False) 0 0 from rfl, narrow_zero]
      split <;> rfl
    · rw [← hvalue]
      exact narrowsTo_narrow k rm _ 0 (Int.natAbs_ne_zero.mpr h0)

/-- Settles O29: the arithmetic triggers and the conversions, each from the exact value that its operands stand for. -/
theorem floatResultsAreTheExactValueRoundedOnce : Obligations.FloatResultsAreTheExactValueRoundedOnce :=
  ⟨arithmeticRoundsOnce, conversionsRoundOnce⟩

end Sys2Proof.Proofs.Formats
end

section
/-!
The triggers of VEC that reduce their lanes, and those of block float (R144, R154 to R156).
-/
namespace Sys2Proof.Proofs.Formats
open Sys2Proof Sys2Proof.Machine Sys2Proof.Claims

variable {i : Instr} {s : State} {m : BitVec 3} {rm : BitVec 2} {op : VecOp}

theorem laneCount_fmtOfF (hm : m.toNat < 3) : laneCount (fmtOfF m) = 1024 / fWidth m := by
  rcases cases_ieee hm with rfl | rfl | rfl <;> rfl

theorem lanes_eq (b n x : Nat) : lanes b n x = (List.range n).map (laneOf b x) :=
  List.map_congr_left fun i _ => lane_eq b x i

/-- A reduction takes its lanes and gives its result, or refuses their count (R144). -/
theorem vecReduce_cases (hm : m.toNat < 3) (hroom : Room s)
    (hop : op ∉ [VecOp.exp, .log, .rcp, .rsqrt, .tanh, .sigm, .vld, .vst, .vldWf]) {f : (fmt : Fmt) → (xs : List Nat) → Nat × Ev}
    (hexec : exec i s = runTrigger (vecReduce op m rm f) m s) :
    let l := (me s).lat.vec
    let w := fWidth m
    let n := if l.b.toNat % 2 ^ 7 = 0 then 1024 / w else l.b.toNat % 2 ^ 7
    let xs := (List.range n).map (laneOf w l.a.toNat)
    (n ≤ 1024 / w → Issues i s (.vec op rm) m ⟨some (BitVec.ofNat 1024 (f (fmtOfF m) xs).1), none, (f (fmtOfF m) xs).2⟩) ∧
    (1024 / w < n → TrapsWith i s 0x11 (l.b.setWidth 64) 0) := by
  intro l w n xs
  have hc := computesAtOnce_vec (rm := rm) hop
  have hl : (me s).lat.get (trigUnit (.vec op rm)) = l := rfl
  have hn : vecCount (fmtOfF m) l.b.toNat = n := by rw [vecCount, bits_zero, laneCount_fmtOfF hm]
  obtain ⟨-, hw, -⟩ := format_sizes hm
  refine ⟨fun h => ?_, fun h => ?_⟩
  · have hi := issues_of_computeMeaning hc hroom hexec (by
      rw [hl, laneCount_fmtOfF hm, hn]
      exact if_neg (Nat.not_lt.mpr h))
    rw [hl, hn, hw, lanes_eq] at hi
    exact hi
  · refine trapsWith_of_computeMeaning hc hroom hexec ?_
    rw [hl, laneCount_fmtOfF hm, hn]
    exact if_pos h

theorem exec_vecRedaddU (m : BitVec 3) (rm : BitVec 2) (s : State) : exec (.vecRedaddU m rm) s =
    runTrigger (vecReduce .redaddU m rm (fun f xs => sumUnordered (rmOf rm) (Config.reductionTree s.tick) (xs.map (toF32 f)))) m s :=
  rfl

theorem vecReductionsComplete : VecReductionsComplete := by
  intro m rm s hroom hm l w n xs f gives
  obtain ⟨hmax, hmax'⟩ := vecReduce_cases (i := .vecRedmax m) (rm := 0) hm hroom (by simp) rfl
  obtain ⟨hmin, hmin'⟩ := vecReduce_cases (i := .vecRedmin m) (rm := 0) hm hroom (by simp) rfl
  obtain ⟨hord, hord'⟩ := vecReduce_cases (i := .vecRedaddO m rm) (rm := rm) hm hroom (by simp) rfl
  obtain ⟨hunord, hunord'⟩ := vecReduce_cases hm hroom (by simp) (exec_vecRedaddU m rm s)
  obtain ⟨henc, henc'⟩ := vecReduce_cases (i := .vecBfenc m) (rm := 0) hm hroom (by simp) rfl
  refine ⟨fun h => ⟨hmax h, hmin h, hord h, hunord h, henc h⟩, fun h i hi => ?_⟩
  simp only [List.mem_cons, List.not_mem_nil, or_false] at hi
  rcases hi with rfl | rfl | rfl | rfl | rfl
  · exact hmax' h
  · exact hmin' h
  · exact hord' h
  · exact hunord' h
  · exact henc' h

/-! ## Block float -/

theorem bfM_eq (x : VWord) : bfM x.toNat = (x.setWidth 64).toInt := by
  rw [bfM, sext_eq, BitVec.ofNat_toNat]

theorem bfX_eq (x : VWord) : bfX x.toNat = (x.extractLsb' 64 32).toInt := by
  rw [bfX, sext_eq]; rfl

theorem bfPair_eq (p : Int × Int) : BitVec.ofNat 1024 (bfPair p) =
    ((BitVec.ofInt 32 p.2 ++ BitVec.ofInt 64 p.1 : BitVec 96)).setWidth 1024 := by
  refine BitVec.eq_of_toNat_eq ?_
  rw [bfPair, wrap_eq, wrap_eq, BitVec.toNat_ofNat, BitVec.toNat_setWidth, BitVec.toNat_append,
    ← Nat.shiftLeft_eq, ← Nat.shiftLeft_add_eq_or_of_lt (BitVec.isLt _), Nat.add_comm]

theorem blockFloatTriggersComplete : BlockFloatTriggersComplete := by
  intro m rm s hroom l mant expo sum dec
  refine ⟨?_, fun _ => ?_⟩
  · have h := issues_of_computeMeaning (i := .vecBfalign 0) (computesAtOnce_vec (op := .bfalign) (rm := 0) (by simp)) hroom rfl rfl
    simp only [trigUnit, LatchFile.get, bfM_eq, bfX_eq, bfPair_eq] at h
    exact h
  · have h := issues_of_computeMeaning (i := .vecBfdec m rm) (computesAtOnce_vec (op := .bfdec) (rm := rm) (by simp)) hroom rfl rfl
    simp only [trigUnit, LatchFile.get, bfM_eq, bfX_eq] at h
    exact h

end Sys2Proof.Proofs.Formats
end

section
/-!
Sums of lanes (R154): widening to FP32, one addition after the other, and trees of additions.
-/
namespace Sys2Proof.Proofs.Formats
open Sys2Proof Sys2Proof.Machine Sys2Proof.Claims

/-! ## Rounding what a format holds already -/

/-- Every number of few bits above the smallest quantum is one of the magnitudes. -/
theorem exists_magAt (fb : Nat) (qmin : Int) (d : Nat) {n : Nat} (hn : n < 2 ^ (fb + 1)) :
    ∃ B, magAt fb qmin B = n * 2 ^ ((d : ℤ) + qmin) := by
  induction d generalizing n with
  | zero => exact ⟨0 * 2 ^ fb + n, magAt_index fb qmin hn.le (.inl rfl)⟩
  | succ d ih =>
    by_cases hnorm : 2 ^ fb ≤ n
    · exact ⟨(d + 1) * 2 ^ fb + n, magAt_index fb qmin hn.le (.inr hnorm)⟩
    · obtain ⟨B, hB⟩ := ih (n := 2 * n) (by rw [pow_succ]; omega)
      refine ⟨B, hB.trans ?_⟩
      rw [show ((d + 1 : ℕ) : ℤ) + qmin = d + qmin + 1 by push_cast; ring, zpow_add_one₀ two_ne_zero]
      push_cast
      ring

section
variable {m : BitVec 3} (hm : m.toNat < 3)
include hm

/-- A value that the format holds is kept, without a flag. -/
theorem roundVal_of_eq (rm : RM) (neg : Bool) {M n : Nat} {e : Int} (hn : n < fInf m) (h : (M : ℝ) * 2 ^ e = fMagnitude m n) :
    roundVal (fmtOfF m) rm (.fin neg M e) = (signBit (fmtOfF m) neg + n, evNone) := by
  have hmono := fMagnitude_strictMono m
  by_cases hM : M = 0
  · subst hM
    rw [Nat.cast_zero, zero_mul, ← fMagnitude_zero m] at h
    obtain rfl := hmono.injective h
    rw [roundVal_zero hm, zeroOf, signBit_eq hm]
    rfl
  · obtain ⟨s, k, inexact, hby, hinexact, hround⟩ := roundFin_spec (f := fmtOfF m) (rm := rm) (neg := neg) (M := M) (e := e)
      (st := false) (a := M * 2 ^ e) hM rfl (by simp)
    rw [magAt_format hm] at hby hinexact
    have hs : s = n := by
      obtain ⟨hlow, hhigh, -⟩ := hby
      rw [h, hmono.le_iff_le] at hlow
      rw [h, hmono.lt_iff_lt] at hhigh
      omega
    have hk : fMagnitude m k = M * 2 ^ e := (hby.exact_iff hmono).mp (by rw [hs, h])
    obtain rfl : k = n := hmono.injective (hk.trans h)
    obtain rfl : inexact = false := by rw [← Bool.not_eq_true, hinexact]; exact not_not.mpr hk
    rw [roundVal, hround, infBits_eq hm, if_neg (not_le.mpr hn), Bool.false_and]
    rfl

theorem sigOf_value (x : Nat) : (sigOf m x : ℝ) * 2 ^ expOf m x = fMagnitude m (fMag m x) := by
  have h := (exactOf_finite m x).trans (valueOf_eq hm x)
  rwa [exactOf, signed_injective] at h

/-- An encoding that is no NaN is kept. -/
theorem roundVal_self (rm : RM) {x : Nat} (hx : x < 2 ^ fWidth m) (hnan : ¬IsNaN m x) :
    roundVal (fmtOfF m) rm (ieeeDecode (fmtOfF m) x) = (x, evNone) := by
  by_cases hones : ExpOnes m x
  · have hinf : IsInf m x := isInf_of_expOnes hones hnan
    rw [ieeeDecode_inf hm hinf, roundVal_inf hm, infOf_self hm hx hinf]
  · have hlt : fMag m x < fInf m := ((finite_iff hm x).mp ⟨hx, hones⟩).2
    rw [ieeeDecode_fin hm hones, roundVal_of_eq hm rm _ hlt (sigOf_value hm x), signBit_eq hm, zeroOf_congr m decide_eq_true_iff,
      ← eq_zeroOf_add hm hx]

end

/-! ## Lanes widened to FP32 -/

/-- A finite value of a format is one of FP32, too. -/
theorem exists_f32 {m : BitVec 3} (hm : m.toNat < 3) {x : Nat} (hx : Claims.Finite m x) :
    ∃ n < fInf 0, (sigOf m x : ℝ) * 2 ^ expOf m x = fMagnitude 0 n := by
  have hsizes : fMant m ≤ 23 ∧ fBias m ≤ 127 := by rcases cases_ieee hm with rfl | rfl | rfl <;> decide
  have hsig : sigOf m x < 2 ^ (23 + 1) := by
    have hfrac : fFrac m x < 2 ^ fMant m := Nat.mod_lt _ (by positivity)
    have hpow : 2 ^ fMant m ≤ 2 ^ 23 := Nat.pow_le_pow_right two_pos hsizes.1
    rw [sigOf, pow_succ]
    split <;> omega
  obtain ⟨d, hd⟩ : ∃ d : ℕ, expOf m x = d + (1 - (fBias 0 : ℤ) - fMant 0) :=
    ⟨(expOf m x - (1 - (fBias 0 : ℤ) - fMant 0)).toNat, by
      have h0 : fBias 0 = 127 ∧ fMant 0 = 23 := ⟨rfl, rfl⟩
      have hmax : (1 : ℤ) ≤ max (fExp m x : ℤ) 1 := le_max_right _ _
      rw [expOf, h0.1, h0.2]
      omega⟩
  obtain ⟨n, hn⟩ := exists_magAt 23 (1 - (fBias 0 : ℤ) - fMant 0) d hsig
  rw [← hd] at hn
  refine ⟨n, ?_, hn.symm⟩
  have hlt : fMagnitude 0 n < fMagnitude 0 (fInf 0) := by
    rw [(fMagnitude_top (m := 0) (by decide)).1, show fMagnitude 0 n = sigOf m x * 2 ^ expOf m x from hn, sigOf_value hm]
    calc fMagnitude m (fMag m x) < fMagnitude m (fInf m) := fMagnitude_strictMono m ((finite_iff hm x).mp hx).2
      _ = 2 ^ (fBias m + 1) := (fMagnitude_top hm).1
      _ ≤ 2 ^ (fBias 0 + 1) := pow_le_pow_right₀ one_le_two (by have : fBias 0 = 127 := rfl; omega)
  exact (fMagnitude_strictMono 0).lt_iff_lt.mp hlt

theorem toF32_of_not_nan {m : BitVec 3} (hm : m.toNat < 3) {x : Nat} (h : ¬IsNaN m x) :
    toF32 (fmtOfF m) x = (roundVal .fp32 .rn (ieeeDecode (fmtOfF m) x)).1 := by
  rw [toF32]
  rcases decode_cases hm h with ⟨-, h⟩ | h <;> rw [h]

theorem toF32_inf {m : BitVec 3} (hm : m.toNat < 3) {x : Nat} (h : IsInf m x) :
    toF32 (fmtOfF m) x = infOf 0 (fNeg m x) := by
  rw [toF32_of_not_nan hm fun hnan => hnan.2 h.2, ieeeDecode_inf hm h, show Fmt.fp32 = fmtOfF 0 from rfl, roundVal_inf (by decide),
    infOf_decide]

theorem toF32_finite {m : BitVec 3} (hm : m.toNat < 3) {x : Nat} (hx : Claims.Finite m x) : ∃ n < fInf 0,
    toF32 (fmtOfF m) x = signBit (fmtOfF 0) (decide (fNeg m x)) + n ∧ fMagnitude m (fMag m x) = fMagnitude 0 n := by
  obtain ⟨n, hn, hvalue⟩ := exists_f32 hm hx
  refine ⟨n, hn, ?_, (sigOf_value hm x).symm.trans hvalue⟩
  rw [toF32_of_not_nan hm fun hnan => hx.2 hnan.1, ieeeDecode_fin hm hx.2, show Fmt.fp32 = fmtOfF 0 from rfl,
    roundVal_of_eq (by decide) .rn _ hn hvalue]

theorem toF32_nan {m : BitVec 3} (hm : m.toNat < 3) {x : Nat} (h : IsNaN m x) :
    toF32 (fmtOfF m) x = if IsSignalling m x then 0x7F800001 else canonicalNaN 0 := by
  rw [toF32, ieeeDecode_nan hm h]
  by_cases hsig : IsSignalling m x
  · rw [decide_eq_true hsig, if_pos hsig]
  · rw [decide_eq_false hsig, if_neg hsig]; rfl

/-- A lane widened to FP32 keeps what it is (R154). -/
theorem toF32_spec {m : BitVec 3} (hm : m.toNat < 3) (x : Nat) (hx : x < 2 ^ fWidth m) :
    let r := toF32 (fmtOfF m) x
    r < 2 ^ 32 ∧ (¬IsNaN m x → (fNeg 0 r ↔ fNeg m x)) ∧
    (Claims.Finite m x → Claims.Finite 0 r ∧ valueOf 0 r = valueOf m x) ∧ (IsInf m x → IsInf 0 r) ∧
    (IsNaN m x → IsNaN 0 r ∧ (IsSignalling 0 r ↔ IsSignalling m x)) := by
  intro r
  by_cases hnan : IsNaN m x
  · have hr : r = if IsSignalling m x then 0x7F800001 else canonicalNaN 0 := toF32_nan hm hnan
    have hkinds : IsSignalling 0 0x7F800001 ∧ IsNaN 0 (canonicalNaN 0) ∧ ¬IsSignalling 0 (canonicalNaN 0) := by decide
    obtain ⟨hsignalling, hquiet, hquiet'⟩ := hkinds
    refine ⟨?_, fun h => absurd hnan h, fun h => absurd hnan.1 h.2, fun h => absurd h.2 hnan.2, fun _ => ?_⟩
    · rw [hr]; split <;> decide
    · rw [hr]
      by_cases hsig : IsSignalling m x
      · rw [if_pos hsig]
        exact ⟨hsignalling.1, iff_of_true hsignalling hsig⟩
      · rw [if_neg hsig]
        exact ⟨hquiet, iff_of_false hquiet' hsig⟩
  · by_cases hones : ExpOnes m x
    · have hinf : IsInf m x := isInf_of_expOnes hones hnan
      have hr : r = infOf 0 (fNeg m x) := toF32_inf hm hinf
      have hkinds : infOf 0 True < 2 ^ 32 ∧ fNeg 0 (infOf 0 True) ∧ IsInf 0 (infOf 0 True) ∧
          infOf 0 False < 2 ^ 32 ∧ ¬fNeg 0 (infOf 0 False) ∧ IsInf 0 (infOf 0 False) := by decide
      obtain ⟨hlt, hneg, hinf1, hlt', hneg', hinf2⟩ := hkinds
      by_cases hx : fNeg m x
      · rw [hr, infOf_congr 0 (iff_true_intro hx)]
        exact ⟨hlt, fun _ => iff_of_true hneg hx, fun h => absurd hones h.2, fun _ => hinf1, fun h => absurd h hnan⟩
      · rw [hr, infOf_congr 0 (iff_false_intro hx)]
        exact ⟨hlt', fun _ => iff_of_false hneg' hx, fun h => absurd hones h.2, fun _ => hinf2, fun h => absurd h hnan⟩
    · obtain ⟨n, hn, hr, hvalue⟩ := toF32_finite hm ⟨hx, hones⟩
      obtain ⟨hfin, hval⟩ := finite_encoding (m := 0) (by decide) (neg := decide (fNeg m x)) hn
      obtain ⟨-, -, hneg⟩ := encoding (m := 0) (by decide) (neg := decide (fNeg m x)) (hn.trans (fInf_lt (by decide)))
      rw [← hr] at hfin hval hneg
      refine ⟨hfin.1, fun _ => hneg.trans decide_eq_true_iff, fun _ => ⟨hfin, ?_⟩, fun h => absurd h.1 hones, fun h => absurd h hnan⟩
      have : (valueOf 0 r : ℝ) = valueOf m x := by rw [hval, valueOf_eq hm, hvalue]
      exact_mod_cast this

/-! ## One lane after the other -/

theorem oneLane_eq {x : Nat} (hx : x < 2 ^ 32) : oneLane x =
    if IsNaN 0 x then (canonicalNaN 0, if IsSignalling 0 x then ⟨flagNV, 0⟩ else evNone) else (x, evNone) := by
  have h0 : (0 : BitVec 3).toNat < 3 := by decide
  rw [oneLane, show Fmt.fp32 = fmtOfF 0 from rfl]
  by_cases hnan : IsNaN 0 x
  · rw [if_pos hnan, ieeeDecode_nan h0 hnan]
    by_cases hsig : IsSignalling 0 x
    · rw [decide_eq_true hsig, if_pos hsig]; rfl
    · rw [decide_eq_false hsig, if_neg hsig]; rfl
  · rw [if_neg hnan, roundVal_self h0 .rn hx hnan]
    rcases decode_cases h0 hnan with ⟨-, h⟩ | h <;> rw [h] <;> rfl

theorem sumOrdered_append (rm : RM) {xs : List Nat} (hxs : xs ≠ []) (x y : Nat) : sumOrdered rm (x :: xs ++ [y]) =
    ((addF32 rm (sumOrdered rm (x :: xs)).1 y).1,
      evAnd (sumOrdered rm (x :: xs)).2 (addF32 rm (sumOrdered rm (x :: xs)).1 y).2) := by
  obtain ⟨x', xs, rfl⟩ := List.exists_cons_of_ne_nil hxs
  simp only [sumOrdered, List.cons_append, List.foldl_cons, List.foldl_append, List.foldl_nil]

/-- Two lanes are added in the order that is picked. -/
theorem sumUnordered_pair (rm : RM) (pick x y : Nat) : ∃ a b, (a, b) ∈ [(x, y), (y, x)] ∧
    sumUnordered rm pick [x, y] = ((addF32 rm a b).1, evAnd evNone (addF32 rm a b).2) := by
  rcases Nat.mod_two_eq_zero_or_one pick with h | h
  · exact ⟨x, y, by simp, by simp [sumUnordered, sumTree, h, Nat.mod_one]⟩
  · exact ⟨y, x, by simp, by simp [sumUnordered, sumTree, h, Nat.mod_one]⟩

theorem orderedSumsAddLaneAfterLane : OrderedSumsAddLaneAfterLane :=
  ⟨fun _ _ _ => rfl, fun rm _ x y hxs => sumOrdered_append rm hxs x y, fun _ _ hx => oneLane_eq hx, sumUnordered_pair⟩

/-! ## Trees of sums -/

/-- Trees of sums side by side: their leaves, their sums and their flags. -/
inductive SumForest (rm : BitVec 2) : List Nat → List Nat → BitVec 8 → Prop
  | nil : SumForest rm [] [] 0
  | cons {ys xs zs : List Nat} {z : Nat} {f g : BitVec 8} : TreeSum rm ys z f → SumForest rm xs zs g →
      SumForest rm (ys ++ xs) (z :: zs) (f ||| g)

theorem sumForest_leaves (rm : BitVec 2) (xs : List Nat) : SumForest rm xs xs 0 := by
  induction xs with
  | nil => exact .nil
  | cons x xs ih => simpa using SumForest.cons (.leaf x) ih

/-- One tree taken out of a forest. -/
theorem SumForest.eraseIdx {rm : BitVec 2} {xs zs : List Nat} {g : BitVec 8} (h : SumForest rm xs zs g) {i : Nat}
    (hi : i < zs.length) : ∃ ys f xs' g', TreeSum rm ys (zs.getD i 0) f ∧ SumForest rm xs' (zs.eraseIdx i) g' ∧
      (ys ++ xs').Perm xs ∧ f ||| g' = g := by
  induction h generalizing i with
  | nil => simp at hi
  | @cons ys xs zs z f g htree hrest ih =>
    cases i with
    | zero => exact ⟨ys, f, xs, g, htree, hrest, .refl _, rfl⟩
    | succ i =>
      obtain ⟨ys', f', xs', g', htree', hrest', hperm, hflags⟩ := ih (by simpa using hi)
      refine ⟨ys', f', ys ++ xs', f ||| g', htree', .cons htree hrest', ?_, ?_⟩
      · calc (ys' ++ (ys ++ xs')).Perm (ys ++ (ys' ++ xs')) := by
              rw [← List.append_assoc, ← List.append_assoc]; exact List.perm_append_comm.append_right xs'
          _ |>.Perm (ys ++ xs) := hperm.append_left ys
      · rw [← hflags]; ac_rfl

theorem SumForest.eq_nil {rm : BitVec 2} {xs : List Nat} {g : BitVec 8} (h : SumForest rm xs [] g) : xs = [] ∧ g = 0#8 := by
  cases h
  exact ⟨rfl, rfl⟩

/-- One step of the unit's tree: two terms are picked, and their sum takes their place. -/
theorem sumTree_step (rm : RM) (fuel pick : Nat) {zs : List Nat} (hlen : 2 ≤ zs.length) (e : Ev) :
    let i := pick % zs.length
    let j := pick / zs.length % (zs.length - 1)
    let sum := addF32 rm (zs.getD i 0) ((zs.eraseIdx i).getD j 0)
    sumTree rm (fuel + 1) pick zs e =
      sumTree rm fuel (pick / zs.length / (zs.length - 1)) (sum.1 :: (zs.eraseIdx i).eraseIdx j) (evAnd e sum.2) := by
  match zs, hlen with
  | _ :: _ :: _, _ => rfl

theorem sumTree_singleton (rm : RM) (fuel pick z : Nat) (e : Ev) : sumTree rm (fuel + 1) pick [z] e = (z, e) := rfl

/-- Adding two terms at a time makes one tree of the forest. -/
theorem sumTree_treeSum (rm : BitVec 2) (fuel pick : Nat) (xs zs : List Nat) (e : Ev) (hforest : SumForest rm xs zs e.flags)
    (hne : zs ≠ []) (hfuel : zs.length ≤ fuel) :
    ∃ ys, ys.Perm xs ∧ TreeSum rm ys (sumTree (rmOf rm) fuel pick zs e).1 (sumTree (rmOf rm) fuel pick zs e).2.flags := by
  induction fuel generalizing pick xs zs e with
  | zero => exact absurd (List.length_eq_zero_iff.mp (Nat.le_zero.mp hfuel)) hne
  | succ fuel ih =>
    have hpos := List.length_pos_iff.mpr hne
    rcases Nat.lt_or_ge zs.length 2 with hlen | hlen
    · obtain ⟨z, rfl⟩ := List.length_eq_one_iff.mp (show zs.length = 1 by omega)
      obtain ⟨ys, f, xs', g, htree, hrest, hperm, hflags⟩ := hforest.eraseIdx (i := 0) hpos
      obtain ⟨rfl, rfl⟩ := hrest.eq_nil
      rw [List.append_nil] at hperm
      rw [BitVec.or_zero] at hflags
      rw [sumTree_singleton, ← hflags]
      exact ⟨ys, hperm, htree⟩
    · rw [sumTree_step _ _ _ hlen]
      have hi : pick % zs.length < zs.length := Nat.mod_lt _ hpos
      have hlen' := List.length_eraseIdx_of_lt hi
      have hj : pick / zs.length % (zs.length - 1) < (zs.eraseIdx (pick % zs.length)).length := by
        rw [hlen']; exact Nat.mod_lt _ (by omega)
      obtain ⟨ys, f, xs', g, htree, hrest, hperm, hflags⟩ := hforest.eraseIdx hi
      obtain ⟨ys', f', xs'', g', htree', hrest', hperm', hflags'⟩ := hrest.eraseIdx hj
      have hnew := SumForest.cons (TreeSum.node _ _ _ _ _ _ htree htree') hrest'
      obtain ⟨ws, hws, hsum⟩ := ih (pick / zs.length / (zs.length - 1)) _ _ (evAnd e (addF32 (rmOf rm) (zs.getD (pick % zs.length) 0)
          ((zs.eraseIdx (pick % zs.length)).getD (pick / zs.length % (zs.length - 1)) 0)).2)
        (by
          rw [evAnd, ← hflags, ← hflags', show ∀ x : BitVec 8, f ||| (f' ||| g') ||| x = f ||| f' ||| x ||| g' from fun x => by ac_rfl]
          exact hnew)
        (List.cons_ne_nil _ _) (by rw [List.length_cons, List.length_eraseIdx_of_lt hj, hlen']; omega)
      refine ⟨ws, hws.trans ?_, hsum⟩
      rw [List.append_assoc]
      exact (hperm'.append_left ys).trans hperm

theorem sumUnordered_treeSum (rm : BitVec 2) (pick : Nat) {xs : List Nat} (hlen : 2 ≤ xs.length) : ∃ ys, ys.Perm xs ∧
    TreeSum rm ys (sumUnordered (rmOf rm) pick xs).1 (sumUnordered (rmOf rm) pick xs).2.flags := by
  have h : sumUnordered (rmOf rm) pick xs = sumTree (rmOf rm) xs.length pick xs evNone := by
    match xs, hlen with
    | _ :: _ :: _, _ => rfl
  rw [h]
  exact sumTree_treeSum rm _ pick xs xs evNone (sumForest_leaves rm xs) (List.length_pos_iff.mp (by omega)) le_rfl

theorem sumsAreFpuSums : SumsAreFpuSums :=
  ⟨fun _ x hm hx => toF32_spec hm x hx, fun _ _ _ _ => rfl, fun rm pick _ h => sumUnordered_treeSum rm pick h, fun _ _ _ => rfl⟩

end Sys2Proof.Proofs.Formats
end

section
/-!
Extrema of lanes (R148, R155).
-/
namespace Sys2Proof.Proofs.Formats
open Sys2Proof Sys2Proof.Machine Sys2Proof.Claims

/-! ## The order of values -/

theorem exactOf_lt_iff (n1 : Bool) (m1 : Nat) (e1 : Int) (n2 : Bool) (m2 : Nat) (e2 : Int) :
    fvalLt (.fin n1 m1 e1) (.fin n2 m2 e2) = true ↔ exactOf (.fin n1 m1 e1) < exactOf (.fin n2 m2 e2) := by
  obtain ⟨h1, h2⟩ := alignPair_spec m1 e1 m2 e2
  have hQ : (0 : ℝ) < 2 ^ (alignPair m1 e1 m2 e2).2.2 := by positivity
  have hcast : ∀ (n : Bool) (k : Nat), signed n ((k : ℝ) * 2 ^ (alignPair m1 e1 m2 e2).2.2) =
      ((if n then -(k : ℤ) else k : ℤ) : ℝ) * 2 ^ (alignPair m1 e1 m2 e2).2.2 := fun n k => by
    cases n <;> simp [signed]
  rw [exactOf, exactOf, ← h1, ← h2, hcast, hcast, mul_lt_mul_iff_left₀ hQ, Int.cast_lt]
  exact decide_eq_true_iff

theorem signed_lt_iff {g : Nat → ℝ} (hg : StrictMono g) (h0 : g 0 = 0) (n1 n2 : Bool) (a b : Nat) :
    signed n1 (g a) < signed n2 (g b) ↔ (if n1 then -(a : ℤ) else a) < (if n2 then -(b : ℤ) else b : ℤ) := by
  have hpos : ∀ k, 0 ≤ g k := fun k => h0 ▸ hg.monotone (Nat.zero_le k)
  have hzero : ∀ k, g k = 0 ↔ k = 0 := fun k => by rw [← h0, hg.injective.eq_iff]
  cases n1 <;> cases n2
  · simp [signed, hg.lt_iff_lt]
  · have := hpos a
    have := hpos b
    simp only [signed, if_true, Bool.false_eq_true, if_false]
    exact iff_of_false (by linarith) (by omega)
  · have ha := hpos a
    have hb := hpos b
    have hboth : -g a < g b ↔ ¬(g a = 0 ∧ g b = 0) := by
      constructor
      · rintro h ⟨h1, h2⟩
        rw [h1, h2] at h
        simp at h
      · intro h
        by_contra hcon
        exact h ⟨by linarith, by linarith⟩
    simp only [signed, if_true, Bool.false_eq_true, if_false]
    rw [hboth, hzero, hzero]
    omega
  · simp [signed, hg.lt_iff_lt]

/-- x does not pass t: t lies at or above it where the largest is wanted, at or below it otherwise. -/
def Below (m : BitVec 3) (wantMax : Bool) (x t : Nat) : Prop :=
  if wantMax then fOrder m x ≤ fOrder m t else fOrder m t ≤ fOrder m x

theorem Below.refl (m : BitVec 3) (wantMax : Bool) (x : Nat) : Below m wantMax x x := by
  cases wantMax <;> exact le_rfl

theorem Below.trans {m : BitVec 3} {wantMax : Bool} {x y z : Nat} (h : Below m wantMax x y) (h' : Below m wantMax y z) :
    Below m wantMax x z := by
  cases wantMax
  · exact le_trans (α := ℤ) h' h
  · exact le_trans (α := ℤ) h h'

/-- A fold that keeps one of two each time ends with one of all, which none of them passes. -/
theorem foldl_extreme {α : Type} {P : α → Prop} {r : α → α → Prop} {pick : α → α → α} (refl : ∀ x, r x x)
    (trans : ∀ {x y z}, r x y → r y z → r x z)
    (hpick : ∀ x y, P x → P y → (pick x y = x ∨ pick x y = y) ∧ r x (pick x y) ∧ r y (pick x y)) (x : α) (xs : List α)
    (hx : P x) (hxs : ∀ y ∈ xs, P y) : xs.foldl pick x ∈ x :: xs ∧ ∀ y ∈ x :: xs, r y (xs.foldl pick x) := by
  induction xs generalizing x with
  | nil => exact ⟨List.mem_singleton_self x, fun y hy => List.mem_singleton.mp hy ▸ refl x⟩
  | cons y xs ih =>
    obtain ⟨hone, hrx, hry⟩ := hpick x y hx (hxs y List.mem_cons_self)
    have hP : P (pick x y) := by
      rcases hone with h | h <;> rw [h]
      · exact hx
      · exact hxs y List.mem_cons_self
    obtain ⟨hmem, hall⟩ := ih (pick x y) hP fun z hz => hxs z (List.mem_cons_of_mem _ hz)
    have hlast := hall _ List.mem_cons_self
    refine ⟨?_, fun z hz => ?_⟩
    · rw [List.foldl_cons]
      rcases List.mem_cons.mp hmem with h | h
      · rw [h]
        rcases hone with h | h <;> rw [h] <;> simp
      · exact List.mem_cons_of_mem _ (List.mem_cons_of_mem _ h)
    · rcases List.mem_cons.mp hz with rfl | hz
      · exact trans hrx hlast
      · rcases List.mem_cons.mp hz with rfl | hz
        · exact trans hry hlast
        · exact hall z (List.mem_cons_of_mem _ hz)

section
variable {m : BitVec 3} (hm : m.toNat < 3)
include hm

theorem isNan_decode (x : Nat) : (ieeeDecode (fmtOfF m) x).isNan = decide (IsNaN m x) := by
  by_cases hnan : IsNaN m x
  · rw [ieeeDecode_nan hm hnan, decide_eq_true hnan]; rfl
  · rw [not_isNan_of_not_nan hm hnan, decide_eq_false hnan]

theorem isSig_decode (x : Nat) : (ieeeDecode (fmtOfF m) x).isSig = decide (IsSignalling m x) := by
  by_cases hnan : IsNaN m x
  · rw [ieeeDecode_nan hm hnan]; rfl
  · rw [decide_eq_false fun h => hnan h.1]
    rcases decode_cases hm hnan with ⟨-, h⟩ | h <;> rw [h] <;> rfl

theorem fMag_of_inf {x : Nat} (h : IsInf m x) : fMag m x = fInf m := by
  have hdiv := Nat.div_add_mod' (fMag m x) (2 ^ fMant m)
  rw [← fExp_eq hm, ← fFrac_eq hm, h.1, h.2, Nat.add_zero] at hdiv
  exact hdiv.symm

/-- The order of values is that of the numbers that `fKey` gives. -/
theorem fvalLt_iff {x y : Nat} (hx : x < 2 ^ fWidth m) (hy : y < 2 ^ fWidth m) (hnx : ¬IsNaN m x) (hny : ¬IsNaN m y) :
    fvalLt (ieeeDecode (fmtOfF m) x) (ieeeDecode (fmtOfF m) y) = true ↔ fKey m x < fKey m y := by
  have hkey : ∀ z, fKey m z = if decide (fNeg m z) = true then -(fMag m z : ℤ) else fMag m z := fun z => by
    rw [fKey]; simp only [decide_eq_true_eq]
  have hkind : ∀ {z : Nat}, z < 2 ^ fWidth m → ¬IsNaN m z →
      (fMag m z = fInf m ∧ ieeeDecode (fmtOfF m) z = .inf (decide (fNeg m z))) ∨
      (fMag m z < fInf m ∧ ieeeDecode (fmtOfF m) z = operand m z) := fun {z} hz hn => by
    by_cases hones : ExpOnes m z
    · have hinf : IsInf m z := isInf_of_expOnes hones hn
      exact .inl ⟨fMag_of_inf hm hinf, ieeeDecode_inf hm hinf⟩
    · exact .inr ⟨((finite_iff hm z).mp ⟨hz, hones⟩).2, ieeeDecode_fin hm hones⟩
  have hpos := fInf_pos hm
  generalize fInf m = top at hkind hpos
  rw [hkey, hkey]
  rcases hkind hx hnx with ⟨hmx, hdx⟩ | ⟨hmx, hdx⟩ <;> rcases hkind hy hny with ⟨hmy, hdy⟩ | ⟨hmy, hdy⟩ <;> rw [hdx, hdy]
  · rw [hmx, hmy]
    cases decide (fNeg m x) <;> cases decide (fNeg m y) <;> simp [fvalLt]; omega
  · rw [hmx]
    generalize fMag m y = b at hmy ⊢
    cases decide (fNeg m x) <;> cases decide (fNeg m y) <;> simp [fvalLt] <;> omega
  · rw [hmy]
    generalize fMag m x = a at hmx ⊢
    cases decide (fNeg m x) <;> cases decide (fNeg m y) <;> simp [fvalLt] <;> omega
  · rw [exactOf_lt_iff, exactOf_finite, exactOf_finite, valueOf_eq hm, valueOf_eq hm]
    exact signed_lt_iff (fMagnitude_strictMono m) (fMagnitude_zero m) _ _ _ _

/-- Which of two is taken: the one with the larger number, or with the smaller. -/
theorem ieeeMinMax_eq {x y : Nat} (wantMax : Bool) (hx : x < 2 ^ fWidth m) (hy : y < 2 ^ fWidth m) (hnx : ¬IsNaN m x)
    (hny : ¬IsNaN m y) : (ieeeMinMax (fmtOfF m) wantMax x y).1 =
      if (decide (fOrder m x < fOrder m y) != wantMax) = true then x else y := by
  have hfirst : (fvalLt (ieeeDecode (fmtOfF m) x) (ieeeDecode (fmtOfF m) y) ||
      (fvalEq (ieeeDecode (fmtOfF m) x) (ieeeDecode (fmtOfF m) y) && (ieeeDecode (fmtOfF m) x).sign &&
        !(ieeeDecode (fmtOfF m) y).sign)) = decide (fOrder m x < fOrder m y) := by
    have heq : fvalEq (ieeeDecode (fmtOfF m) x) (ieeeDecode (fmtOfF m) y) = true ↔ fKey m x = fKey m y := by
      have hle : fvalEq (ieeeDecode (fmtOfF m) x) (ieeeDecode (fmtOfF m) y) =
          (!(fvalLt (ieeeDecode (fmtOfF m) x) (ieeeDecode (fmtOfF m) y)) &&
            !(fvalLt (ieeeDecode (fmtOfF m) y) (ieeeDecode (fmtOfF m) x))) := by
        rcases decode_cases hm hnx with ⟨-, h⟩ | h <;> rcases decode_cases hm hny with ⟨-, h'⟩ | h' <;> rw [h, h'] <;> rfl
      rw [hle, Bool.and_eq_true, Bool.not_eq_true', Bool.not_eq_true', ← Bool.not_eq_true, ← Bool.not_eq_true,
        fvalLt_iff hm hx hy hnx hny, fvalLt_iff hm hy hx hny hnx]
      omega
    rw [Bool.eq_iff_iff, Bool.or_eq_true, Bool.and_eq_true, Bool.and_eq_true, fvalLt_iff hm hx hy hnx hny, heq, sign_decode hm hnx,
      sign_decode hm hny, Bool.not_eq_true', decide_eq_true_iff, decide_eq_false_iff_not, decide_eq_true_iff, fKey, fKey, fOrder,
      fOrder]
    split_ifs <;> omega
  rw [ieeeMinMax]
  simp only [not_isNan_of_not_nan hm hnx, not_isNan_of_not_nan hm hny, hfirst, Bool.or_self, Bool.false_eq_true, if_false]

/-- One of two, and the other does not pass it: the larger where `wantMax`, the smaller otherwise. -/
theorem ieeeMinMax_extreme {x y : Nat} (wantMax : Bool) (hx : x < 2 ^ fWidth m) (hy : y < 2 ^ fWidth m) (hnx : ¬IsNaN m x)
    (hny : ¬IsNaN m y) : let t := (ieeeMinMax (fmtOfF m) wantMax x y).1
    (t = x ∨ t = y) ∧ Below m wantMax x t ∧ Below m wantMax y t := by
  intro t
  have ht : t = if (decide (fOrder m x < fOrder m y) != wantMax) = true then x else y := ieeeMinMax_eq hm wantMax hx hy hnx hny
  rw [ht]
  by_cases hlt : fOrder m x < fOrder m y
  · cases wantMax <;> simp [Below, hlt, hlt.le]
  · cases wantMax <;> simp [Below, hlt, not_lt.mp hlt]

/-- The extremum of lanes that are no NaN. -/
theorem extremum_of_not_nan (wantMax : Bool) {xs : List Nat} (hne : xs ≠ []) (hlt : ∀ x ∈ xs, x < 2 ^ fWidth m)
    (hnan : ∀ x ∈ xs, ¬IsNaN m x) : let t := extremum (fmtOfF m) wantMax xs
    t.1 ∈ xs ∧ (∀ x ∈ xs, Below m wantMax x t.1) ∧ t.2 = evNone := by
  obtain ⟨x, xs, rfl⟩ := List.exists_cons_of_ne_nil hne
  have hany : ((x :: xs).map (ieeeDecode (fmtOfF m))).any FVal.isNan = false ∧
      ((x :: xs).map (ieeeDecode (fmtOfF m))).any FVal.isSig = false := by
    simp only [List.any_map, List.any_eq_false, Function.comp_apply, isNan_decode hm, isSig_decode hm, decide_eq_true_eq]
    exact ⟨hnan, fun y hy h => hnan y hy h.1⟩
  obtain ⟨hmem, hall⟩ := foldl_extreme (P := fun x => x < 2 ^ fWidth m ∧ ¬IsNaN m x) (r := Below m wantMax)
    (pick := fun acc y => (ieeeMinMax (fmtOfF m) wantMax acc y).1) (Below.refl m wantMax) Below.trans
    (fun a b ha hb => ieeeMinMax_extreme hm wantMax ha.1 hb.1 ha.2 hb.2) x xs
    ⟨hlt x List.mem_cons_self, hnan x List.mem_cons_self⟩
    fun y hy => ⟨hlt y (List.mem_cons_of_mem _ hy), hnan y (List.mem_cons_of_mem _ hy)⟩
  rw [extremum]
  simp only [hany.1, hany.2, Bool.false_eq_true, if_false]
  exact ⟨hmem, hall, rfl⟩

theorem extremum_of_nan (wantMax : Bool) {xs : List Nat} (hnan : ∃ x ∈ xs, IsNaN m x) : extremum (fmtOfF m) wantMax xs =
    (canonicalNaN m, if ∃ x ∈ xs, IsSignalling m x then ⟨flagNV, 0⟩ else evNone) := by
  have hany : (xs.map (ieeeDecode (fmtOfF m))).any FVal.isNan = true := by
    simpa only [List.any_map, List.any_eq_true, Function.comp_apply, isNan_decode hm, decide_eq_true_eq] using hnan
  have hsig : (xs.map (ieeeDecode (fmtOfF m))).any FVal.isSig = decide (∃ x ∈ xs, IsSignalling m x) := by
    rw [Bool.eq_iff_iff]
    simp only [List.any_map, List.any_eq_true, Function.comp_apply, isSig_decode hm, decide_eq_true_eq]
  unfold extremum
  simp only [hany, hsig, if_true, evIf, decide_eq_true_eq, defaultNaN_eq hm]

end

theorem extremaAreLanes : ExtremaAreLanes := by
  intro m xs hm hne hlt top bottom nv
  refine ⟨fun hnan => ⟨extremum_of_nan hm true hnan, extremum_of_nan hm false hnan⟩, fun hnan => ?_⟩
  exact ⟨extremum_of_not_nan hm true hne hlt hnan, extremum_of_not_nan hm false hne hlt hnan⟩

end Sys2Proof.Proofs.Formats
end

section
/-!
Encoding lanes into block float (R67, R156).
-/
namespace Sys2Proof.Proofs.Formats
open Sys2Proof Sys2Proof.Machine Sys2Proof.Claims

theorem isInf_decode {m : BitVec 3} (hm : m.toNat < 3) (x : Nat) : (ieeeDecode (fmtOfF m) x).isInf = decide (IsInf m x) := by
  by_cases hnan : IsNaN m x
  · have hinf : ¬IsInf m x := fun h => hnan.2 h.2
    rw [ieeeDecode_nan hm hnan, decide_eq_false hinf]; rfl
  · by_cases hones : ExpOnes m x
    · have hinf : IsInf m x := isInf_of_expOnes hones hnan
      rw [ieeeDecode_inf hm hinf, decide_eq_true hinf]; rfl
    · have hinf : ¬IsInf m x := fun h => hones h.1
      rw [ieeeDecode_fin hm hones, decide_eq_false hinf]; rfl

theorem expOnes_iff (m : BitVec 3) (x : Nat) : ExpOnes m x ↔ IsNaN m x ∨ IsInf m x := by
  unfold IsNaN IsInf
  tauto

/-- The place of the leading bit of a lane that is not zero. -/
def leadOf (m : BitVec 3) (x : Nat) : Int := ((sigOf m x).log2 : Int) + expOf m x

/-- A lane in units of 2^(e - 55), rounded to an integer, and whether that was inexact. -/
def bfTerm (m : BitVec 3) (e : Int) (x : Nat) : Int × Bool :=
  roundInt (decide (fNeg m x)) (sigOf m x) (expOf m x - (e - 55))

/-- The leading places of the lanes that are not zero. -/
def leads (m : BitVec 3) (xs : List Nat) : List Int :=
  xs.filterMap (fun x => if sigOf m x = 0 then none else some (leadOf m x))

section
variable {m : BitVec 3} (hm : m.toNat < 3)
include hm

theorem leadOf_bounds {x : Nat} (h : fMag m x ≠ 0) :
    (2 : ℚ) ^ leadOf m x ≤ |valueOf m x| ∧ |valueOf m x| < 2 ^ (leadOf m x + 1) := by
  have hsig : sigOf m x ≠ 0 := mt (sigOf_eq_zero_iff hm x).mp h
  obtain ⟨hlow, hhigh⟩ := log2_bounds (M := sigOf m x) (e := expOf m x) (st := false) hsig rfl
  have habs : (|valueOf m x| : ℝ) = sigOf m x * 2 ^ expOf m x := by
    rw [← exactOf_finite, exactOf, abs_signed _ (by positivity)]
  rw [← habs, ← Rat.cast_abs, ← leadOf] at hlow hhigh
  rw [← Rat.cast_le (K := ℝ), ← Rat.cast_lt (K := ℝ), Rat.cast_zpow, Rat.cast_zpow, Rat.cast_ofNat]
  exact ⟨hlow, hhigh⟩

theorem valueOf_of_zero {x : Nat} (h : fMag m x = 0) : valueOf m x = 0 := by
  have : (valueOf m x : ℝ) = 0 := by rw [← exactOf_finite, (sigOf_eq_zero_iff hm x).mpr h]; exact exactOf_eq_zero.mpr rfl
  exact_mod_cast this

omit hm in
theorem bfTerm_spec (e : Int) (x : Nat) : RoundInt (valueOf m x * 2 ^ (55 - e)) (bfTerm m e x).1 ∧
    ((bfTerm m e x).2 = true ↔ valueOf m x * 2 ^ (55 - e) ≠ (bfTerm m e x).1) := by
  have hvalue : signed (decide (fNeg m x)) (sigOf m x * 2 ^ (expOf m x - (e - 55))) = ((valueOf m x * 2 ^ (55 - e) : ℚ) : ℝ) := by
    rw [show expOf m x - (e - 55) = expOf m x + (55 - e) by ring]
    rw [Rat.cast_mul, Rat.cast_zpow, Rat.cast_ofNat, ← exactOf_finite]
    exact signed_zpow _ _ _ _
  obtain ⟨hround, hinexact⟩ := toIntegral_spec 0 (decide (fNeg m x)) (sigOf m x) (expOf m x - (e - 55))
  rw [hvalue] at hround hinexact
  refine ⟨hround, hinexact.trans (not_congr ?_)⟩
  rw [eq_comm, ← Rat.cast_intCast, Rat.cast_inj]
  rfl

/-- With an infinity or a NaN among them. -/
theorem bfEncode_special {xs : List Nat} (h : ∃ x ∈ xs, ExpOnes m x) : bfEncode (xs.map (ieeeDecode (fmtOfF m))) =
    ((0, -2 ^ 31), ⟨flagNV ||| (if ∃ x ∈ xs, IsNaN m x then 0 else flagNANP), 0⟩) := by
  have hany : (xs.map (ieeeDecode (fmtOfF m))).any (fun v => v.isNan || v.isInf) = true := by
    simpa only [List.any_map, List.any_eq_true, Function.comp_apply, isNan_decode hm, isInf_decode hm, Bool.or_eq_true,
      decide_eq_true_eq, expOnes_iff] using h
  have hnan : (xs.map (ieeeDecode (fmtOfF m))).any FVal.isNan = decide (∃ x ∈ xs, IsNaN m x) := by
    rw [Bool.eq_iff_iff]
    simp only [List.any_map, List.any_eq_true, Function.comp_apply, isNan_decode hm, decide_eq_true_eq]
  rw [bfEncode, if_pos hany, hnan, evIf_eq]
  by_cases hn : ∃ x ∈ xs, IsNaN m x
  · rw [if_pos hn, decide_eq_true hn]; rfl
  · rw [if_neg hn, decide_eq_false hn]; rfl

omit hm in
theorem mem_leads {xs : List Nat} {e : Int} : e ∈ leads m xs ↔ ∃ x ∈ xs, sigOf m x ≠ 0 ∧ leadOf m x = e := by
  simp [leads]

/-- Lanes that are finite, the largest leading place first. -/
theorem bfEncode_finite {xs : List Nat} (h : ∀ x ∈ xs, ¬ExpOnes m x) {g : Int} {gs : List Int} (hleads : leads m xs = g :: gs) :
    let top := gs.foldl (fun a b => if a ≤ b then b else a) g
    bfEncode (xs.map (ieeeDecode (fmtOfF m))) =
      (((xs.map (fun x => (bfTerm m top x).1)).sum, top - 55), evIf (xs.any (fun x => (bfTerm m top x).2)) flagNX) := by
  intro top
  have hvals : xs.map (ieeeDecode (fmtOfF m)) = xs.map (operand m) :=
    List.map_congr_left fun x hx => ieeeDecode_fin hm (h x hx)
  have hany : ¬(xs.map (operand m)).any (fun v => v.isNan || v.isInf) = true := by simp [FVal.isNan, FVal.isInf]
  rw [hvals, bfEncode, if_neg hany]
  simp only [List.filterMap_map, List.map_map, List.any_map, List.foldl_map, Function.comp_def]
  rw [leads] at hleads
  simp only [leadOf] at hleads
  rw [hleads, List.sum_eq_foldl, List.foldl_map]
  rfl

theorem bfEncode_zeros {xs : List Nat} (h : ∀ x ∈ xs, fMag m x = 0) :
    bfEncode (xs.map (ieeeDecode (fmtOfF m))) = ((0, 0), evNone) := by
  have hvals : xs.map (ieeeDecode (fmtOfF m)) = xs.map (operand m) :=
    List.map_congr_left fun x hx => ieeeDecode_fin hm (not_expOnes_of_zero hm (h x hx))
  have hany : ¬(xs.map (operand m)).any (fun v => v.isNan || v.isInf) = true := by simp [FVal.isNan, FVal.isInf]
  have hleads : leads m xs = [] := by
    refine List.eq_nil_iff_forall_not_mem.mpr fun e he => ?_
    obtain ⟨x, hx, hne, -⟩ := mem_leads.mp he
    exact hne ((sigOf_eq_zero_iff hm x).mpr (h x hx))
  rw [hvals, bfEncode, if_neg hany]
  simp only [List.filterMap_map, Function.comp_def]
  rw [leads] at hleads
  simp only [leadOf] at hleads
  rw [hleads]

omit hm in
theorem foldl_max (g : Int) (gs : List Int) : let top := gs.foldl (fun a b => if a ≤ b then b else a) g
    top ∈ g :: gs ∧ ∀ e ∈ g :: gs, e ≤ top :=
  foldl_extreme (P := fun _ => True) (r := (· ≤ ·)) le_refl le_trans
    (fun a b _ _ => by split <;> simp <;> omega) g gs trivial fun _ _ => trivial

/-- Lanes that are finite and not all zero: the sum of the terms, in units of 2^(E - 55). -/
theorem bfEncode_spec {xs : List Nat} (hfin : ∀ x ∈ xs, ¬ExpOnes m x) (hne : ∃ x ∈ xs, fMag m x ≠ 0) :
    let got := bfEncode (xs.map (ieeeDecode (fmtOfF m)))
    ∃ (e : ℤ) (ts : List ℤ),
      let term (x : Nat) : ℚ := valueOf m x * 2 ^ (55 - e)
      (∃ x ∈ xs, 2 ^ e ≤ |valueOf m x|) ∧ (∀ x ∈ xs, |valueOf m x| < 2 ^ (e + 1)) ∧
      List.Forall₂ (fun x t => RoundInt (term x) t) xs ts ∧ got.1 = (ts.sum, e - 55) ∧
      (List.Forall₂ (fun x (t : ℤ) => term x = t) xs ts → got.2 = evNone) ∧
      (¬List.Forall₂ (fun x (t : ℤ) => term x = t) xs ts → got.2 = ⟨flagNX, 0⟩) := by
  intro got
  obtain ⟨g, gs, hleads⟩ : ∃ g gs, leads m xs = g :: gs := by
    obtain ⟨x, hx, hmag⟩ := hne
    refine List.exists_cons_of_ne_nil (List.ne_nil_of_mem (mem_leads.mpr ⟨x, hx, mt (sigOf_eq_zero_iff hm x).mp hmag, rfl⟩))
  obtain ⟨htop, hmax⟩ := foldl_max g gs
  have heq := bfEncode_finite hm hfin hleads
  generalize gs.foldl (fun a b => if a ≤ b then b else a) g = top at htop hmax heq
  rw [← hleads] at htop hmax
  have hexact : ∀ ts, ts = xs.map (fun x => (bfTerm m top x).1) →
      (List.Forall₂ (fun x (t : ℤ) => valueOf m x * 2 ^ (55 - top) = t) xs ts ↔ ¬xs.any (fun x => (bfTerm m top x).2) = true) := by
    rintro ts rfl
    rw [List.forall₂_map_right_iff, List.forall₂_same, List.any_eq_true, not_exists]
    simp only [(bfTerm_spec top _).2, not_and, not_not]
  refine ⟨top, xs.map (fun x => (bfTerm m top x).1), ?_, fun x hx => ?_, ?_, congrArg Prod.fst heq, fun h => ?_, fun h => ?_⟩
  · obtain ⟨x, hx, hsig, hlead⟩ := mem_leads.mp htop
    exact ⟨x, hx, hlead ▸ (leadOf_bounds hm (mt (sigOf_eq_zero_iff hm x).mpr hsig)).1⟩
  · by_cases hmag : fMag m x = 0
    · rw [valueOf_of_zero hm hmag, abs_zero]
      positivity
    · have hle := hmax _ (mem_leads.mpr ⟨x, hx, mt (sigOf_eq_zero_iff hm x).mp hmag, rfl⟩)
      exact (leadOf_bounds hm hmag).2.trans_le (zpow_le_zpow_right₀ one_le_two (by omega))
  · rw [List.forall₂_map_right_iff, List.forall₂_same]
    exact fun x _ => (bfTerm_spec top x).1
  · rw [show got = _ from heq, evIf, if_neg ((hexact _ rfl).mp h)]
  · rw [show got = _ from heq, evIf, if_pos (not_not.mp (mt (hexact _ rfl).mpr h))]

end

end Sys2Proof.Proofs.Formats
end

section
/-!
Adding block-float values (R67, R156).
-/
namespace Sys2Proof.Proofs.Formats
open Sys2Proof Sys2Proof.Machine Sys2Proof.Claims

/-- The largest magnitude of a block-float number. -/
def bfTop : Int := 2 ^ 63 - 1

/-- A number clamped to what a block-float value holds. -/
def clamped (t : Int) : Int := max (-bfTop) (min bfTop t)

theorem clamped_eq_self_iff (t : Int) : clamped t = t ↔ t ≤ bfTop ∧ -bfTop ≤ t := by
  have hpos : 0 < bfTop := by decide
  rw [clamped]; omega

theorem bfClamp_eq (t : Int) : bfClamp t = (clamped t, if clamped t = t then evNone else ⟨flagSAT ||| flagNX, 1⟩) := by
  have hpos : 0 < bfTop := by decide
  rw [bfClamp, show (2 : Int) ^ 63 - 1 = bfTop from rfl]
  by_cases habove : bfTop < t
  · have hc : clamped t = bfTop := by rw [clamped]; omega
    rw [if_pos habove, if_neg (by rw [clamped_eq_self_iff]; omega), hc]
  · by_cases hbelow : t < -bfTop
    · have hc : clamped t = -bfTop := by rw [clamped]; omega
      rw [if_neg habove, if_pos hbelow, if_neg (by rw [clamped_eq_self_iff]; omega), hc]
    · have hc : clamped t = t := (clamped_eq_self_iff t).mpr (by omega)
      rw [if_neg habove, if_neg hbelow, if_pos hc, hc]

theorem clamped_of_above {t : Int} (h : bfTop < t) : clamped t = bfTop := by
  have hpos : 0 < bfTop := by decide
  rw [clamped]; omega

theorem clamped_of_below {t : Int} (h : t < -bfTop) : clamped t = -bfTop := by
  have hpos : 0 < bfTop := by decide
  rw [clamped]; omega

/-- A number shifted far beyond the clamp, whichever the shift. -/
theorem clamped_shift {m : Int} (hm : m ≠ 0) {d : Nat} (hd : 200 ≤ d) :
    clamped (m * 2 ^ d) = (if 0 < m then bfTop else -bfTop) ∧ clamped (m * 2 ^ d) ≠ m * 2 ^ d := by
  have hpow : (2 : Int) ^ 63 ≤ 2 ^ d := pow_le_pow_right₀ (by norm_num) (by omega)
  have htop : bfTop < 2 ^ d := lt_of_lt_of_le (by decide) hpow
  generalize (2 : Int) ^ d = p at htop
  have hpos : 0 < bfTop := by decide
  by_cases h : 0 < m
  · have habove : bfTop < m * p := by nlinarith
    rw [if_pos h, clamped_of_above habove]
    exact ⟨rfl, habove.ne⟩
  · have hbelow : m * p < -bfTop := by nlinarith [show m ≤ -1 by omega]
    rw [if_neg h, clamped_of_below hbelow]
    exact ⟨rfl, hbelow.ne'⟩

/-- What `BfAlignAdd` makes of M, shifted by d places, and whether that was inexact. -/
def bfShift (m d : Int) : Int × Bool :=
  if m = 0 then (0, false) else if 200 < d then (m * 2 ^ 200, false) else if d < -200 then (0, true) else roundInt (m < 0) m.natAbs d

theorem roundInt_of_eq {v : ℚ} {t : ℤ} (h : v = t) : RoundInt v t := by
  rw [RoundInt, IntegralTo, if_pos rfl, h]
  norm_num

theorem roundInt_zero_of_small {v : ℚ} (h : |v| < 1 / 2) : RoundInt v 0 := by
  have hr : |(v : ℝ)| < 1 / 2 := by
    rw [← Rat.cast_abs]
    calc ((|v| : ℚ) : ℝ) < ((1 / 2 : ℚ) : ℝ) := Rat.cast_lt.mpr h
      _ = 1 / 2 := by norm_num
  rw [RoundInt, IntegralTo, if_pos rfl, Int.cast_zero, sub_zero]
  exact ⟨hr.le, fun _ => rfl⟩

/-- The shifted number is the rounded one, but for what the clamp makes equal. -/
theorem bfShift_spec {m : Int} (hm : |m| ≤ 2 ^ 63) (d : Int) : ∃ t, RoundInt (m * 2 ^ d) t ∧
    clamped (bfShift m d).1 = clamped t ∧ (clamped (bfShift m d).1 = (bfShift m d).1 ↔ clamped t = t) ∧
    ((bfShift m d).2 = true ↔ (m : ℚ) * 2 ^ d ≠ t) := by
  by_cases h0 : m = 0
  · rw [bfShift, if_pos h0, h0, Int.cast_zero, zero_mul]
    exact ⟨0, roundInt_of_eq Int.cast_zero.symm, rfl, Iff.rfl, by simp⟩
  · by_cases hfar : 200 < d
    · obtain ⟨k, rfl⟩ := Int.eq_ofNat_of_zero_le (show 0 ≤ d by omega)
      have hexact : (m : ℚ) * 2 ^ (k : ℤ) = ((m * 2 ^ k : ℤ) : ℚ) := by rw [zpow_natCast]; push_cast; rfl
      obtain ⟨hk, hk'⟩ := clamped_shift h0 (show 200 ≤ k by omega)
      obtain ⟨h200, h200'⟩ := clamped_shift h0 (le_refl 200)
      rw [bfShift, if_neg h0, if_pos hfar]
      exact ⟨m * 2 ^ k, roundInt_of_eq hexact, h200.trans hk.symm, iff_of_false h200' hk',
        iff_of_false (by simp) (not_not.mpr hexact)⟩
    · by_cases hnear : d < -200
      · have hpos : (0 : ℚ) < |(m : ℚ)| := abs_pos.mpr (Int.cast_ne_zero.mpr h0)
        have hsmall : |(m : ℚ) * 2 ^ d| < 1 / 2 := by
          rw [abs_mul, abs_of_pos (show (0 : ℚ) < 2 ^ d by positivity)]
          calc |(m : ℚ)| * 2 ^ d ≤ 2 ^ 63 * 2 ^ (-200 : ℤ) :=
                mul_le_mul (by exact_mod_cast hm) (zpow_le_zpow_right₀ one_le_two (by omega)) (by positivity) (by positivity)
            _ < 1 / 2 := by norm_num
        rw [bfShift, if_neg h0, if_neg hfar, if_pos hnear]
        refine ⟨0, roundInt_zero_of_small hsmall, rfl, Iff.rfl, iff_of_true rfl ?_⟩
        rw [Int.cast_zero]
        exact mul_ne_zero (Int.cast_ne_zero.mpr h0) (by positivity)
      · rw [bfShift, if_neg h0, if_neg hfar, if_neg hnear, roundInt]
        obtain ⟨hround, hinexact⟩ := toIntegral_spec 0 (decide (m < 0)) m.natAbs d
        have hvalue : signed (decide (m < 0)) (m.natAbs * 2 ^ d) = ((m * 2 ^ d : ℚ) : ℝ) := by
          have h := exactOf_fvalOfInt m
          rw [fvalOfInt, exactOf, zpow_zero, mul_one] at h
          rw [← signed_mul, h]
          push_cast
          rfl
        rw [hvalue] at hround hinexact
        refine ⟨_, hround, rfl, Iff.rfl, hinexact.trans (not_congr ⟨fun h => ?_, fun h => ?_⟩)⟩
        · exact_mod_cast h.symm
        · rw [h, Rat.cast_intCast]

/-- `BfAlignAdd` of R67: the shifted number is clamped and added, and the sum is clamped. -/
theorem bfAlignAdd_eq {a xa m x : Int} (hxa : xa ≠ -2 ^ 31) (hx : x ≠ -2 ^ 31) : bfAlignAdd a xa m x =
    let s := bfShift m (x - xa)
    ((clamped (a + clamped s.1), xa),
      evAnd (evAnd (if clamped s.1 = s.1 then evNone else ⟨flagSAT ||| flagNX, 1⟩) (evIf s.2 flagNX))
        (if clamped (a + clamped s.1) = a + clamped s.1 then evNone else ⟨flagSAT ||| flagNX, 1⟩)) := by
  have hvalid : ¬(decide (xa = bfInvalid) || decide (x = bfInvalid)) = true := by
    simpa only [Bool.or_eq_true, decide_eq_true_eq, not_or] using ⟨hxa, hx⟩
  rw [bfAlignAdd, if_neg hvalid]
  simp only [bfClamp_eq]
  rfl

theorem eq_of_roundInt_intCast {k t : ℤ} (h : RoundInt (k : ℚ) t) : t = k := by
  rw [RoundInt, IntegralTo, if_pos rfl, Rat.cast_intCast, ← Int.cast_sub, ← Int.cast_abs] at h
  have hlt : |k - t| < 1 := by
    have : ((|k - t| : ℤ) : ℝ) < (1 : ℤ) := lt_of_le_of_lt h.1 (by norm_num)
    exact_mod_cast this
  have := Int.abs_lt_one_iff.mp hlt
  omega

/-- The events of two clamps and of one rounding. -/
theorem bfEvents (p q : Prop) [Decidable p] [Decidable q] (inexact : Bool) :
    let e := evAnd (evAnd (if p then evNone else ⟨flagSAT ||| flagNX, 1⟩) (evIf inexact flagNX))
      (if q then evNone else ⟨flagSAT ||| flagNX, 1⟩)
    e.sat = (if p then 0 else 1) + (if q then 0 else 1) ∧
    e.flags = (if e.sat = 0 then 0 else flagSAT ||| flagNX) ||| (if p ∧ inexact = false then 0 else flagNX) := by
  by_cases hp : p <;> by_cases hq : q <;> cases inexact <;> simp only [hp, hq, if_true, if_false] <;> decide

theorem bfAlignAdd_spec {a xa m x : Int} (hm : |m| ≤ 2 ^ 63) :
    let got := bfAlignAdd a xa m x
    let top : ℤ := 2 ^ 63 - 1
    let exact : ℚ := m * 2 ^ (x - xa)
    (xa = -2 ^ 31 ∨ x = -2 ^ 31 → got = ((0, -2 ^ 31), evNone)) ∧
    (xa ≠ -2 ^ 31 → x ≠ -2 ^ 31 → ∃ t, RoundInt exact t ∧
      let t' := max (-top) (min top t)
      got.1 = (max (-top) (min top (a + t')), xa) ∧
      got.2.sat = (if t' = t then 0 else 1) + (if a + t' ≤ top ∧ -top ≤ a + t' then 0 else 1) ∧
      got.2.flags = (if got.2.sat = 0 then 0 else flagSAT ||| flagNX) ||| (if exact = t' then 0 else flagNX)) := by
  intro got top exact
  refine ⟨fun h => ?_, fun hxa hx => ?_⟩
  · have hinvalid : (decide (xa = bfInvalid) || decide (x = bfInvalid)) = true := by
      rw [Bool.or_eq_true, decide_eq_true_iff, decide_eq_true_iff]
      exact h
    simp only [got, bfAlignAdd, if_pos hinvalid]
    rfl
  · obtain ⟨t, hround, hclamp, hfix, hinexact⟩ := bfShift_spec hm (x - xa)
    refine ⟨t, hround, ?_⟩
    have hgot : got = ((clamped (a + clamped t), xa),
        evAnd (evAnd (if clamped t = t then evNone else ⟨flagSAT ||| flagNX, 1⟩) (evIf (bfShift m (x - xa)).2 flagNX))
          (if clamped (a + clamped t) = a + clamped t then evNone else ⟨flagSAT ||| flagNX, 1⟩)) := by
      have h := bfAlignAdd_eq (a := a) (m := m) hxa hx
      simp only [hfix] at h
      simp only [hclamp] at h
      exact h
    have hrange : clamped (a + clamped t) = a + clamped t ↔ a + clamped t ≤ top ∧ -top ≤ a + clamped t := clamped_eq_self_iff _
    have hexact : exact = (clamped t : ℚ) ↔ clamped t = t ∧ (bfShift m (x - xa)).2 = false := by
      rw [← Bool.not_eq_true, hinexact, not_not]
      refine ⟨fun h => ?_, fun ⟨h, h'⟩ => by rw [h]; exact h'⟩
      have ht : t = clamped t := eq_of_roundInt_intCast (h ▸ hround)
      exact ⟨ht.symm, by rw [ht]; exact h⟩
    obtain ⟨hsat, hflags⟩ := bfEvents (clamped t = t) (clamped (a + clamped t) = a + clamped t) (bfShift m (x - xa)).2
    rw [hgot]
    refine ⟨rfl, hsat.trans ?_, hflags.trans ?_⟩
    · rw [if_congr hrange rfl rfl]; rfl
    · rw [← if_congr hexact rfl rfl]; rfl

end Sys2Proof.Proofs.Formats
end

section
/-!
Decoding block-float values (R67, R156): beyond all formats, the exponent does not matter.
-/
namespace Sys2Proof.Proofs.Formats
open Sys2Proof Sys2Proof.Machine Sys2Proof.Claims

/-! ## Far above and far below an IEEE format -/

section
variable {m : BitVec 3} (hm : m.toNat < 3) {rm : RM} {neg : Bool} {M : Nat} {e : Int} (hM : M ≠ 0)
include hm hM

omit hM in
/-- The smallest number above zero. -/
theorem fMagnitude_one : fMagnitude m 1 = 2 ^ minExp (fmtOfF m) := by
  obtain ⟨hfb, -, -, hbias⟩ := format_sizes hm
  have h := magAt_index (fMant m) (1 - (fBias m : ℤ) - fMant m) (k := 0) (n := 1)
    (Nat.one_le_two_pow.trans (Nat.pow_le_pow_right two_pos (Nat.le_succ _))) (.inl rfl)
  rw [Nat.zero_mul, Nat.zero_add, Nat.cast_one, one_mul, Nat.cast_zero, zero_add] at h
  rw [minExp, hfb, hbias]
  exact h

theorem roundFin_above (h : fMagnitude m (fInf m) ≤ M * 2 ^ e) : roundFin (fmtOfF m) rm neg M e false =
    (signBit (fmtOfF m) neg + overflowBits (fmtOfF m) rm neg, evFlags (flagOF ||| flagNX)) := by
  obtain ⟨s, n, inexact, hby, -, hround⟩ := roundFin_spec (f := fmtOfF m) (rm := rm) (neg := neg) (st := false)
    (a := M * 2 ^ e) hM rfl (by simp)
  rw [magAt_format hm] at hby
  obtain ⟨-, hhigh, hn⟩ := hby
  have hs := (fMagnitude_strictMono m).lt_iff_lt.mp (h.trans_lt hhigh)
  rw [hround, infBits_eq hm, if_pos (by omega)]

theorem roundFin_below (h : (M : ℝ) * 2 ^ e < fMagnitude m 1 / 2) : roundFin (fmtOfF m) rm neg M e false =
    (signBit (fmtOfF m) neg + (if rm = .ru ∧ neg = false ∨ rm = .rd ∧ neg = true then 1 else 0), ⟨flagNX ||| flagUF, 0⟩) := by
  have hpos : (0 : ℝ) < M * 2 ^ e := mul_pos (Nat.cast_pos.mpr (Nat.pos_of_ne_zero hM)) (by positivity)
  have hmono := fMagnitude_strictMono m
  have hzero := fMagnitude_zero m
  have hone := fMagnitude_one hm
  have htiny : roundTiny (fmtOfF m) rm neg M e false = true := by
    refine (roundTiny_iff (a := M * 2 ^ e) hM (e := e) (st := false) rfl (by simp)).mpr (not_passes_of_lt natCast_strictMono ?_)
    have hlast : (1 : ℝ) ≤ (lastSig (fmtOfF m) : ℕ) := by
      exact_mod_cast (show 1 ≤ lastSig (fmtOfF m) by have := lastSig_odd (fmtOfF m); omega)
    refine lt_of_lt_of_le ?_ hlast
    rw [div_lt_one (by positivity), zpow_sub_one₀ two_ne_zero, ← hone]
    linarith
  obtain ⟨s, n, inexact, hby, hinexact, hround⟩ := roundFin_spec (f := fmtOfF m) (rm := rm) (neg := neg) (st := false)
    (a := M * 2 ^ e) hM rfl (by simp)
  rw [magAt_format hm] at hby hinexact
  obtain ⟨hlow, -, hn⟩ := hby
  obtain rfl : s = 0 := by
    have := hmono.lt_iff_lt.mp (hlow.trans_lt (show (M : ℝ) * 2 ^ e < fMagnitude m 1 by linarith))
    omega
  have hup : StepsUp (fMagnitude m) rm neg (M * 2 ^ e) 0 ↔ rm = .ru ∧ neg = false ∨ rm = .rd ∧ neg = true := by
    cases rm with
    | rn =>
      rw [StepsUp, hzero, zero_add, zero_add]
      exact iff_of_false (by rintro (h' | ⟨h', -⟩) <;> linarith) (by simp)
    | rz => simp [StepsUp]
    | ru => simp [StepsUp, hzero, hpos.ne']
    | rd => simp [StepsUp, hzero, hpos.ne']
  rw [hup] at hn
  have hn' : n = if rm = .ru ∧ neg = false ∨ rm = .rd ∧ neg = true then 1 else 0 := by
    rcases hn with ⟨h', rfl⟩ | ⟨h', rfl⟩
    · rw [if_pos h']
    · rw [if_neg h']
  have hle : n ≤ 1 := by rw [hn']; split <;> decide
  have hinf : 2 ≤ fInf m := by have := fInf_pred_odd hm; omega
  obtain rfl : inexact = true := by
    rw [hinexact]
    obtain rfl | rfl : n = 0 ∨ n = 1 := by omega
    · rw [hzero]; exact hpos.ne
    · exact (show (M : ℝ) * 2 ^ e < fMagnitude m 1 by linarith).ne'
  rw [hround, infBits_eq hm, if_neg (by omega), htiny, ← hn']
  rfl

end

/-! ## Far below a tapered format -/

theorem tEncode_below {w : Nat} (hw : w = 5 ∨ w = 7) {neg : Bool} {M : Nat} {e : Int} (hM : M ≠ 0)
    (h : (M : ℝ) * 2 ^ e < taperedSeq w 1 / 2) : tEncode (w + 1) (.fin neg M e) = (0, ⟨flagNX ||| flagUF, 0⟩) := by
  have hpos : (0 : ℝ) < M * 2 ^ e := mul_pos (Nat.cast_pos.mpr (Nat.pos_of_ne_zero hM)) (by positivity)
  have hmono := taperedSeq_strictMono hw
  have hzero := taperedSeq_zero w
  have hlt : (M : ℝ) * 2 ^ e < taperedSeq w 1 := by linarith
  have htop : 1 ≤ 2 ^ w - 1 := by rcases hw with rfl | rfl <;> decide
  obtain ⟨lo, k, ev, ⟨hlow, -, hk⟩, -, heq, hev⟩ := tEncode_roundsBy (neg := neg) hw hM (hlt.le.trans (hmono.monotone htop))
  obtain rfl : lo = 0 := by have := hmono.lt_iff_lt.mp (hlow.trans_lt hlt); omega
  have hdown : ¬StepsUp (taperedSeq w) .rn neg (M * 2 ^ e) 0 := by
    rw [StepsUp, hzero, zero_add, zero_add]
    rintro (h' | ⟨h', -⟩) <;> linarith
  obtain ⟨hup, -⟩ | ⟨-, rfl⟩ := hk
  · exact absurd hup hdown
  · rw [heq, hev, hzero, if_neg hpos.ne', decide_eq_true hlt]
    rfl

/-- The range of a tapered format. -/
theorem taperedSeq_range {w : Nat} (hw : w = 5 ∨ w = 7) :
    taperedSeq w (2 ^ w - 1) < 2 ^ (4000 : ℤ) ∧ (2 : ℝ) ^ (-3000 : ℤ) ≤ taperedSeq w 1 / 2 := by
  have hrange : (tMagOf w (2 ^ w - 1)).1 = 1 ∧ (tMagOf w (2 ^ w - 1)).2 < 4000 ∧ 1 ≤ (tMagOf w 1).1 ∧ -2999 ≤ (tMagOf w 1).2 := by
    rcases hw with rfl | rfl <;> decide
  have h1 : 1 < 2 ^ w := by rcases hw with rfl | rfl <;> decide
  obtain ⟨htop, htop', hlow, hlow'⟩ := hrange
  rw [taperedSeq_of_lt (by omega), taperedSeq_of_lt h1, htop, Nat.cast_one, one_mul]
  refine ⟨zpow_lt_zpow_right₀ one_lt_two htop', ?_⟩
  have hone : (1 : ℝ) ≤ (tMagOf w 1).1 := by exact_mod_cast hlow
  calc (2 : ℝ) ^ (-3000 : ℤ) = 2 ^ (-2999 : ℤ) / 2 := by rw [div_eq_mul_inv, ← zpow_sub_one₀ two_ne_zero]; norm_num
    _ ≤ 2 ^ (tMagOf w 1).2 / 2 := div_le_div_of_nonneg_right (zpow_le_zpow_right₀ one_le_two hlow') two_pos.le
    _ ≤ (tMagOf w 1).1 * 2 ^ (tMagOf w 1).2 / 2 :=
      div_le_div_of_nonneg_right (le_mul_of_one_le_left (by positivity) hone) two_pos.le

/-! ## Decoding -/

/-- Beyond 2^4000 or below 2^-4000 the exponent does not matter to any format. -/
theorem narrow_of_far {m : BitVec 3} (rm : RM) (neg : Bool) {M : Nat} {e e' : Int} (hM : M ≠ 0) (hlt : M < 2 ^ 64)
    (h : 4000 ≤ e ∧ 4000 ≤ e' ∨ e ≤ -4000 ∧ e' ≤ -4000) :
    narrow (fmtOfF m) rm (.fin neg M e) = narrow (fmtOfF m) rm (.fin neg M e') := by
  have habove : ∀ e : Int, 4000 ≤ e → (2 : ℝ) ^ (4000 : ℤ) ≤ M * 2 ^ e := fun e he => by
    have hone : (1 : ℝ) ≤ M := by exact_mod_cast Nat.one_le_iff_ne_zero.mpr hM
    exact (zpow_le_zpow_right₀ one_le_two he).trans (le_mul_of_one_le_left (by positivity) hone)
  have hbelow : ∀ e : Int, e ≤ -4000 → (M : ℝ) * 2 ^ e < 2 ^ (-3000 : ℤ) := fun e he => by
    have hM' : (M : ℝ) < 2 ^ (64 : ℤ) := by exact_mod_cast hlt
    calc (M : ℝ) * 2 ^ e < 2 ^ (64 : ℤ) * 2 ^ e := mul_lt_mul_of_pos_right hM' (by positivity)
      _ = 2 ^ (64 + e) := (zpow_add₀ two_ne_zero _ _).symm
      _ ≤ 2 ^ (-3000 : ℤ) := zpow_le_zpow_right₀ one_le_two (by omega)
  rcases Nat.lt_or_ge m.toNat 3 with hm | hm
  · have hbig : fMagnitude m (fInf m) ≤ 2 ^ (4000 : ℤ) := by
      rw [(fMagnitude_top hm).1, ← zpow_natCast]
      refine zpow_le_zpow_right₀ one_le_two ?_
      rcases cases_ieee hm with rfl | rfl | rfl <;> decide
    have hsmall : (2 : ℝ) ^ (-3000 : ℤ) ≤ fMagnitude m 1 / 2 := by
      rw [fMagnitude_one hm, div_eq_mul_inv, ← zpow_sub_one₀ two_ne_zero]
      refine zpow_le_zpow_right₀ one_le_two ?_
      rcases cases_ieee hm with rfl | rfl | rfl <;> decide
    rw [narrow_ieee hm, narrow_ieee hm, roundVal, roundVal]
    rcases h with ⟨he, he'⟩ | ⟨he, he'⟩
    · rw [roundFin_above hm hM (hbig.trans (habove e he)), roundFin_above hm hM (hbig.trans (habove e' he'))]
    · rw [roundFin_below hm hM ((hbelow e he).trans_le hsmall), roundFin_below hm hM ((hbelow e' he').trans_le hsmall)]
  · have hw : taperedBits m = 5 ∨ taperedBits m = 7 := by
      rcases cases_tapered hm with ⟨hw, -⟩ | ⟨hw, -⟩ <;> simp [hw]
    rw [narrow_tapered hm, narrow_tapered hm]
    generalize taperedBits m = w at hw
    obtain ⟨hbig, hsmall⟩ := taperedSeq_range hw
    rcases h with ⟨he, he'⟩ | ⟨he, he'⟩
    · rw [tEncode_saturates hw hM (hbig.trans_le (habove e he)), tEncode_saturates hw hM (hbig.trans_le (habove e' he'))]
    · rw [tEncode_below hw hM ((hbelow e he).trans_le hsmall), tEncode_below hw hM ((hbelow e' he').trans_le hsmall)]

theorem defaultNaN_elem (m : BitVec 3) : defaultNaN (fmtOfF m) = elemNaN m := by
  revert m; decide

/-- `BfDecode` of R67: the number that the pair stands for, rounded once. -/
theorem bfDecode_spec (m : BitVec 3) (rm : BitVec 2) {a xa : ℤ} (ha : |a| ≤ 2 ^ 63) :
    let got := bfDecode a xa (fmtOfF m) (rmOf rm)
    (xa = -2 ^ 31 → got = (elemNaN m, ⟨flagNV, 0⟩)) ∧ (xa ≠ -2 ^ 31 → a = 0 → got = (0, evNone)) ∧
    (xa ≠ -2 ^ 31 → a ≠ 0 → NarrowsTo m rm ((a : ℝ) * 2 ^ xa) got) := by
  intro got
  have hvalid : xa ≠ -2 ^ 31 → got = narrow (fmtOfF m) (rmOf rm)
      (.fin (decide (a < 0)) a.natAbs (if 4000 < xa then 4000 else if xa < -4000 then -4000 else xa)) := fun h => if_neg h
  refine ⟨fun h => ?_, fun h h0 => ?_, fun h h0 => ?_⟩
  · have hgot : got = (defaultNaN (fmtOfF m), evFlags flagNV) := if_pos h
    rw [hgot, defaultNaN_elem]
    rfl
  · rw [hvalid h, h0, show decide ((0 : ℤ) < 0) = decide False from rfl, Int.natAbs_zero, narrow_zero]
    split <;> rfl
  · have hM : a.natAbs ≠ 0 := Int.natAbs_ne_zero.mpr h0
    have hlt : a.natAbs < 2 ^ 64 := by rw [abs_le] at ha; omega
    have hvalue : exactOf (.fin (decide (a < 0)) a.natAbs xa) = a * 2 ^ xa := by
      have hscale := signed_zpow (decide (a < 0)) a.natAbs 0 xa
      rw [zero_add] at hscale
      rw [hscale]
      exact congrArg (· * (2 : ℝ) ^ xa) (exactOf_fvalOfInt a)
    have hsame : got = narrow (fmtOfF m) (rmOf rm) (.fin (decide (a < 0)) a.natAbs xa) := by
      rw [hvalid h]
      split
      next habove => exact narrow_of_far _ _ hM hlt (.inl ⟨le_rfl, habove.le⟩)
      next =>
        split
        next hbelow => exact narrow_of_far _ _ hM hlt (.inr ⟨le_rfl, hbelow.le⟩)
        next => rfl
    rw [hsame, ← hvalue]
    exact narrowsTo_narrow m rm _ xa hM

theorem blockFloatValues : BlockFloatValues :=
  ⟨fun _ _ hm _ _ => ⟨bfEncode_special hm, bfEncode_zeros hm, bfEncode_spec hm⟩,
    fun _ _ _ _ _ hm _ _ => bfAlignAdd_spec hm, fun m rm _ _ _ ha _ => bfDecode_spec m rm ha⟩

/-- Settles O31: the reductions as folds over the lanes, the block-float triggers by the integers that they round to. -/
theorem vecReductionsAndBlockFloat : Obligations.VecReductionsAndBlockFloat :=
  ⟨vecReductionsComplete, orderedSumsAddLaneAfterLane, sumsAreFpuSums, extremaAreLanes, blockFloatTriggersComplete, blockFloatValues⟩

end Sys2Proof.Proofs.Formats
end
